-- ==== Sys2Proof/Word.lean ====
section
/-!
DEFINITION. The word types of the model: the byte, the status byte, and the sparse table that every
numbered family of units, registers or cells is kept in.
-/

namespace Sys2Proof

/-- One byte of memory, of a link or of a record. -/
abbrev Byte := BitVec 8

/-- A status byte of R12, as the number the manual gives it. -/
abbrev Status := Nat

/-- A family of like things by number, kept sparse: numbers strictly rising, an unlisted number holding the
family's default (`Machine.Ops` gives the reads and writes, which keep that form). -/
abbrev Tbl (α : Type) := List (Nat × α)

end Sys2Proof
end

