-- ==== Sys2Proof/Syntax.lean ====
section
/-!
DEFINITION. The commands of the block: one constructor of `Instr` for each row of spec/opcode_table.json, in the
table's order, and the operand types they carry. An operand is what the outside world decides: which unit, which
register and value, which bytes a link brought, which physical errors a read meets.
-/

namespace Sys2Proof

/-- Who writes a register or orders something: the paths of R112, R374, R392 and R394. -/
inductive Master where
  | companion
  | controlCore (cluster : Nat)
  | bmc
  | peer (port flow : Nat)
  deriving DecidableEq, Repr

/-- A core, by its cluster and its number there. -/
structure CoreRef where
  cluster : Nat
  core : Nat
  deriving DecidableEq, Repr

/-- What the outside world adds to a command that does work. Physical errors its own accesses meet: wrong symbols of stack lines
(symbol index, value XORed in; R245 to R247), cells that hold a fixed value (R250), failing transfers over the stack port (R249),
errors of on-chip memories (R262), and an error answer of the companion (R347). And how far the command takes a verb that may be
in flight beside others: which verb, which lines of its sources it reads and which lines of its results it writes (R85, R134,
R165, R173). -/
structure Upset where
  /-- which of the verbs the command may be about: those of its opcode that have started, oldest first, then the next to start -/
  nth : Nat := 0
  /-- numbers of the 128-byte lines the command reads of its verb's sources; all where it names none -/
  reads : Option (List Nat) := none
  /-- numbers of the 128-byte lines the command writes of its verb's results; all where it names none -/
  part : Option (List Nat) := none
  /-- line address, with how many transfers of its codeword over the stack port fail in a row (R249) -/
  transfers : List (Nat × Nat) := []
  /-- line address, with its symbols that hold fixed bits: symbol index, mask and value of those bits (R250) -/
  stuck : List (Nat × List (Nat × Nat × Nat)) := []
  /-- on-chip memories of the core, by their codes of SRAM_LAST, in which an error is corrected (R262, R269) -/
  corrected : List Nat := []
  /-- lines of the cluster cache, physical address ÷ 128, with an error in their data, and whether it is uncorrectable -/
  cacheData : List (Nat × Bool) := []
  /-- an error in the tags of the cluster cache: whether both copies are bad -/
  cacheTags : Option Bool := none
  /-- line whose write-combining entry has an uncorrectable error -/
  combining : Option Nat := none
  /-- line of a held write whose entry in the held-write store has an uncorrectable error -/
  heldWrite : Option Nat := none
  /-- line address, with the wrong symbols of its stored word -/
  cells : List (Nat × List (Nat × Nat)) := []
  /-- local-store offset of a word with an uncorrectable error -/
  localStore : Option Nat := none
  /-- the accumulator store has an uncorrectable error under the verb -/
  accumulator : Bool := false
  /-- a parity-protected queue, count or FIFO entry of the verb is bad -/
  parity : Bool := false
  /-- a noun copy the core keeps for the verb is bad -/
  nounCopy : Bool := false
  /-- the companion answers the verb's accesses with an error -/
  companion : Bool := false
  deriving DecidableEq, Repr

/-- An error met by the dispatcher's fetch (R106, R262): none, one corrected, an uncorrectable one in the word, or one such that
the opcode cannot be read. -/
inductive FetchUpset where
  | none
  | corrected
  | word
  | opcode
  deriving DecidableEq, Repr

/-- Who reads at a base die: the READER codes of R267 and the outcomes of R251. -/
inductive Reader where
  /-- over the stack port, for the station that reads -/
  | port (station : Nat)
  | unit
  | patrol
  | rangeScrub
  | eviction
  | refetch
  | checker
  deriving DecidableEq, Repr

/-- A record of the record store (R426). -/
inductive StoreRecord where
  | bootControl
  | ownerKey
  | sealLog
  | mapout (n ch : Nat)
  | erasure (n ch : Nat)
  | guardBand (die : Nat)
  /-- the shutdown record `index`, 0 the newest -/
  | shutdown (index : Nat)
  deriving DecidableEq, Repr

/-- What the management complex finds as it boots: REFCLK_XL sound (R442), and the records whose copies all fail their CRC (R426). -/
structure BootFinds where
  refclkXl : Bool := true
  lost : List StoreRecord := []
  deriving DecidableEq, Repr

/-- The four queues of a core (R84). -/
inductive Queue where
  | m
  | v
  | s
  | d
  deriving DecidableEq, Repr

/-- Who writes at a base die (R185, R187). -/
inductive Writer where
  | verb (cluster core : Nat) (queue : Queue)
  | cache (cluster : Nat)
  | companion
  | peer (port flow : Nat)
  | sequence (id : Nat)
  | device
  deriving DecidableEq, Repr

/-- The ordering attributes of R346. -/
inductive Ordering where
  | relaxed
  | ordered
  | release
  deriving DecidableEq, Repr

/-- A watched companion line (R348). -/
inductive Watched where
  /-- record `index` of the command ring of partition `pid` -/
  | command (pid index : Nat)
  /-- completion head word of partition `pid` -/
  | cplHead (pid : Nat)
  /-- head word of event ring `ring` -/
  | ringHead (ring : Nat)
  deriving DecidableEq, Repr

/-- A packet of the fabric transport, the header of R365 field by field, its payload, and whether it arrived with
a CE mark (R372). -/
structure Packet where
  typ : Nat := 0
  ver : Nat := 1
  ceEcho : Bool := false
  first : Bool := false
  last : Bool := false
  /-- the reserved bits of FLAGS, DFLOW and SFLOW and the reserved bytes of the header, joined: zero when sound -/
  reserved : Nat := 0
  dflow : Nat := 0
  sflow : Nat := 0
  len : Nat := 0
  psn : Nat := 0
  recvPsn : Nat := 0
  donePsn : Nat := 0
  status : Status := 0
  op : Nat := 0
  addr : Nat := 0
  payload : List Byte := []
  ce : Bool := false
  deriving DecidableEq, Repr

/-- A received Ethernet frame, by the properties R359 and R364 judge, with its packet. -/
structure Frame where
  fcsOk : Bool := true
  dmac : Nat := 0
  tags : Nat := 0
  etype : Nat := 0
  bytes : Nat := 64
  ipDst : Nat := 0
  ipExtension : Bool := false
  ipFragment : Bool := false
  udpChecksumOk : Bool := true
  udpPort : Nat := 0
  packet : Packet := {}
  deriving DecidableEq, Repr

/-- What the current monitor of one domain gave over a decision window (R379): its average in units of 0.125 W,
and whether its code lay at an end of its scale or stood still for 256 samples. -/
structure MonSample where
  power : Nat := 0
  outOfRange : Bool := false
  stuck : Bool := false
  deriving DecidableEq, Repr

/-- An access of a control core (R183): what it does and to which device virtual address, with its size in bytes. -/
inductive CcAccess where
  | load (va size : Nat)
  | store (va size value : Nat)
  | amo (op va size value : Nat)
  | loadReserved (va size : Nat)
  | storeConditional (va size value : Nat)
  /-- FENCE, with whether both its sets hold I, O, R and W -/
  | fence (full : Bool)
  /-- a load of a register, by its offset in the cluster's own CLU block (R112) -/
  | loadRegister (offset size : Nat)
  deriving DecidableEq, Repr

/-- The commands, one constructor for each row of the table of operations and events. `c k` is core k of cluster
c, `s ch` channel ch of stack s, `f n` flow n of fabric port f, `p` a partition. -/
inductive Instr where
  | registerWrite (by_ : Master) (offset width value : Nat)
  | resetAssert (lowNs : Nat)
  | resetRelease (straps : Nat) (finds : BootFinds) (slotA slotB : Option (List Byte))
  | bootWatchdog
  | powerLoss
  | stackRailsUp (s : Nat)
  | stackRailFault (die : Nat)
  | refclkXlLoss
  | refclkFabLoss
  | mgmtRestart
  | loadFullImage
  | loadPartialImage
  | imageFetchDone (image : List Byte)
  | imageFetchTimeout
  | imageVerifyDone
  | imageApplyDone
  | coreTestDone (c k : Nat) (pass : Bool)
  | stackTrainDone (s : Nat) (descriptor : List Byte) (failedLanes : List (Nat × Nat × Nat))
  | stackBringupComplete
  | verbDispatch (c k : Nat) (u : FetchUpset)
  | verbComplete (c k : Nat) (q : Queue)
  | joinTimeout (c k : Nat) (q : Queue)
  | nop (x : CoreRef) (q : Queue) (u : Upset)
  | join (x : CoreRef) (q : Queue) (u : Upset)
  | bind (x : CoreRef) (q : Queue) (u : Upset)
  | unbind (x : CoreRef) (q : Queue) (u : Upset)
  | fence (x : CoreRef) (q : Queue) (u : Upset)
  | mma (c k : Nat) (u : Upset)
  | mdrain (c k : Nat) (u : Upset)
  | mzero (c k : Nat) (u : Upset)
  | vmap (c k : Nat) (u : Upset)
  | vred (c k : Nat) (u : Upset)
  | vsmax (c k : Nat) (u : Upset)
  | vnorm (c k : Nat) (u : Upset)
  | vsample (c k : Nat) (u : Upset)
  | sset (x : CoreRef) (u : Upset)
  | sinc (x : CoreRef) (u : Upset)
  | sadd (x : CoreRef) (u : Upset)
  | sload (c k : Nat) (u : Upset)
  | scmp (x : CoreRef) (u : Upset)
  | sjmp (x : CoreRef) (u : Upset)
  | swap (x : CoreRef) (u : Upset)
  | endVerb (x : CoreRef) (u : Upset)
  | strap (x : CoreRef) (u : Upset)
  | dcopy (c k : Nat) (u : Upset)
  | dgather (c k : Nat) (u : Upset)
  | dscatter (c k : Nat) (u : Upset)
  | dak2 (c k : Nat) (u : Upset)
  | dflush (c k : Nat) (u : Upset)
  | datom (c k : Nat) (u : Upset)
  | dcvcfg (c k : Nat) (u : Upset)
  | coreStart (c k bank entry : Nat)
  | coreStop (c k : Nat)
  | coreAbort (c k : Nat)
  | ibLoad (c k bank : Nat)
  | clauseLoadDone (c k bank : Nat) (u : Upset)
  | strapPendClear (c k : Nat)
  | afifoPush (by_ : Master) (c k entry : Nat)
  | tileSend (producer : Nat)
  | tileArrival (consumer : Nat) (u : Upset)
  | creditArrival (producer : Nat)
  | creditRevoke (producer : Nat)
  | baseDieWrite (w : Writer) (pa : Nat) (bytes : List Byte)
  | wcbEvictTimeout (s ch line : Nat) (u : Upset)
  | baseDieRead (r : Reader) (pa : Nat) (u : Upset) (transferFailures : Nat)
  | cacheEviction (cluster line : Nat)
  | stackPortWake (s : Nat)
  | channelMapout (s ch : Nat)
  | channelReturn (s ch : Nat)
  | refreshDue (s ch : Nat) (busy : Bool)
  | phyRecalWindow (fabric : Bool) (unit : Nat)
  | stackTempSample (s : Nat) (quarterDegrees : Int)
  | stackSensorTimeout (s : Nat)
  | stackAdmitUpdate (s : Nat)
  | bsuShareUpdate (s : Nat)
  | tgStart (s : Nat)
  | tgStop (s : Nat)
  /-- the lines a channel's checker reads back with wrong symbols: channel, line index, symbols and what each is wrong by -/
  | tgRunEnd (s : Nat) (found : List (Nat × Nat × List (Nat × Nat)))
  | rowdot (s ch : Nat) (u : Upset)
  | rowsum (s ch : Nat) (u : Upset)
  | reduce (s ch : Nat) (u : Upset)
  | gather (s ch : Nat) (u : Upset)
  | scatterAdd (s ch : Nat) (u : Upset)
  | combine (s ch : Nat) (u : Upset)
  | cancel (s ch : Nat)
  | bsuCancel (s pid tag : Nat)
  | seqAdmit (id : Nat) (u : Upset)
  | sliceBoundary (s ch lines : Nat) (u : Upset)
  | claimStall (id : Nat)
  | sequenceEnd (id : Nat) (u : Upset)
  | refetchBlockDone (entry : Nat) (data : Option (List Byte)) (u : Upset)
  | patrolLine (s ch : Nat) (u : Upset)
  | rscrubStart (s tag : Nat)
  | rscrubStop (s : Nat)
  | rscrubEnd (s : Nat) (written : Bool)
  | intClrCounts (s mask : Nat)
  | intClrLog (s : Nat)
  | intClrDrop (s : Nat)
  | erasureSet (s ch position : Nat)
  | watchedLineInvalidate (w : Watched) (line : List Byte)
  | watchedLinePoll (lines : List (Watched × List Byte))
  | nopRecord (p : Nat)
  | submit (p : Nat)
  | promptReadDone (p : Nat) (tokens : Option (List Nat))
  | cancelCommand (p : Nat)
  | prefixAdd (p : Nat)
  | prefixDel (p : Nat)
  | stepBoundary (group : Nat) (outWritten : Bool) (u : Upset)
  | stepWatchdog (group : Nat)
  | srvPeek (index pfx : Nat)
  | poolPush (p addr : Nat)
  | cmdRingConfig (p : Nat) (base : Bool) (value : Nat)
  | cplRingConfig (p : Nat) (base : Bool) (value : Nat)
  | quantumBoundary
  | phaseCommand (by_ : Master) (plan : Nat)
  | phaseCommandDone
  | clusterSwitch (cluster target : Nat)
  | switchDrainDone (cluster : Nat)
  | switchDrainTimeout (cluster : Nat)
  | switchMoveDone (cluster : Nat)
  | coreOffline (c k : Nat)
  | acctClr (p classes : Nat)
  | mcLoad (entry : Nat)
  | modelLoadDone (bytes : Option (List (Nat × Byte))) (listWritten : Bool)
  | mcEvict (entry : Nat)
  | mcUnload (entry : Nat)
  | mcPin (entry : Nat)
  | mcUnpin (entry : Nat)
  | mcTouch (entry : Nat)
  | xlPerstAssert
  | xlPerstRelease
  | linkL0 (goodLanes : Nat)
  | configAccess (write : Bool) (offset size value : Nat)
  | handoffRequest
  | handoffWindowExpire (partner64GT : Bool)
  | handoffRecoveryTimer
  | linkUp
  | linkRetryTimer
  | xlRetrain
  | linkLaneFail (lane : Nat)
  | flitReplay
  | companionRead (window offset size : Nat) (u : Upset)
  | companionWrite (window offset : Nat) (order : Ordering) (poisoned : Bool) (bytes : List Byte)
  | companionSnoop (line : Nat)
  | withdrawAnswer (line : Nat) (dirty : Option (List Byte))
  | snoopTimeout
  | eventRecordWrite
  | interruptHoldoffEnd (vector : Nat)
  | ivUnmask (vector : Nat)
  | eventRingConfig (ring : Nat) (base : Bool) (value : Nat)
  | portLinkUp (f rate lanes : Nat)
  | portDownTimeout (f : Nat)
  | fabRetrain (f : Nat)
  | portLossOfLock (f : Nat)
  | flowOpen (f n : Nat)
  | flowClose (f n : Nat)
  | helloSendTimer (f n : Nat)
  | helloTimeout (f n : Nat)
  | frameReceive (f : Nat) (frame : Frame)
  | neighborSolicitation (f target : Nat)
  | hello (f : Nat)
  | helloAck (f : Nat)
  | write (f : Nat) (u : Upset)
  | readReq (f : Nat) (u : Upset)
  | readResp (f : Nat)
  | atomic (f : Nat) (u : Upset)
  | atomicResp (f : Nat)
  | ack (f : Nat)
  | nak (f : Nat)
  | tile (f : Nat)
  | credit (f : Nat)
  | mgmt (f : Nat)
  | mgmtResp (f : Nat)
  | ackTimer (f n : Nat)
  | retransmitTimeout (f n : Nat)
  | decisionWindow (monitors : Tbl MonSample) (lostRegulators : List Nat)
  | domainIdleOff (domain : Nat)
  | domainOnComplete (domain : Nat) (reached : Bool)
  | pmbusAlert (address statusWord : Nat)
  | pwrAlertAssert
  | alertRelease
  | alertStuck
  | throttleUpdate
  | diodeCalibration (readings : List Int)
  | stackTmaxTimeout (s : Nat)
  | hwTrip (diode : Nat)
  | shutdownOrder (by_ : Master)
  | pwrOrderWrite (by_ : Master) (limit : Nat)
  | pwrRecAck (by_ : Master) (seq : Nat)
  | pwrRecErase (by_ : Master)
  | mctpRead (offset : Nat)
  | mctpWrite (offset value : Nat)
  | mctpAttest (nonce : List Byte)
  | mctpReportChunk (index : Nat)
  | mctpCertsChunk (index : Nat)
  | fwUpdate
  | fwUpdateDone (image : List Byte)
  | fwCommit
  | fwRollback (by_ : Master)
  | ownerSet (by_ : Master)
  | ownerClear (by_ : Master)
  | debugUnlock (by_ : Master)
  | sealAck (by_ : Master)
  | eraseShutdownRecords (by_ : Master)
  | eraseMapoutRecords (by_ : Master)
  | eraseErasureRecords (by_ : Master)
  | factoryReset (by_ : Master) (key : Nat)
  | presenceSample (low : Bool)
  | presenceStuck
  | sealSample (closed : Bool)
  | attestReport
  | attestCerts
  | attestLogs
  | attestDone
  | telemetrySample
  | telemetryConfig (base : Bool) (value : Nat)
  | flashSectorErase (sector : Nat)
  | ageingMonitorRead (die : Nat) (belowThreshold : Bool)
  | readinessSignal (regulators : List (Nat × Nat))
  | controlCoreAccess (cluster : Nat) (a : CcAccess) (u : Upset)
  | linkTrainingFailure
  | portBringupFailure (f : Nat) (noCommonTechnology : Bool)
  deriving DecidableEq, Repr

end Sys2Proof
end

