-- ==== Sys2Proof/Decode.lean ====
section
/-!
DEFINITION. The command that a word spells by the bits of spec/opcode_table.json. The table gives none of its rows
bits: the commands are operations and events, not instruction words, so no word spells a command (log entry 1).
-/

namespace Sys2Proof

/-- The command spelt by a word of `nbits` bits: none, since no row of the table has bits. -/
def decodeTableWord (nbits w : Nat) : Option Instr :=
  match nbits, w with
  | _, _ => none

end Sys2Proof
end

