-- ==== Sys2Proof/Config.lean ====
section
/-!
DEFINITION. What an implementation fixes: the status codes and event classes by name, and the values the manual
leaves open. An open value is an `opaque` function: nothing can evaluate it, so a statement about it holds for every
value. `Config.freeNat n` is the n-th free value; the state's counter `fresh` says which comes next (log entry 3).
-/

namespace Sys2Proof

/-! ### Status codes (R12, R13 and the tables of the owning chapters) -/

namespace Code
/-- 0x00 OK -/
abbrev ok : Status := 0x00
/-- 0x01 PENDING -/
abbrev pending : Status := 0x01
/-- 0x02 BAD_ACCESS -/
abbrev badAccess : Status := 0x02
/-- 0x03 BAD_VALUE -/
abbrev badValue : Status := 0x03
/-- 0x04 PREEMPTED_BY_PEER -/
abbrev preemptedByPeer : Status := 0x04
/-- 0x05 TIMEOUT -/
abbrev timeout : Status := 0x05
/-- 0x10 NO_IMAGE -/
abbrev noImage : Status := 0x10
/-- 0x11 IMG_FORMAT -/
abbrev imgFormat : Status := 0x11
/-- 0x12 IMG_SIGNATURE -/
abbrev imgSignature : Status := 0x12
/-- 0x13 IMG_GRADE -/
abbrev imgGrade : Status := 0x13
/-- 0x14 IMG_FIRMWARE -/
abbrev imgFirmware : Status := 0x14
/-- 0x15 IMG_SECTION -/
abbrev imgSection : Status := 0x15
/-- 0x16 IMG_RESERVED -/
abbrev imgReserved : Status := 0x16
/-- 0x17 RESOURCE_ABSENT -/
abbrev resourceAbsent : Status := 0x17
/-- 0x18 RESOURCE_CONFLICT -/
abbrev resourceConflict : Status := 0x18
/-- 0x19 BUDGET -/
abbrev budget : Status := 0x19
/-- 0x1A CAPACITY -/
abbrev capacity : Status := 0x1A
/-- 0x1B PARTIAL_BASE -/
abbrev partialBase : Status := 0x1B
/-- 0x1C PARTIAL_SCOPE -/
abbrev partialScope : Status := 0x1C
/-- 0x1D PARTIAL_BUSY -/
abbrev partialBusy : Status := 0x1D
/-- 0x1E LOAD_BUSY -/
abbrev loadBusy : Status := 0x1E
/-- 0x1F FETCH_FAULT -/
abbrev fetchFault : Status := 0x1F
/-- 0x20 VERB_INVALID -/
abbrev verbInvalid : Status := 0x20
/-- 0x21 FORMAT_NOT_IN_GRADE -/
abbrev formatNotInGrade : Status := 0x21
/-- 0x22 CORE_BUSY -/
abbrev coreBusy : Status := 0x22
/-- 0x23 BUSY_FETCH -/
abbrev busyFetch : Status := 0x23
/-- 0x24 CLAUSE_INVALID -/
abbrev clauseInvalid : Status := 0x24
/-- 0x25 SIGNAL_OVERFLOW -/
abbrev signalOverflow : Status := 0x25
/-- 0x26 JOIN_TIMEOUT -/
abbrev joinTimeout : Status := 0x26
/-- 0x27 INDEX_RANGE -/
abbrev indexRange : Status := 0x27
/-- 0x28 STATION_ABSENT -/
abbrev stationAbsent : Status := 0x28
/-- 0x29 STATION_FOREIGN -/
abbrev stationForeign : Status := 0x29
/-- 0x2A STATION_OFFLINE -/
abbrev stationOffline : Status := 0x2A
/-- 0x2B NOUN_INVALID -/
abbrev nounInvalid : Status := 0x2B
/-- 0x2C NOUN_BOUNDS -/
abbrev nounBounds : Status := 0x2C
/-- 0x2D NOUN_ACCESS -/
abbrev nounAccess : Status := 0x2D
/-- 0x2E STREAM_MISMATCH -/
abbrev streamMismatch : Status := 0x2E
/-- 0x2F AK2_ADDRESS -/
abbrev ak2Address : Status := 0x2F
/-- 0x30 TRANS_FAULT -/
abbrev transFault : Status := 0x30
/-- 0x31 TRANS_PERM -/
abbrev transPerm : Status := 0x31
/-- 0x32 ADDR_RANGE -/
abbrev addrRange : Status := 0x32
/-- 0x33 CHANNEL_OUT -/
abbrev channelOut : Status := 0x33
/-- 0x34 STACK_TRAIN -/
abbrev stackTrain : Status := 0x34
/-- 0x35 TG_MISMATCH -/
abbrev tgMismatch : Status := 0x35
/-- 0x36 CHANNEL_IN_SERVICE -/
abbrev channelInService : Status := 0x36
/-- 0x37 STACK_HOT -/
abbrev stackHot : Status := 0x37
/-- 0x38 UE_DATA -/
abbrev ueData : Status := 0x38
/-- 0x39 POISONED -/
abbrev poisoned : Status := 0x39
/-- 0x3A UE_SRAM -/
abbrev ueSram : Status := 0x3A
/-- 0x3B CV_MISMATCH -/
abbrev cvMismatch : Status := 0x3B
/-- 0x3C MODEL_DAMAGED -/
abbrev modelDamaged : Status := 0x3C
/-- 0x3D REFETCH_FAILED -/
abbrev refetchFailed : Status := 0x3D
/-- 0x3E CE_THRESHOLD -/
abbrev ceThreshold : Status := 0x3E
/-- 0x3F SCRUB_BUSY -/
abbrev scrubBusy : Status := 0x3F
/-- 0x40 SEQ_INVALID -/
abbrev seqInvalid : Status := 0x40
/-- 0x41 SEQ_OPERAND -/
abbrev seqOperand : Status := 0x41
/-- 0x42 SEQ_CAPACITY -/
abbrev seqCapacity : Status := 0x42
/-- 0x43 CLAIM_CONFLICT -/
abbrev claimConflict : Status := 0x43
/-- 0x44 CLAIM_OVERLAP -/
abbrev claimOverlap : Status := 0x44
/-- 0x45 CLAIM_STALL -/
abbrev claimStall : Status := 0x45
/-- 0x46 SEQ_CANCELLED -/
abbrev seqCancelled : Status := 0x46
/-- 0x47 SEQ_ABORTED -/
abbrev seqAborted : Status := 0x47
/-- 0x48 INTAKE_LIMIT -/
abbrev intakeLimit : Status := 0x48
/-- 0x49 SEQ_HOT -/
abbrev seqHot : Status := 0x49
/-- 0x50 REQ_INVALID -/
abbrev reqInvalid : Status := 0x50
/-- 0x51 TABLE_FULL -/
abbrev tableFull : Status := 0x51
/-- 0x52 MODEL_ABSENT -/
abbrev modelAbsent : Status := 0x52
/-- 0x53 PREFIX_INVALID -/
abbrev prefixInvalid : Status := 0x53
/-- 0x54 KV_SPACE -/
abbrev kvSpace : Status := 0x54
/-- 0x55 CANCEL_NONE -/
abbrev cancelNone : Status := 0x55
/-- 0x56 CPL_FULL -/
abbrev cplFull : Status := 0x56
/-- 0x57 LATE_CANCEL -/
abbrev lateCancel : Status := 0x57
/-- 0x58 CANCELLED -/
abbrev cancelled : Status := 0x58
/-- 0x59 EXPIRED -/
abbrev expired : Status := 0x59
/-- 0x5A STEP_FAULT -/
abbrev stepFault : Status := 0x5A
/-- 0x5B MODEL_GONE -/
abbrev modelGone : Status := 0x5B
/-- 0x5C IMAGE_RELOAD -/
abbrev imageReload : Status := 0x5C
/-- 0x5D PAGES_WAIT -/
abbrev pagesWait : Status := 0x5D
/-- 0x5E RING_FAULT -/
abbrev ringFault : Status := 0x5E
/-- 0x60 LINK_DOWN -/
abbrev linkDown : Status := 0x60
/-- 0x61 LINK_RETRAIN -/
abbrev linkRetrain : Status := 0x61
/-- 0x62 LINK_DEGRADED -/
abbrev linkDegraded : Status := 0x62
/-- 0x63 COMP_ACCESS -/
abbrev compAccess : Status := 0x63
/-- 0x64 SNOOP_TIMEOUT -/
abbrev snoopTimeout : Status := 0x64
/-- 0x65 EVENT_LOST -/
abbrev eventLost : Status := 0x65
/-- 0x66 WINDOW_RANGE -/
abbrev windowRange : Status := 0x66
/-- 0x68 PORT_DOWN -/
abbrev portDown : Status := 0x68
/-- 0x69 PORT_DEGRADED -/
abbrev portDegraded : Status := 0x69
/-- 0x6A FLOW_FAILED -/
abbrev flowFailed : Status := 0x6A
/-- 0x6B REMOTE_FAULT -/
abbrev remoteFault : Status := 0x6B
/-- 0x6C HELLO_MISMATCH -/
abbrev helloMismatch : Status := 0x6C
/-- 0x6D FLOW_INVALID -/
abbrev flowInvalid : Status := 0x6D
/-- 0x6E MGMT_REFUSED -/
abbrev mgmtRefused : Status := 0x6E
/-- 0x6F AN_FAILED -/
abbrev anFailed : Status := 0x6F
/-- 0x70 THERM_WARN -/
abbrev thermWarn : Status := 0x70
/-- 0x71 THROTTLE -/
abbrev throttle : Status := 0x71
/-- 0x72 RISE_RATE -/
abbrev riseRate : Status := 0x72
/-- 0x73 THERM_SHUTDOWN -/
abbrev thermShutdown : Status := 0x73
/-- 0x74 HW_TRIP -/
abbrev hwTrip : Status := 0x74
/-- 0x75 ALERT_ASSERTED -/
abbrev alertAsserted : Status := 0x75
/-- 0x76 ALERT_STUCK -/
abbrev alertStuck : Status := 0x76
/-- 0x77 MONITOR_FAIL -/
abbrev monitorFail : Status := 0x77
/-- 0x78 REGULATOR_FAULT -/
abbrev regulatorFault : Status := 0x78
/-- 0x79 REGULATOR_LOST -/
abbrev regulatorLost : Status := 0x79
/-- 0x7A RESTRICTED -/
abbrev restricted : Status := 0x7A
/-- 0x7B LIMIT_CHANGED -/
abbrev limitChanged : Status := 0x7B
/-- 0x7C DIODE_FAIL -/
abbrev diodeFail : Status := 0x7C
/-- 0x7D SHUTDOWN_ORDER -/
abbrev shutdownOrder : Status := 0x7D
/-- 0x7E DOMAIN_FAULT -/
abbrev domainFault : Status := 0x7E
/-- 0x80 SIG_FAIL -/
abbrev sigFail : Status := 0x80
/-- 0x81 FW_FORMAT -/
abbrev fwFormat : Status := 0x81
/-- 0x82 ROLLBACK -/
abbrev rollback : Status := 0x82
/-- 0x83 NO_PRESENCE -/
abbrev noPresence : Status := 0x83
/-- 0x84 SEAL_BROKEN -/
abbrev sealBroken : Status := 0x84
/-- 0x85 OWNER_KEY_STATE -/
abbrev ownerKeyState : Status := 0x85
/-- 0x86 FW_BUSY -/
abbrev fwBusy : Status := 0x86
/-- 0x87 ATTEST_BUSY -/
abbrev attestBusy : Status := 0x87
/-- 0x88 PRESENCE_STUCK -/
abbrev presenceStuck : Status := 0x88
/-- 0x89 DEBUG_UNLOCKED -/
abbrev debugUnlocked : Status := 0x89
/-- 0x8A OWNER_CHANGED -/
abbrev ownerChanged : Status := 0x8A
/-- 0x8B SLOT_FALLBACK -/
abbrev slotFallback : Status := 0x8B
/-- 0x8C FACTORY_RESET -/
abbrev factoryReset : Status := 0x8C
/-- 0x8D SEAL_OPEN -/
abbrev sealOpen : Status := 0x8D
/-- 0x8E REC_ERASED -/
abbrev recErased : Status := 0x8E
end Code

/-! ### Event classes (R351) -/

namespace Cls
/-- 0x00 MGMT -/
abbrev mgmt : Nat := 0x00
/-- 0x01 GRAM -/
abbrev gram : Nat := 0x01
/-- 0x02 VERB -/
abbrev verb : Nat := 0x02
/-- 0x03 STK -/
abbrev stk : Nat := 0x03
/-- 0x04 BSU -/
abbrev bsu : Nat := 0x04
/-- 0x05 CLU -/
abbrev clu : Nat := 0x05
/-- 0x06 SRV -/
abbrev srv : Nat := 0x06
/-- 0x07 SCHED -/
abbrev sched : Nat := 0x07
/-- 0x08 XL -/
abbrev xl : Nat := 0x08
/-- 0x09 FAB -/
abbrev fab : Nat := 0x09
/-- 0x0A PWR -/
abbrev pwr : Nat := 0x0A
/-- 0x0B THM -/
abbrev thm : Nat := 0x0B
/-- 0x0C SEC -/
abbrev sec : Nat := 0x0C
end Cls

/-! ### Values the manual leaves open -/

namespace Config

/-- The n-th free value: whatever the manual leaves open and nothing else determines (log entry 3). -/
opaque freeNat (n : Nat) : Nat

/-! Cryptography: the manual names the standards and states no value of them (log entry 6). -/

/-- SHAKE256 of a message (R35). -/
opaque shake256 (message : List Byte) : List Byte

/-- An Ed448 signature over a digest under a public key is good (RFC 8032, R35). -/
opaque ed448Good (key digest signature : List Byte) : Bool

/-- A string of 57 bytes is an Ed448 public key (R412). -/
opaque ed448Key (key : List Byte) : Bool

/-- ROM's Woath firmware public keys 0 to 3 (R402). -/
opaque romKey (n : Nat) : List Byte

/-- The public key of the device identity (R406). -/
opaque identityKey : List Byte

/-- The identity key's signature over a digest (R406, R408). -/
opaque identitySign (digest : List Byte) : List Byte

/-- The region, of its die's 64, that a diode watches (R388). -/
opaque diodeRegion (diode : Nat) : Nat

/-- The sum of two E8M0 scales that a scatter-add forms: the format holds powers of two alone, and the manual states no result (R93). -/
opaque scaleAdd (a b : Nat) : Nat

/-- The set of the cluster cache, of its 8,192, that a line belongs to (R17). -/
opaque cacheSet (line : Nat) : Nat

/-- The set of the link cache, of its 4,096, that a companion line belongs to (R344). -/
opaque linkSet (line : Nat) : Nat

/-- The base a root port has given BAR0, BAR2 or BAR4 by some moment: window 0, 1 or 2 in PCI Express mode (R340). -/
opaque windowBase (moment window : Nat) : Nat

/-- A line's 512 bits of PRBS31 from a generator register: the manual names neither tap nor bit order (R212). -/
opaque prbs31 (register : Nat) : Nat

/-- The row of its channel that a line lies in, for the checkerboard of R212. -/
opaque channelRow (line : Nat) : Nat

/-- The device certificate and the product CA certificate (R406). -/
opaque deviceCert : List Byte
opaque caCert : List Byte

end Config

end Sys2Proof
end

