-- ==== Sys2Proof/Machine/State.lean ====
section
/-!
DEFINITION. The state of the block, whole and as plain data. Each field's docstring reads
`name in the manual | width | rule | value at reset`, with `MODEL` in place of a rule for a field that is the model's
own. A default value in a structure is the value at reset; `notes/assumptions/2.md` lists the values the spec does not
give. Families of like units are sparse tables (`Tbl`) whose unlisted members hold the structure's default.
-/

namespace Sys2Proof.Machine

/-- Why the machine stops with a fault. No command of this block stops: every access the manual calls wrong is
answered by the block itself (all ones and BAD_ACCESS, a status, an event). -/
inductive Fault where
  /-- R445: no rule of the manual holds while an absolute maximum rating is exceeded. Raised by no command, since
  none of the table's rows exceeds a rating; safe. -/
  | beyondRatings
  deriving DecidableEq, Repr

/-- Why a command has no meaning. -/
inductive Refusal where
  /-- Raised only by an arm of `exec` whose command has no meaning in this model yet; safe. -/
  | notModelled (mnemonic : String)
  /-- Raised by a write into an unlocked debug module (R413): the module's own behaviour is the RISC-V External Debug
  Support specification's and no rule of the manual states it; safe. -/
  | debugModule
  deriving DecidableEq, Repr

/-! ### Cores (chapters 03 to 07) -/

/-- CORE_STATE.STATE of R112. -/
inductive CoreRun where
  | quiescent
  | running
  | draining
  | faulted
  | offline
  deriving DecidableEq, Repr

/-- The state of an instruction bank (R108). -/
inductive BankState where
  | empty
  | loading
  | ready
  | failed
  deriving DecidableEq, Repr

/-- The kind of an accumulator bank (R124). -/
inductive AccKind where
  | none
  | fp32
  | int32
  | fp64
  deriving DecidableEq, Repr

/-- What the dispatcher waits for (R84, R111). -/
inductive Stall where
  | none
  /-- an SJMP has been placed and has not completed -/
  | jump
  /-- an END has been placed and has not completed -/
  | clauseEnd
  /-- a boundary has switched to a bank that is LOADING -/
  | bankLoad (bank entry : Nat)
  deriving DecidableEq, Repr

/-- A verb word with its extension, field by field as R87 to R89 lay it out. -/
structure Verb where
  opcode : Nat := 0
  after : Bool := false
  ext : Bool := false
  predEn : Bool := false
  predNeg : Bool := false
  pred : Nat := 0
  /-- bit 15 of the header, reserved -/
  reserved : Bool := false
  signal : Nat := 0
  scope : Nat := 0
  order : Nat := 0
  mode : Nat := 0
  dst : Nat := 0xFFFF
  srca : Nat := 0xFFFF
  srcb : Nat := 0xFFFF
  srcc : Nat := 0xFFFF
  imm : Nat := 0
  offsDst : Nat := 0
  offsA : Nat := 0
  offsB : Nat := 0
  offsC : Nat := 0
  xa : Nat := 0xFFFF
  xb : Nat := 0xFFFF
  ximm : Nat := 0
  deriving DecidableEq, Repr

/-- How far a placed verb has come. -/
inductive VerbPhase where
  /-- placed, not started -/
  | waiting
  /-- started; something it waits for is still to come -/
  | started
  /-- its own work is finished; its completion is not yet visible (R85) -/
  | done
  deriving DecidableEq, Repr

/-- How a verb's accesses through a noun are made: its space, whether its hint allocates, and whether they are ordered
accesses at the base die (R74, R176). -/
structure Path where
  space : Nat := 0
  alloc : Bool := true
  ordered : Bool := false
  order : Ordering := .ordered
  deriving DecidableEq, Repr

/-- Bits of a 128-byte line that a verb has still to write: the line's number in its space, the bits and which of them. -/
structure LineWrite where
  path : Path := {}
  line : Nat := 0
  value : Nat := 0
  mask : Nat := 0
  /-- it is written behind every line that is not last -/
  last : Bool := false
  deriving DecidableEq, Repr

/-- A noun descriptor, as R71 lays it out. -/
structure Noun where
  base : Nat := 0
  format : Nat := 0
  rank : Nat := 0
  layout : Nat := 0
  compress : Nat := 0
  scope : Nat := 0
  valid : Bool := false
  material : Bool := false
  readonly : Bool := false
  space : Nat := 0
  /-- FLAGS bits [7:5], reserved -/
  flagsReserved : Nat := 0
  padval : Nat := 0
  planes : Nat := 0
  /-- EXTENT0 to EXTENT5 -/
  extents : List Nat := [0, 0, 0, 0, 0, 0]
  /-- LO0, HI0, LO1, HI1, LO2, HI2 -/
  pads : List Nat := [0, 0, 0, 0, 0, 0]
  /-- STRIDE0 to STRIDE5 -/
  strides : List Int := [0, 0, 0, 0, 0, 0]
  deriving DecidableEq, Repr

/-- A verb in a queue. -/
structure QEntry where
  verb : Verb := {}
  /-- index of its first word in its bank -/
  word : Nat := 0
  bank : Nat := 0
  phase : VerbPhase := .waiting
  /-- 1 once it has started with its predicate holding; DAK2: 1 more than the entries taken so far -/
  taken : Nat := 0
  /-- BIND: its RAW 0 index lay beyond the name table (R110) -/
  badName : Bool := false
  /-- consumer ports whose head slot the verb read with RELEASE set (R92) -/
  releases : List Nat := []
  /-- number the verb was placed under, unique in its core: what its writes and reads are known by -/
  id : Nat := 0
  /-- blocks of companion or peer memory it has asked for and not received -/
  asked : List Nat := []
  /-- blocks of peer memory it has received, by peer address key -/
  got : Tbl (List Byte) := []
  /-- old value an atomic performed for it returned -/
  old : Option Nat := none
  /-- it uses the compression codec (R281) -/
  codec : Bool := false
  /-- counters and predicates as it read them on reaching the head of its queue, once the core's have changed since (R90, R95, R99) -/
  latched : Option (Tbl Nat × Nat) := none
  /-- descriptors it decoded, by handle, once their entries have been rewritten since (R75, R76) -/
  nouns : Tbl Noun := []
  /-- lines of its sources read by earlier commands, by line and space, as numbers of 1,024 bits (R134, R165) -/
  loaded : Tbl Nat := []
  /-- what it has still to write (R173) -/
  todo : List LineWrite := []
  /-- its work is done but for what it has still to write -/
  worked : Bool := false
  /-- bytes it wrote while an earlier verb of its queue had not completed, by `Target.key` (R86) -/
  wrote : Tbl Nat := []
  /-- MDRAIN: banks that CLEAR sets to NONE once every result is written (R127, R134) -/
  clear : List Nat := []
  deriving DecidableEq, Repr

/-- The binding of a stream port (R77) and what it holds. -/
structure Port where
  /-- bound as producer | 1 bit | R77 | unbound -/
  producer : Bool := false
  /-- bound as consumer | 1 bit | R77 | unbound -/
  consumer : Bool := false
  /-- peer station identifier | 16 bits | R77 | 0 -/
  peer : Nat := 0
  /-- tile noun or buffer noun | 64 bytes | R77 | zero -/
  noun : Noun := {}
  /-- queue that serves the port | 2 bits | R77 | M -/
  queue : Queue := .m
  /-- credits held, by the consumer station that granted them | 0 to 64 each | R79 | none -/
  credits : Tbl Nat := []
  /-- result tiles that wait to be sent, each with the number of its verb | tiles | R92 | none -/
  staged : List (Nat × List Byte) := []
  /-- verbs whose tiles have been sent and not yet acknowledged, oldest first | numbers | R82 | none -/
  unacked : List Nat := []
  /-- slot the next tile lands in | 6 bits | R79 | 0 -/
  fill : Nat := 0
  /-- head slot | 6 bits | R92 | 0 -/
  head : Nat := 0
  /-- arrival count less slots consumed | 0 to 64 | R79 | 0 -/
  arrived : Nat := 0
  /-- an UNBIND waits for the producer's acknowledgement | 1 bit | R82 | no -/
  revoking : Bool := false
  /-- number of the tile whose bytes are on their way to its slot | - | R79 | none -/
  landing : Option Nat := none
  deriving DecidableEq, Repr

/-- An accumulator bank (R124). -/
structure AccBank where
  /-- kind | 2 bits | R124 | NONE -/
  kind : AccKind := .none
  /-- partial sums of position 32r + q, as bit patterns | 1,024 of 32 bytes | R124 | zero (DESIGN CHOICE) -/
  positions : Tbl (List Nat) := []
  /-- an INT32 partial sum has passed its range since the bank was last set | 1 bit | R135 | no -/
  wrapped : Bool := false
  deriving DecidableEq, Repr

/-- An instruction bank and its load registers (R108, R112). -/
structure IBank where
  /-- IBb_SRC.ADDR | 64 bits | R112 | 0 -/
  src : Nat := 0
  /-- IBb_LEN.LEN | 32 bits | R112 | 0 -/
  len : Nat := 0
  /-- IBb_STAT.STATE | 2 bits | R112 | EMPTY -/
  state : BankState := .empty
  /-- IBb_STAT.STATUS | 8 bits | R112 | 0 -/
  status : Status := 0
  /-- IBb_STAT.NAME | 8 bits | R112 | 0 -/
  name : Nat := 0
  /-- address and length the load in progress took | 64 and 32 bits | R108 | 0 -/
  jobSrc : Nat := 0
  jobLen : Nat := 0
  /-- instruction words | up to 4,096 of 16 bytes | R108 | none -/
  words : List (List Byte) := []
  /-- resolved name table | up to 256 of 16 bits | R108 | none -/
  names : List Nat := []
  deriving DecidableEq, Repr

/-- A QFAULT register (R112), and whether the queue issues nothing further (R104). -/
structure QFault where
  /-- QFAULT.STATUS | 8 bits | R112 | 0 -/
  status : Status := 0
  /-- QFAULT.WORD | 12 bits | R112 | 0 -/
  word : Nat := 0
  /-- QFAULT.BANK | 1 bit | R112 | 0 -/
  bank : Nat := 0
  /-- QFAULT.VALID | 1 bit | R112 | 0 -/
  valid : Bool := false
  deriving DecidableEq, Repr

/-- One thing of a kind for each of the four queues. -/
structure Quad (α : Type) where
  m : α
  v : α
  s : α
  d : α
  deriving DecidableEq, Repr

/-- The configuration of a check-value unit (R94, R265). -/
structure CvConfig where
  /-- POLY | 64 bits | R94 | 0x1EDC6F41 (R265) -/
  poly : Nat := 0x1EDC6F41
  /-- INIT | 64 bits | R94 | 0xFFFFFFFF (R265) -/
  init : Nat := 0xFFFFFFFF
  /-- XOROUT | 64 bits | R94 | 0xFFFFFFFF (R265) -/
  xorout : Nat := 0xFFFFFFFF
  /-- WIDTH | 8 bits | R94 | 32 (R265) -/
  width : Nat := 32
  /-- reflect input | 1 bit | R94 | yes (R265) -/
  reflectIn : Bool := true
  /-- reflect output | 1 bit | R94 | yes (R265) -/
  reflectOut : Bool := true
  deriving DecidableEq, Repr

/-- The dispatcher of a core (R84, R110, R114). -/
structure Dispatcher where
  /-- fetching | 1 bit | R84 | no -/
  fetching : Bool := false
  /-- fetch position, a word index | 13 bits | R84 | 0 -/
  pos : Nat := 0
  /-- bank its fetch position lies in | 1 bit | R84 | 0 -/
  bank : Nat := 0
  /-- what it is stalled on | - | R84 | nothing -/
  stall : Stall := .none
  /-- a STOP has been taken | 1 bit | R114 | no -/
  stop : Bool := false
  /-- entry of the pending SWAP | 12 bits | R110 | none -/
  swap : Option Nat := none
  /-- number of the next verb placed | - | MODEL | 0 -/
  nextId : Nat := 0
  /-- the last bank it has fetched from, CORE_STATE.FETCH_BANK | 1 bit | R112 | 0 -/
  fetched : Nat := 0
  deriving DecidableEq, Repr

/-- The result and check-value status registers of a core (R135, R147, R268). -/
structure CoreStat where
  /-- MSTAT.NAN_OUT | 1 bit | R135 | 0 -/
  mNan : Bool := false
  /-- MSTAT.INF_OUT | 1 bit | R135 | 0 -/
  mInf : Bool := false
  /-- MSTAT.CLIPPED | 1 bit | R135 | 0 -/
  mClipped : Bool := false
  /-- MSTAT.WRAPPED | 1 bit | R135 | 0 -/
  mWrapped : Bool := false
  /-- MSTAT.LAST_KIND | 8 bits | R135 | 0 -/
  lastKind : Nat := 0
  /-- VSTAT.NAN_OUT | 1 bit | R147 | 0 -/
  vNan : Bool := false
  /-- VSTAT.INF_OUT | 1 bit | R147 | 0 -/
  vInf : Bool := false
  /-- VSTAT.CLIPPED | 1 bit | R147 | 0 -/
  vClipped : Bool := false
  /-- VSTAT.SAMPLE_NAN | 1 bit | R147 | 0 -/
  vSampleNan : Bool := false
  /-- CVSTAT.MISMATCH | 1 bit | R268 | 0 -/
  cvMismatch : Bool := false
  /-- CV_LAST.VALUE | 64 bits | R268 | 0 -/
  cvLast : Nat := 0
  /-- CV_RECV.VALUE | 64 bits | R268 | 0 -/
  cvRecv : Nat := 0
  /-- MEMFAULT_VA.ADDR | 52 bits | R268 | 0 -/
  faultAddr : Nat := 0
  /-- MEMFAULT_VA.SPACE | 1 bit | R268 | 0 -/
  faultLocal : Bool := false
  /-- MEMFAULT_VA.STATUS | 8 bits | R268 | 0 -/
  faultStatus : Status := 0
  deriving DecidableEq, Repr

/-- A core (R112 and the chapters that add core registers). -/
structure CoreSt where
  /-- CORE_STATE.STATE | 3 bits | R112 | QUIESCENT -/
  run : CoreRun := .quiescent
  /-- dispatcher | - | R84 | not fetching -/
  disp : Dispatcher := {}
  /-- CORE_STATE.LAST_CMD_STATUS | 8 bits | R112 | 0 -/
  lastCmd : Status := 0
  /-- CORE_NEXT.ENTRY | 12 bits | R112 | 0 -/
  nextEntry : Nat := 0
  /-- CORE_NEXT.BANK | 1 bit | R112 | 0 -/
  nextBank : Nat := 0
  /-- CORE_NEXT.VALID | 1 bit | R112 | 0 -/
  nextValid : Bool := false
  /-- CORE_CTL.JOIN_LIMIT | 16 bits | R112 | 0 -/
  joinLimit : Nat := 0
  /-- CORE_CTL.EVENT | 1 bit | R112 | 0 -/
  event : Bool := false
  /-- QFAULT_M, _V, _S, _D | 32 bits each | R112 | 0 -/
  qfault : Quad QFault := ⟨{}, {}, {}, {}⟩
  /-- queues that have faulted and issue nothing further | 4 bits | R104 | none -/
  halted : Quad Bool := ⟨false, false, false, false⟩
  /-- STRAP_CODE.CODE | 32 bits | R112 | 0 -/
  strapCode : Nat := 0
  /-- STRAP_PEND.PEND | 1 bit | R112 | 0 -/
  strapPend : Bool := false
  /-- instruction bank 0, IB0_SRC, IB0_LEN, IB0_STAT | 64 KiB | R108 | EMPTY -/
  ib0 : IBank := {}
  /-- instruction bank 1, IB1_SRC, IB1_LEN, IB1_STAT | 64 KiB | R108 | EMPTY -/
  ib1 : IBank := {}
  /-- address FIFO, AFIFO_STAT.LEVEL its length | 64 entries of 64 bits | R101 | empty -/
  afifo : List Nat := []
  /-- PRED.P | 8 bits | R112 | 0 -/
  preds : Nat := 0
  /-- COUNTER0 to COUNTER15 | 16 of 32 bits | R112 | 0 -/
  counters : Tbl Nat := []
  /-- signal counts, Q to P at 4Q + P | 12 of 8 bits | R96 | 0 -/
  signals : Tbl Nat := []
  /-- queues M, V, S, D | 32 verbs each | R85 | empty -/
  queues : Quad (List QEntry) := ⟨[], [], [], []⟩
  /-- stream ports | 48 | R65 | unbound -/
  ports : Tbl Port := []
  /-- accumulator banks | 8 of 32 KiB | R124 | NONE -/
  banks : Tbl AccBank := []
  /-- MSTAT, VSTAT, CVSTAT, CV_LAST, CV_RECV, MEMFAULT_VA | - | R135 | 0 -/
  stat : CoreStat := {}
  /-- check-value unit configuration, CVSTAT.DEFAULT and WIDTH shown from it | 32 bytes | R265 | default -/
  cv : CvConfig := {}
  /-- a clause has been started since reset | 1 bit | R265 | no -/
  cvUsed : Bool := false
  /-- LS_LIVE.MASK | 32 bits | R335 | 0xFFFFFFFF -/
  lsLive : Nat := 0xFFFFFFFF
  /-- local store | 2 MiB | R17 | zero (DESIGN CHOICE) -/
  localStore : List Host.Cell := []
  /-- the PSN after the last write it has put on each flow, by 1024 f + n, which a SYSTEM fence waits for | 32 bits | R371 | none -/
  sent : Tbl Nat := []
  /-- address the fault of the verb being run names, which its trap's event carries | 64 bits | R104 | 0 -/
  trapAddr : Nat := 0
  /-- 8-byte local-store words with an uncorrectable error | word offsets | R262 | none -/
  lsBad : List Nat := []
  deriving DecidableEq, Repr

/-! ### Clusters (chapters 01, 08, 11) -/

/-- A line of a cluster cache (R168, R255). -/
structure CacheLine where
  /-- the cached bytes | 128 bytes | R168 | - -/
  bytes : List Byte := []
  /-- dirty mask, one bit a byte | 128 bits | R168 | 0 -/
  dirty : Nat := 0
  /-- marked poisoned | 1 bit | R255 | no -/
  poisoned : Bool := false
  /-- halves whose write-back the base die has not performed | 2 bits | R174 | 0 -/
  back : Nat := 0
  /-- it leaves the cache once they are written back | 1 bit | R174 | no -/
  leaving : Bool := false
  deriving DecidableEq, Repr

/-- A cluster: its cache, its control core as far as the manual describes it, its SRAM error registers. -/
structure Cluster where
  /-- cluster cache, by device physical address ÷ 128 | 16 MiB, 16 ways | R17 | empty -/
  cache : Tbl CacheLine := []
  /-- stream ports of the cluster cache | 32 | R65 | unbound -/
  cachePorts : Tbl Port := []
  /-- control core: stream ports | 16 | R65 | unbound -/
  ccPorts : Tbl Port := []
  /-- control core: the cache line its load-reserved holds, physical address ÷ 128 | line | R183 | none -/
  reservation : Option Nat := none
  /-- control core: external interrupt line | 1 bit | R104 | low -/
  irq : Bool := false
  /-- control core: running | 1 bit | R328 | no -/
  ccRunning : Bool := false
  /-- control core: address it was started at | 52 bits | R328 | 0 (DESIGN CHOICE) -/
  ccEntry : Nat := 0
  /-- control core: what its last load, AMO or SC returned | 64 bits | R183 | 0 (DESIGN CHOICE) -/
  ccData : Nat := 0
  /-- control core: status behind its last access fault | 8 bits | R251 | none -/
  ccFault : Option Status := none
  /-- control core: the PSN after the last write it has put on each flow, by 1024 f + n | 32 bits | R371 | none -/
  ccSent : Tbl Nat := []
  /-- SRAM_CE.COUNT | 32 bits | R269 | 0 -/
  sramCe : Nat := 0
  /-- SRAM_UE.COUNT | 32 bits | R269 | 0 -/
  sramUe : Nat := 0
  /-- SRAM_LAST.MEMORY | 4 bits | R269 | 0 -/
  sramMemory : Nat := 0
  /-- SRAM_LAST.UNIT | 4 bits | R269 | 0 -/
  sramUnit : Nat := 0
  /-- SRAM_LAST.UE | 1 bit | R269 | 0 -/
  sramLastUe : Bool := false
  deriving DecidableEq, Repr

/-! ### Stacks (chapters 09 to 11) -/

/-- STK_STATE.STATE (R214). -/
inductive StackState where
  | absent
  | selfRefresh
  | training
  | inService
  | failed
  deriving DecidableEq, Repr

/-- STK_CHc.STATE (R214). -/
inductive ChannelState where
  | inService
  | out
  | appended
  | testing
  deriving DecidableEq, Repr

/-- A write or an atomic on its way to a line at a base die. -/
structure WriteOp where
  writer : Writer := .device
  /-- line address, physical address ÷ 64 -/
  line : Nat := 0
  /-- the line's 64 bytes; those outside the mask mean nothing -/
  bytes : List Byte := []
  /-- byte mask -/
  mask : Nat := 0
  /-- flagged poisoned (R347) -/
  poison : Bool := false
  /-- an atomic: its OP of R181, byte offset in the line, operand and comparand -/
  atomic : Option (Nat × Nat × Nat × Nat) := none
  /-- the verb's number, or the PSN of a fabric request -/
  tag : Nat := 0
  /-- an atomic: the scope its issuer names (R181) -/
  scope : Nat := 4
  /-- a write-back of a cluster cache -/
  back : Bool := false
  /-- the sequence whose claim held it and has released it -/
  released : Option Nat := none
  /-- device virtual address its verb wrote to, which a fault names (R268) -/
  va : Nat := 0
  deriving DecidableEq, Repr

/-- An entry of a write-combining buffer (R207). -/
structure WcbEntry where
  line : Nat := 0
  bytes : List Byte := []
  mask : Nat := 0
  deriving DecidableEq, Repr

/-- A channel of a stack. -/
structure Channel where
  /-- STK_CHc.STATE | 2 bits | R214 | IN_SERVICE -/
  state : ChannelState := .inService
  /-- STK_CHc.SPARES | 2 bits | R214 | 0 -/
  spares : Nat := 0
  /-- STK_CHc.OWED | 4 bits | R214 | 0 -/
  owed : Nat := 0
  /-- write-combining buffer, STK_CHc.WCB its length, oldest first | 64 entries | R207 | empty -/
  wcb : List WcbEntry := []
  /-- STK_CHc.SLOT | 9 bits | R214 | 0 -/
  slot : Nat := 0
  /-- slot of an appended region served since the last full load | 9 bits | R206 | none -/
  served : Option Nat := none
  /-- what checker runs have left in the cells of a channel that is out: first line, end line, pattern, seed, oldest run first | - | R212 |
  nothing -/
  left : List (Nat × Nat × Nat × Nat) := []
  /-- STK_CHc.REASON | 8 bits | R214 | 0 -/
  reason : Nat := 0
  /-- coverage mark of PATTERN 1 | 1 bit | R215 | clear -/
  mark1 : Bool := false
  /-- coverage mark of PATTERN 0 | 1 bit | R215 | clear -/
  mark0 : Bool := false
  /-- TG_RESc.FAILS | 32 bits | R214 | 0 -/
  fails : Nat := 0
  /-- TG_RESc.FIRST | 25 bits | R214 | 0 -/
  first : Nat := 0
  /-- INT_CHc.CE | 32 bits | R267 | 0 -/
  ce : Nat := 0
  /-- INT_CHc.UE | 16 bits | R267 | 0 -/
  ue : Nat := 0
  /-- INT_CHc.ERASE | 5 bits | R267 | 31 (empty record store) -/
  erase : Nat := 31
  /-- INT_CHc.ERASED | 32 bits | R267 | 0 -/
  erased : Nat := 0
  /-- patrol position, the next line index | 26 bits | R259 | 0 -/
  patrol : Nat := 0
  /-- full patrol passes | 32 bits | R267 | 0 -/
  passes : Nat := 0
  /-- BSU_UNITc.PAUSES | 32 bits | R243 | 0 -/
  pauses : Nat := 0
  /-- paused at the refresh limit | 1 bit | R237 | no -/
  paused : Bool := false
  /-- vector inputs and result outputs, ports 1 to 16 of the unit | 16 | R65 | unbound -/
  ports : Tbl Port := []
  /-- intake: producer stations bound | up to 64 | R225 | none -/
  intakeBound : List Nat := []
  /-- intake: descriptors not yet taken, with the producer that sent each, 0x10000 + p standing for the serving
  controller on behalf of partition p | tiles | R225 | none -/
  intake : List (Nat × List Byte) := []
  deriving DecidableEq, Repr

/-- An entry of the error log (R254, R267). -/
structure LogEntry where
  /-- ADDR | 40 bits | R267 | 0 -/
  addr : Nat := 0
  /-- CHANNEL | 5 bits | R267 | 0 -/
  channel : Nat := 0
  /-- KIND | 3 bits | R267 | 0 -/
  kind : Nat := 0
  /-- SYMBOLS | 4 bits | R267 | 0 -/
  symbols : Nat := 0
  /-- ERASURE | 1 bit | R267 | 0 -/
  erasure : Bool := false
  /-- READER | 3 bits | R267 | 0 -/
  reader : Nat := 0
  /-- POSITIONS | 18 bits | R267 | 0 -/
  positions : Nat := 0
  /-- REPEAT | 32 bits | R267 | 0 -/
  repeats : Nat := 0
  /-- age, the order entries were taken in | - | R254 | 0 -/
  age : Nat := 0
  deriving DecidableEq, Repr

/-- The traffic generator and checker of a stack (R212 to R215). -/
structure Checker where
  /-- TG_MASK.MASK | 32 bits | R214 | 0 -/
  mask : Nat := 0
  /-- TG_LO.LINE | 26 bits | R214 | 0 -/
  lo : Nat := 0
  /-- TG_HI.LINE | 26 bits | R214 | 0 -/
  hi : Nat := 0
  /-- TG_CFG.PATTERN | 2 bits | R214 | 0 -/
  pattern : Nat := 0
  /-- TG_CFG.BOTH | 1 bit | R214 | 0 -/
  both : Bool := false
  /-- TG_SEED.SEED | 32 bits | R214 | 0 -/
  seed : Nat := 0
  /-- TG_STAT.STATE | 2 bits | R214 | 0 -/
  state : Nat := 0
  /-- TG_STAT.STATUS | 8 bits | R214 | 0 -/
  status : Status := 0
  /-- the run in progress: mask, first line, end line, pattern, both | - | R215 | none -/
  run : Option (Nat × Nat × Nat × Nat × Bool) := none
  /-- STOP has been taken | 1 bit | R215 | no -/
  stopped : Bool := false
  /-- the run is that of bring-up | 1 bit | R213 | no -/
  bringup : Bool := false
  deriving DecidableEq, Repr

/-- The range scrub of a stack (R260, R261). -/
structure RangeScrub where
  /-- RSCRUB_LO.ADDR | 40 bits | R267 | 0 -/
  lo : Nat := 0
  /-- RSCRUB_HI.ADDR | 41 bits | R267 | 0 -/
  hi : Nat := 0
  /-- RSCRUB_DST.ADDR | 64 bits | R267 | 0 -/
  dst : Nat := 0
  /-- RSCRUB_STAT.STATE | 2 bits | R267 | 0 -/
  state : Nat := 0
  /-- RSCRUB_STAT.STATUS | 8 bits | R267 | 0 -/
  status : Status := 0
  /-- TAG of the run | 32 bits | R261 | 0 -/
  tag : Nat := 0
  /-- range of the run | 40 and 41 bits | R260 | 0 -/
  runLo : Nat := 0
  /-- end of the run's range | 41 bits | R260 | 0 -/
  runHi : Nat := 0
  /-- STOP has been taken | 1 bit | R260 | no -/
  stopped : Bool := false
  /-- LINES | 64 bits | R261 | 0 -/
  lines : Nat := 0
  /-- CORRECTED | 64 bits | R261 | 0 -/
  corrected : Nat := 0
  /-- ERASED | 64 bits | R261 | 0 -/
  erased : Nat := 0
  /-- NEW_UE | 32 bits | R261 | 0 -/
  newUe : Nat := 0
  /-- POISON | 32 bits | R261 | 0 -/
  poison : Nat := 0
  /-- FIRST_BAD | 64 bits | R261 | none -/
  firstBad : Option Nat := none
  /-- DROPPED when the run began | 16 bits | R261 | 0 -/
  dropped0 : Nat := 0
  deriving DecidableEq, Repr

/-- A stack. -/
structure Stack where
  /-- STK_STATE.STATE | 3 bits | R214 | SELF_REFRESH -/
  state : StackState := .selfRefresh
  /-- STK_STATE.RATE | 2 bits | R214 | 0 -/
  rate : Nat := 0
  /-- STK_STATE.REFRESH2 | 1 bit | R214 | 0 -/
  refresh2 : Bool := false
  /-- STK_STATE.ADMIT, A of R211 | 5 bits | R214 | 16 on entering service (R211) -/
  admitMax : Nat := 16
  /-- STK_STATE.LAST_CMD_STATUS | 8 bits | R214 | 0 -/
  lastCmd : Status := 0
  /-- STK_CTL.RATE_CAP | 2 bits | R214 | 0 -/
  rateCap : Nat := 0
  /-- STK_THERM.THROTTLE | 8 bits | R214 | 95 at acceptance -/
  throttle : Nat := 95
  /-- STK_THERM.EARLY | 8 bits | R214 | 91 at acceptance -/
  early : Nat := 91
  /-- STK_TEMP.TEMP | 12 bits | R214 | 0 -/
  temp : Nat := 0
  /-- STK_TEMP.SENSOR_FAIL | 1 bit | R214 | 0 -/
  sensorFail : Bool := false
  /-- STK_TEMP.HOT | 1 bit | R214 | 0 -/
  hot : Bool := false
  /-- STK_DESC0 to 7, the capability descriptor as read | 64 bytes | R193 | none -/
  descriptor : List Byte := []
  /-- the stack's lanes are trained | 1 bit | R196 | no -/
  trained : Bool := false
  /-- training attempts made in this bring-up, that is rates tried | 2 bits | R194 | 0 -/
  tries : Nat := 0
  /-- a descriptor read has failed in this bring-up | 1 bit | R194 | no -/
  descFailed : Bool := false
  /-- the base die is in self-refresh | 1 bit | R192 | yes -/
  asleep : Bool := true
  /-- the core dies have been initialised since their rails rose | 1 bit | R419 | no -/
  initialised : Bool := false
  /-- a stack rail has left its tolerance since the last reset | 1 bit | R444 | no -/
  lost : Bool := false
  /-- an access waits for the port domain | 1 bit | R192 | no -/
  wakeWaits : Bool := false
  /-- writes that wait for the port domain, oldest first | - | R192 | none -/
  wakeQueue : List WriteOp := []
  /-- samples of the millisecond in progress, newest first, in 0.25 °C | 100 µs each | R211 | none -/
  samples : List Int := []
  /-- samples since the last rise fall of B_THERM, newest first | up to 10 | R235 | none -/
  riseSamples : List Int := []
  /-- channels | 32 | R189 | in service -/
  channels : Tbl Channel := []
  /-- TG registers | - | R214 | 0 -/
  tg : Checker := {}
  /-- BSU_STATE.LAST_CMD_STATUS | 8 bits | R243 | 0 -/
  bsuLastCmd : Status := 0
  /-- UNIT_CYCLES counted for shares, by partition | 64 bits | R317 | 0 -/
  shareCycles : Tbl Nat := []
  /-- BSU_CTL.PORT_MIN | 4 bits | R243 | 4 at acceptance -/
  portMin : Nat := 4
  /-- BSU_CTL.STALL_LIMIT | 12 bits | R243 | 146 at acceptance -/
  stallLimit : Nat := 146
  /-- BSU_SHARE.B_THERM | 5 bits | R243 | 16 at acceptance -/
  bTherm : Nat := 16
  /-- BSU_SHARE.B_POWER | 5 bits | R243 | 16 (DESIGN CHOICE) -/
  bPower : Nat := 16
  /-- stack-port traffic limit of the power manager, in sixteenths | 2 to 16 | R391 | 16 (DESIGN CHOICE) -/
  portShare : Nat := 16
  /-- held-write store, each write with the sequence whose claim holds it, BSU_HELD.HELD its length, in arrival
  order | 1,024 lines | R240 | empty -/
  held : List (Nat × WriteOp) := []
  /-- writes that wait for the held-write store, each with the sequence whose claim keeps it | - | R240 | none -/
  heldWaiting : List (Nat × WriteOp) := []
  /-- BSU_HELD.FULL | 1 bit | R243 | 0 -/
  heldFull : Bool := false
  /-- error log, INT_LOG0 to 31, INT_STAT.LOG_USED its length | 32 entries | R254 | empty -/
  log : List LogEntry := []
  /-- age of the next log entry | - | R254 | 0 -/
  logAge : Nat := 0
  /-- INT_STAT.LAST_CMD_STATUS | 8 bits | R267 | 0 -/
  intLastCmd : Status := 0
  /-- INT_STAT.DROPPED | 16 bits | R267 | 0 -/
  dropped : Nat := 0
  /-- INT_XFER.RETRIES | 32 bits | R267 | 0 -/
  retries : Nat := 0
  /-- the port has scheduled a recalibration window after a failed transfer | 1 bit | R249 | no -/
  recalibrate : Bool := false
  /-- RSCRUB registers | - | R267 | 0 -/
  scrub : RangeScrub := {}
  /-- lines read by the bank-side units, for telemetry | 64 bits | R433 | 0 -/
  unitLines : Nat := 0
  /-- lines moved over the stack port, for telemetry | 64 bits | R433 | 0 -/
  portLines : Nat := 0
  deriving DecidableEq, Repr

/-! ### Bank-side sequences (chapter 10) -/

/-- A sequence descriptor, as R223 lays it out. -/
structure SeqDesc where
  tag : Nat := 0
  op : Nat := 0
  mode : Nat := 0
  spread : Nat := 0
  flags : Nat := 0
  stk : Nat := 0
  vectors : Nat := 0
  /-- the reserved bytes are all zero -/
  clean : Bool := true
  /-- W (T0), X (T1), Y, S, I, D, T2, T3 -/
  nouns : List Nat := []
  summary : Nat := 0
  ypeer : List Nat := []
  xpeer : List Nat := []
  coef : List Nat := []
  deriving DecidableEq, Repr

/-- How far a sequence has come (R229). -/
inductive SeqPhase where
  /-- checked; waits at its lead for room -/
  | waiting
  /-- admitted; its units read -/
  | reading
  /-- its result tiles are being sent -/
  | sending
  /-- its claim has ended; a released write still awaits a withdrawal before its summary is written (R186) -/
  | closing
  deriving DecidableEq, Repr

/-- A bank-side sequence in flight. -/
structure Seq where
  /-- descriptor | 128 bytes | R223 | - -/
  desc : SeqDesc := {}
  /-- partition of the issuer | 4 bits | R225 | - -/
  pid : Nat := 0
  /-- lead stack | 4 bits | R225 | - -/
  leadStack : Nat := 0
  /-- lead channel | 5 bits | R225 | - -/
  leadChannel : Nat := 0
  /-- station that issued it | 16 bits | R225 | - -/
  issuer : Nat := 0
  /-- decoded nouns in descriptor order | 64 bytes each | R226 | - -/
  nouns : List (Option Noun) := []
  /-- phase | - | R229 | - -/
  phase : SeqPhase := .waiting
  /-- admission order | - | R229 | - -/
  order : Nat := 0
  /-- stacks it occupies: those that work for it and those that hold a block of its footprints | up to 12 | R228 | - -/
  stks : List Nat := []
  /-- 64 KiB blocks of its read footprints | 24 bits each | R239 | - -/
  readBlocks : List Nat := []
  /-- 64 KiB blocks of its written footprints | 24 bits each | R239 | - -/
  writeBlocks : List Nat := []
  /-- first failure, or the reason it stops | 8 bits | R242 | none -/
  failure : Option Status := none
  /-- FAULT_VA | 64 bits | R224 | 0 -/
  faultVa : Nat := 0
  /-- summary flag CLAIM_OVERLAP | 1 bit | R224 | no -/
  overlap : Bool := false
  /-- summary flag HELD_FULL | 1 bit | R224 | no -/
  full : Bool := false
  /-- summary flag DOUBLED | 1 bit | R224 | no -/
  doubled : Bool := false
  /-- summary flag SHARE_CUT | 1 bit | R224 | no -/
  shareCut : Bool := false
  /-- summary flag PARTIAL: step 5 was skipped | 1 bit | R224 | no -/
  cut : Bool := false
  /-- HELD | 32 bits | R224 | 0 -/
  held : Nat := 0
  /-- LINES_READ | 64 bits | R224 | 0 -/
  linesRead : Nat := 0
  /-- LINES_WRITTEN | 64 bits | R224 | 0 -/
  linesWritten : Nat := 0
  /-- SLICES | 32 bits | R224 | 0 -/
  slices : Nat := 0
  /-- PAUSES | 32 bits | R224 | 0 -/
  pauses : Nat := 0
  /-- UNIT_CYCLES | 64 bits | R224 | 0 -/
  cycles : Nat := 0
  /-- what each working unit has still to read, by global channel number: a line of W or T0, and above bit 48 the index
  j of a gathered or scattered row | - | R227 | - -/
  work : Tbl (List Nat) := []
  /-- vector store: X, S and I as loaded, by their place in NOUNS, elements in logical order | 1 MiB | R229 | none -/
  vectors : Tbl (List Nat) := []
  /-- units that have stopped after a failure elsewhere, by global channel number | - | R242 | none -/
  stopped : List Nat := []
  /-- units that have read at least one line | - | R224 | none -/
  readers : List Nat := []
  /-- partial sums of the result stores, by stack × 2^32 + index of the result value | FP32 | R230 | none -/
  sums : Tbl Nat := []
  /-- vectors received on the lead's vector inputs | tiles | R231 | none -/
  xvec : Tbl (List Byte) := []
  deriving DecidableEq, Repr

/-! ### The grammar image (chapter 02) -/

/-- A PART record (R39). -/
structure PartRec where
  pid : Nat := 0
  flags : Nat := 1
  share : Nat := 1
  cores : Nat := 0
  quota : Nat := 0
  nouns : Nat := 64
  pages : Nat := 0
  vabits : Nat := 40
  name : List Byte := []
  deriving DecidableEq, Repr

/-- A STAT record (R41). -/
structure StatRec where
  name : List Byte := []
  station : Nat := 0
  pid : Nat := 0
  deriving DecidableEq, Repr

/-- A PWR record (R43). -/
structure PwrRec where
  domain : Nat := 0
  on : Nat := 0
  budget : Nat := 0
  deriving DecidableEq, Repr

/-- A PHAS record (R45). -/
structure PhasRec where
  plan : Nat := 0
  bsuPm : Nat := 0
  portPm : Nat := 0
  cluPm : Nat := 0
  shares : List Nat := []
  name : List Byte := []
  deriving DecidableEq, Repr

/-- A fabric port record (R50). -/
structure FabRec where
  port : Nat := 0
  enable : Nat := 0
  rate : Nat := 0
  carriage : Nat := 0
  owner : Nat := 0xFF
  deriving DecidableEq, Repr

/-- A BSU record (R52). -/
structure BsuRec where
  pid : Nat := 0
  stk : Nat := 0
  inflight : Nat := 0
  deriving DecidableEq, Repr

/-- A grammar image in force, or read and judged: what its sections say, defaults filled in (R37 to R56). -/
structure Image where
  /-- header KIND | 1 bit | R33 | - -/
  partial_ : Bool := false
  /-- header TARGET | 8 bits | R33 | - -/
  target : Nat := 0xFF
  /-- header GRADES | 8 bits | R33 | - -/
  grades : Nat := 0
  /-- header SERIAL | 32 bits | R33 | - -/
  serial : Nat := 0
  /-- image digest | 64 bytes | R35 | - -/
  digest : List Byte := []
  /-- PART records | up to 16 | R39 | - -/
  parts : List PartRec := []
  /-- STAT records | up to 4,096 | R41 | - -/
  stats : List StatRec := []
  /-- a STAT section is present | 1 bit | R62 | - -/
  hasStat : Bool := false
  /-- PWR head LIMIT | 16 bits | R43 | - -/
  limit : Nat := 300
  /-- PWR head FLOOR | 16 bits | R43 | - -/
  floor : Nat := 300
  /-- PWR records | 67 | R43 | - -/
  pwr : List PwrRec := []
  /-- PHAS records | up to 8 | R45 | - -/
  phas : List PhasRec := []
  /-- MEM HASH | 8 bits | R47 | - -/
  hash : Nat := 0
  /-- MEM GRANULE | 8 bits | R47 | - -/
  granule : Nat := 8
  /-- MEM RESERVE | 32 bits | R47 | - -/
  reserve : Nat := 1024
  /-- MEM MODELS | 32 bits | R47 | - -/
  models : Nat := 0
  /-- FAB REMOTE_MGMT | 1 bit | R50 | 0 without a section -/
  remoteMgmt : Bool := false
  /-- FAB port records | 8 | R50 | all disabled without a section -/
  fab : List FabRec := []
  /-- XL MAXGEN | 8 bits | R51 | 3 without a section -/
  maxgen : Nat := 3
  /-- XL PCIE_OK | 8 bits | R51 | 1 without a section -/
  pcieOk : Nat := 1
  /-- XL CACHE_COMP | 8 bits | R51 | 1 without a section -/
  cacheComp : Nat := 1
  /-- XL RINGS | 8 bits | R51 | 1 without a section -/
  rings : Nat := 1
  /-- BSU records | up to 16 | R52 | - -/
  bsu : List BsuRec := []
  /-- SRV REQUESTS | 16 bits | R53 | - -/
  requests : Nat := 1
  /-- SRV PREFIXES | 16 bits | R53 | - -/
  prefixes : Nat := 0
  /-- SRV MODELS | 8 bits | R53 | - -/
  srvModels : Nat := 1
  /-- SRV DRAFT_MAX | 8 bits | R53 | - -/
  draftMax : Nat := 1
  /-- SRV DRAFT_DEF | 8 bits | R53 | - -/
  draftDef : Nat := 1
  /-- SRV SERVED | 16 bits | R53 | - -/
  served : Nat := 0
  /-- SCHED SWITCH | 8 bits | R54 | - -/
  weightSwitch : Bool := false
  /-- SCHED PLAN0 | 8 bits | R54 | - -/
  plan0 : Nat := 0
  /-- SCHED QUANTUM | 32 bits | R54 | - -/
  quantum : Nat := 10000
  /-- BKG ENABLES | 8 bits | R55 | 0x3F without a section -/
  enables : Nat := 0x3F
  /-- BKG SCRUB | 16 bits | R55 | 50 without a section -/
  scrub : Nat := 50
  /-- BKG TELEM | 32 bits | R55 | 1,000,000 without a section -/
  telem : Nat := 1000000
  /-- MAPO UE_LIMIT | 16 bits | R56 | 16 without a section -/
  ueLimit : Nat := 16
  /-- MAPO CE_EVENT | 16 bits | R56 | 1,024 without a section -/
  ceEvent : Nat := 1024
  /-- MAPO REFETCH | 8 bits | R56 | 0 without a section -/
  refetch : Bool := false
  deriving DecidableEq, Repr

/-- GRAM_STATE.STATE (R59). -/
inductive GramState where
  | empty
  | fetch
  | verify
  | check
  | apply
  | inForce
  deriving DecidableEq, Repr

/-- A grammar load in progress (R58, R60). -/
structure LoadJob where
  /-- GRAM_CMD.CMD of the load | 2 bits | R58 | - -/
  cmd : Nat := 1
  /-- GRAM_SRC as taken | 64 bits | R58 | - -/
  src : Nat := 0
  /-- GRAM_LEN as taken | 32 bits | R58 | - -/
  len : Nat := 0
  /-- the image as read | bytes | R60 | - -/
  bytes : List Byte := []
  /-- owner key in force when VERIFY began | 57 bytes | R416 | - -/
  ownerKey : Option (List Byte) := none
  /-- the owner-key record was bad when VERIFY began | 1 bit | R416 | - -/
  keyBad : Bool := false
  /-- the image, once judged | - | R60 | - -/
  image : Option Image := none
  deriving DecidableEq, Repr

/-- The GRAM block (R59) and the structure in force. -/
structure Gram where
  /-- GRAM_STATE.STATE | 4 bits | R59 | EMPTY -/
  state : GramState := .empty
  /-- GRAM_STATE.KIND | 1 bit | R59 | 0 -/
  kind : Nat := 0
  /-- GRAM_STATE.STATUS | 8 bits | R59 | 0 -/
  status : Status := 0
  /-- GRAM_STATE.LAST_CMD_STATUS | 8 bits | R59 | 0 -/
  lastCmd : Status := 0
  /-- GRAM_SRC.ADDR | 64 bits | R59 | 0 -/
  src : Nat := 0
  /-- GRAM_LEN.LEN | 32 bits | R59 | 0 -/
  len : Nat := 0
  /-- GRAM_DETAIL.SECTION | 16 bits | R59 | 0 -/
  section_ : Nat := 0
  /-- GRAM_DETAIL.RECORD | 16 bits | R59 | 0 -/
  record : Nat := 0
  /-- GRAM_RESOURCE.RKIND | 4 bits | R59 | 0 -/
  rkind : Nat := 0
  /-- GRAM_RESOURCE.RNUM | 16 bits | R59 | 0 -/
  rnum : Nat := 0
  /-- GRAM_SERIAL.SERIAL | 32 bits | R59 | 0 -/
  serial : Nat := 0
  /-- GRAM_LOADS.COUNT | 32 bits | R59 | 0 -/
  loads : Nat := 0
  /-- GRAM_DIGEST0 to 7 | 64 bytes | R59 | 0 -/
  digest : List Byte := []
  /-- PDIGEST of partition p | 64 bytes each | R59 | 0 -/
  pdigest : Tbl (List Byte) := []
  /-- load in progress | - | R58 | none -/
  job : Option LoadJob := none
  /-- the structure in force: the full image with accepted partial images laid over it; GRAM_PARTS.DEFINED shows
  its partitions | - | R61 | none -/
  image : Option Image := none
  /-- accepted partial image that waits for its target's quantum boundary | - | R62 | none -/
  pending : Option Image := none
  /-- stacks of the second group of a bring-up | up to 6 | R196 | none -/
  groupWait : List Nat := []
  /-- the load being applied has built its address map | 1 bit | R197 | no -/
  mapped : Bool := false
  /-- cores that the image being applied adds from OFFLINE and that are under test | 12c + k | R333 | none -/
  testing : List Nat := []
  deriving DecidableEq, Repr

/-! ### Management complex (chapters 15, 19, 21) -/

/-- How far the management complex has come (R403, R421). -/
inductive BootPhase where
  /-- RESET_n is low -/
  | reset
  /-- firmware runs and has not signalled readiness -/
  | firmware
  /-- firmware has signalled readiness -/
  | ready
  /-- both slots failed, the TEST strap or REFCLK_XL stopped the boot: waits for RESET_n -/
  | halted
  /-- shut down under R395, R390 or R442: waits for RESET_n -/
  | shutdown
  deriving DecidableEq, Repr

/-- An event record waiting in the store (R350, R352). -/
structure Event where
  cls : Nat := 0
  code : Status := 0
  source : Nat := 0
  pid : Nat := 0xFF
  ring : Nat := 0
  island : Nat := 0
  count : Nat := 0
  seq : Nat := 0
  detail0 : Nat := 0
  detail1 : Nat := 0
  deriving DecidableEq, Repr

/-- An event ring (R349, R356). -/
structure Ring where
  /-- ER_BASE.ADDR | 64 bits | R356 | 0 -/
  base : Nat := 0
  /-- ER_CFG.LOG2 | 4 bits | R356 | 0 -/
  log2 : Nat := 0
  /-- ER_CFG.ENABLE | 1 bit | R356 | 0 -/
  enable : Bool := false
  /-- ER_CFG.VEC as written, or none while it holds its reset value r | 5 bits | R356 | r -/
  vec : Option Nat := none
  /-- ER_CFG.HOLDOFF | 16 bits | R356 | 0 -/
  holdoff : Nat := 0
  /-- ER_TAIL.INDEX | 14 bits | R356 | 0 -/
  tail : Nat := 0
  /-- ER_TAIL.PHASE | 1 bit | R356 | 1 -/
  phase : Bool := true
  /-- ER_HEADPTR.ADDR | 64 bits | R356 | 0 -/
  headPtr : Nat := 0
  /-- ER_DROPPED.COUNT | 32 bits | R356 | 0 -/
  dropped : Nat := 0
  /-- the companion's head as last fetched | 32 bits | R349 | 0 -/
  head : Nat := 0
  /-- records were dropped since the last one written | 1 bit | R352 | no -/
  lost : Bool := false
  deriving DecidableEq, Repr

/-- An interrupt vector (R353, R356). -/
structure Vec where
  /-- IV_ADDR.ADDR | 64 bits | R356 | 0 -/
  addr : Nat := 0
  /-- IV_DATA.DATA | 32 bits | R356 | 0 -/
  data : Nat := 0
  /-- IV_CTL.MASK | 1 bit | R356 | 1 -/
  mask : Bool := true
  /-- IV_PEND bit | 1 bit | R356 | 0 -/
  pend : Bool := false
  /-- a holdoff runs | 1 bit | R353 | no -/
  holding : Bool := false
  /-- records were written during the holdoff | 1 bit | R353 | no -/
  owed : Bool := false
  deriving DecidableEq, Repr

/-- What is fused at manufacture (R449, R393) and by COMMIT (R405). -/
structure Fuses where
  /-- MGMT_ID.GRADE | 2 bits | R449 | 0 (DESIGN CHOICE: an AK3-768-F) -/
  grade : Nat := 0
  /-- MGMT_ID.STEPPING | 8 bits | R449 | 0 (DESIGN CHOICE) -/
  stepping : Nat := 0
  /-- MGMT_DEVICE_ID.ID | 64 bits | R449 | 0 (DESIGN CHOICE) -/
  deviceId : Nat := 0
  /-- MGMT_VENDOR.ENTERPRISE | 32 bits | R449 | 0 (DESIGN CHOICE) -/
  vendor : Nat := 0
  /-- MGMT_CORES0 to 2 | 192 bits | R449 | all present (DESIGN CHOICE) -/
  cores : Nat := 2 ^ 192 - 1
  /-- MGMT_UNITS.STACKS | 12 bits | R449 | all present (DESIGN CHOICE) -/
  stk : Nat := 0xFFF
  /-- MGMT_UNITS.PORTS | 8 bits | R449 | all present (DESIGN CHOICE) -/
  ports : Nat := 0xFF
  /-- MGMT_FORMATS.FP64_MATRIX | 1 bit | R449 | present (DESIGN CHOICE) -/
  fp64 : Bool := true
  /-- MGMT_CHAN0 to 11, a stack not listed having all 32 | 32 bits each | R449 | all present (DESIGN CHOICE) -/
  channels : Tbl Nat := []
  /-- fused MAC address of port f | 48 bits each | R375 | 0 (DESIGN CHOICE) -/
  macs : Tbl Nat := []
  /-- SEC_FUSE.FLOOR | 7 bits | R417 | 0 (DESIGN CHOICE) -/
  floor : Nat := 0
  /-- SEC_FUSE.REVOKED | 4 bits | R417 | 0 (DESIGN CHOICE) -/
  revoked : Nat := 0
  deriving DecidableEq, Repr

/-- A shutdown record in the record store (R396), with its acknowledgement. -/
structure ShutRecord where
  bytes : List Byte := []
  seq : Nat := 0
  acked : Bool := false
  deriving DecidableEq, Repr

/-- The flash: two firmware slots (R401) and the record store (R426). -/
structure Flash where
  /-- slot A | 1 MiB | R401 | erased (DESIGN CHOICE) -/
  slotA : List Byte := []
  /-- slot B | 1 MiB | R401 | erased (DESIGN CHOICE) -/
  slotB : List Byte := []
  /-- boot-control record: slot B first | 1 bit | R401 | slot A (empty store) -/
  bootB : Bool := false
  /-- owner key | 57 bytes | R411 | none (empty store) -/
  ownerKey : Option (List Byte) := none
  /-- SEC_STATE.KEY_BAD | 1 bit | R417 | 0 (empty store) -/
  keyBad : Bool := false
  /-- SEC_SEAL_LOG.BREAKS | 16 bits | R417 | 0 (empty store) -/
  breaks : Nat := 0
  /-- SEC_STATE.SEAL_BROKEN | 1 bit | R417 | 0 (empty store) -/
  sealBroken : Bool := false
  /-- mapping-out records, 32s + c with the reason | - | R204 | none (empty store) -/
  mapouts : Tbl Nat := []
  /-- erasure positions, by 32s + c | 5 bits each | R256 | none (empty store) -/
  erasures : Tbl Nat := []
  /-- ageing guard-bands of the two dies, in mV | 0 to 60 | R429 | 0 (empty store) -/
  guardbands : Tbl Nat := []
  /-- shutdown records, newest first | up to 16 | R396 | none (empty store) -/
  shutdowns : List ShutRecord := []
  /-- erases of each sector | count | R428 | 0 -/
  erases : Tbl Nat := []
  deriving DecidableEq, Repr

/-- The management complex and the MGMT block. -/
structure Mgmt where
  /-- boot phase | - | R403 | in reset -/
  boot : BootPhase := .reset
  /-- MGMT_RESET.SLOT: slot B runs | 1 bit | R434 | A (empty store) -/
  slotB : Bool := false
  /-- slot A failed since power-up | 1 bit | R403 | no -/
  failedA : Bool := false
  /-- slot B failed since power-up | 1 bit | R403 | no -/
  failedB : Bool := false
  /-- MGMT_RESET.FALLBACK | 1 bit | R434 | 0 -/
  fallback : Bool := false
  /-- version of the running firmware | 16 bits | R401 | 0 -/
  fwVersion : Nat := 0
  /-- the running firmware image | bytes | R401 | none -/
  firmware : List Byte := []
  /-- the management processor's SRAM, which firmware alone works in | 1 MiB | R17 | zero (DESIGN CHOICE) -/
  sram : List Host.Cell := []
  /-- strap balls as sampled | 6 bits | R440 | 0 -/
  straps : Nat := 0
  /-- MGMT_RESET.POWER_ON | 1 bit | R434 | 1 -/
  powerOn : Bool := true
  /-- MGMT_RESET.RESET_PIN | 1 bit | R434 | 0 -/
  resetPin : Bool := false
  /-- MGMT_RESET.MGMT_RESTART | 1 bit | R434 | 0 -/
  restarted : Bool := false
  /-- MGMT_RESET.FACTORY | 1 bit | R434 | 0 -/
  factory : Bool := false
  /-- the boot follows a management restart | 1 bit | R425 | no -/
  afterRestart : Bool := false
  /-- THERM_TRIP_n asserted | 1 pin | R438 | released -/
  thermTrip : Bool := false
  /-- FAULT_n asserted | 1 pin | R438 | released -/
  faultPin : Bool := false
  /-- the complex runs on the internal oscillator | 1 bit | R442 | no -/
  internalClock : Bool := false
  /-- MGMT_ERR.STATUS | 8 bits | R449 | 0 -/
  errStatus : Status := 0
  /-- MGMT_ERR.OFFSET | 24 bits | R449 | 0 -/
  errOffset : Nat := 0
  /-- MGMT_ERRCNT.COUNT | 32 bits | R449 | 0 -/
  errCount : Nat := 0
  /-- event rings | 16 | R356 | disabled -/
  rings : Tbl Ring := []
  /-- interrupt vectors | 32 | R353 | masked -/
  vecs : Tbl Vec := []
  /-- EV_SEQ.NEXT | 32 bits | R356 | 0 -/
  evSeq : Nat := 0
  /-- event store, EV_STORE.LEVEL its length, in sequence order | 256 records | R352 | empty -/
  store : List Event := []
  /-- TEL_BASE.ADDR | 64 bits | R434 | 0 -/
  telBase : Nat := 0
  /-- TEL_CFG.LOG2 | 4 bits | R434 | 0 -/
  telLog2 : Nat := 0
  /-- TEL_CFG.ENABLE | 1 bit | R434 | 0 -/
  telEnable : Bool := false
  /-- TEL_CFG.KINDS | 4 bits | R434 | 0 -/
  telKinds : Nat := 0
  /-- TEL_TAIL.INDEX | 14 bits | R434 | 0 -/
  telTail : Nat := 0
  /-- TEL_TAIL.PHASE | 1 bit | R434 | 1 -/
  telPhase : Bool := true
  /-- TEL_SAMPLE.NEXT | 32 bits | R434 | 0 -/
  telNext : Nat := 0
  /-- TEL_MISSED.COUNT | 32 bits | R434 | 0 -/
  telMissed : Nat := 0
  /-- counters of each telemetry source at its previous sample | - | R432 | none -/
  telPrev : Tbl (List Nat) := []
  /-- BKG_STATE.RUN | 6 bits | R434 | 0 -/
  bkgRun : Nat := 0
  deriving DecidableEq, Repr

/-! ### Power and heat (chapter 17) -/

/-- An order of the decision window in progress (R392). -/
structure Order where
  rank : Nat := 0
  by_ : Master := .companion
  /-- what it sets: 0 SCHED_PHASE, 1 WARN, 2 THROTTLE, 3 SHUT, 4 RISE -/
  object : Nat := 0
  value : Nat := 0
  /-- PSN of the MGMT packet of a peer's order, which is answered at the window's end -/
  psn : Option Nat := none
  deriving DecidableEq, Repr

/-- The PWR block (R398) and the power manager. -/
structure Pwr where
  /-- PWR_STATE.ALERT_PIN | 1 bit | R398 | 0 -/
  alertPin : Bool := false
  /-- the alert holds, PWR_STATE shows ALERT | 1 bit | R384 | no -/
  alert : Bool := false
  /-- PWR_STATE.ALERT_STUCK | 1 bit | R398 | 0 -/
  alertStuck : Bool := false
  /-- PWR_STATE.LAST_CMD_STATUS | 8 bits | R398 | 0 -/
  lastCmd : Status := 0
  /-- PWR_LIMIT.IN_FORCE | 12 bits | R398 | 300 -/
  inForce : Nat := 300
  /-- PWR_LIMIT.BINDS | 3 bits | R398 | 0 -/
  binds : Nat := 0
  /-- PWR_TERMS.BOARD | 12 bits | R398 | 0 -/
  termBoard : Nat := 0
  /-- PWR_TERMS.REGULATORS | 12 bits | R398 | 0 -/
  termReg : Nat := 0
  /-- PWR_SLOTS.BMC | 12 bits | R398 | 0 -/
  slotBmc : Nat := 0
  /-- PWR_SLOTS.COMPANION | 12 bits | R398 | 0 -/
  slotCompanion : Nat := 0
  /-- PWR_SLOTS.PEER | 12 bits | R398 | 0 -/
  slotPeer : Nat := 0
  /-- PWR_SLOTS.PRESENCE | 12 bits | R398 | 0 -/
  slotPresence : Nat := 0
  /-- PWR_ALERT.FREQ | 5 bits | R398 | 12 -/
  alertFreq : Nat := 12
  /-- PWR_ALERT.B | 5 bits | R398 | 4 -/
  alertB : Nat := 4
  /-- PWR_ALERT.HOLD | 10 bits | R398 | 1 -/
  alertHold : Nat := 1
  /-- PWR_ALERTS.COUNT | 32 bits | R398 | 0 -/
  alerts : Nat := 0
  /-- PWR_DOMON0, PWR_DOMON1 | 67 bits | R398 | 0 in reset (R421) -/
  domOn : Nat := 0
  /-- domains being switched on for work that waits | 67 bits | R378 | 0 -/
  waking : Nat := 0
  /-- PWR_MONFAIL0, PWR_MONFAIL1 | 67 bits | R398 | 0 -/
  monFail : Nat := 0
  /-- sound windows in a row of a failed monitor | count | R379 | 0 -/
  monClean : Tbl Nat := []
  /-- PWR_DOMd.POWER | 16 bits each | R398 | 0 -/
  power : Tbl Nat := []
  /-- PWR_DOMd.ALLOT | 12 bits each | R398 | 0 -/
  allot : Tbl Nat := []
  /-- PWR_OPPc.FREQ | 5 bits each | R398 | 0 -/
  opp : Tbl Nat := []
  /-- clusters whose allotment does not cover 1.0 GHz | 16 bits | R391 | 0 (DESIGN CHOICE) -/
  starved : Nat := 0
  /-- PWR_REG.FOUND | 5 bits | R398 | 0 -/
  regFound : Nat := 0
  /-- regulators that do not answer, PWR_REG.LOST their number | addresses | R398 | none -/
  regLost : List Nat := []
  /-- missed reads in a row of a regulator | count | R382 | 0 -/
  regMissed : Tbl Nat := []
  /-- PWR_REC_SEL.INDEX | 4 bits | R398 | 0 -/
  recSel : Nat := 0
  /-- the device is restricted | 1 bit | R397 | no (empty store) -/
  restricted : Bool := false
  /-- orders of the decision window in progress | - | R392 | none -/
  orders : List Order := []
  /-- domains that failed to come on, the work that waited for them not yet told | 67 bits | R378 | 0 -/
  domFailed : Nat := 0
  /-- the least of the limit's terms other than that of T, at the last window | watts | R382 | 300 -/
  limitBase : Nat := 300
  /-- the clusters that climb back after an alert | 16 bits | R384 | none -/
  climb : Nat := 0
  /-- the split's per mille values in force: bank-side, port, cluster | 3 of 16 bits | R331 | 0 -/
  split : List Nat := [0, 0, 0]
  /-- core rails' guard-band steps taken | mV, by die | R429 | 0 -/
  guardApplied : Tbl Nat := []
  deriving DecidableEq, Repr

/-- The THM block (R399) and the thermal model's state. Temperatures in 0.25 °C. -/
structure Thm where
  /-- THM_STATE.T | 5 bits | R399 | 0 -/
  t : Nat := 0
  /-- THM_STATE.WARN | 1 bit | R399 | 0 -/
  warnNow : Bool := false
  /-- THM_STATE.RISE | 1 bit | R399 | 0 -/
  rise : Bool := false
  /-- THM_STATE.HOT_REGION | 7 bits | R399 | 0 -/
  hotRegion : Nat := 0
  /-- THM_STATE.LAST_CMD_STATUS | 8 bits | R399 | 0 -/
  lastCmd : Status := 0
  /-- THM_HOT.H, kept signed | 12 bits | R399 | 0 -/
  hot : Int := 0
  /-- THM_THRESH.WARN | 8 bits | R399 | 95 -/
  warn : Nat := 0x5F
  /-- THM_THRESH.THROTTLE | 8 bits | R399 | 100 -/
  throttle : Nat := 0x64
  /-- THM_THRESH.SHUT | 8 bits | R399 | 110 -/
  shut : Nat := 0x6E
  /-- THM_THRESH.RISE | 8 bits | R399 | 20 -/
  riseLimit : Nat := 0x14
  /-- THM_CAL.COUNT | 32 bits | R399 | 0 -/
  cal : Nat := 0
  /-- THM_DFAIL.FAILED | 16 bits | R399 | 0 -/
  dfail : Nat := 0
  /-- THM_REGi, kept signed | 128 of 12 bits | R399 | 0 -/
  regions : Tbl Int := []
  /-- THM_DIODEj.TEMP, kept signed | 16 of 12 bits | R399 | 0 -/
  diodes : Tbl Int := []
  /-- calibrations in a row in which a diode disagreed | count | R388 | 0 -/
  disagree : Tbl Nat := []
  /-- the dies' reference temperatures | 0.25 °C | R387 | 0 (DESIGN CHOICE) -/
  reference : Tbl Int := []
  /-- region temperatures one millisecond earlier | 0.25 °C | R389 | 0 -/
  earlier : Tbl Int := []
  /-- H of the windows of the millisecond in progress, newest first | 0.25 °C | R389 | none -/
  windowH : List Int := []
  /-- H of the last window before that millisecond | 0.25 °C | R389 | none -/
  beforeH : Option Int := none
  /-- H has been below WARN − 3 °C since the last THERM_WARN | 1 bit | R389 | yes -/
  warnArmed : Bool := true
  /-- the event THROTTLE has been sent since T last was 0 | 1 bit | R389 | no -/
  throttleSaid : Bool := false
  deriving DecidableEq, Repr

/-! ### Security (chapter 18) -/

/-- The SEC block (R417) and the operations behind it. -/
structure Sec where
  /-- SEC_STATE.PRESENCE | 1 bit | R417 | 0 -/
  presence : Bool := false
  /-- SEC_STATE.PRES_STUCK | 1 bit | R417 | 0 -/
  presStuck : Bool := false
  /-- SEC_STATE.SEAL_OPEN | 1 bit | R417 | 0 -/
  sealOpen : Bool := false
  /-- SEC_STATE.DEBUG | 1 bit | R417 | 0 -/
  debug : Bool := false
  /-- SEC_STATE.LAST_CMD_STATUS | 8 bits | R417 | 0 -/
  lastCmd : Status := 0
  /-- SEC_REFUSED.COUNT | 32 bits | R417 | 0 -/
  refused : Nat := 0
  /-- SEC_REFUSED_OFF.OFFSET | 24 bits | R417 | 0 -/
  refusedOff : Nat := 0
  /-- SEC_REFUSED_OFF.STATUS | 8 bits | R417 | 0 -/
  refusedStatus : Status := 0
  /-- SEC_OWNER_KEY0 to 7 | 64 bytes | R417 | 0 -/
  staged : Tbl Nat := []
  /-- SEC_FW_SRC.ADDR | 64 bits | R417 | 0 -/
  fwSrc : Nat := 0
  /-- SEC_FW_LEN.LEN | 32 bits | R417 | 0 -/
  fwLen : Nat := 0
  /-- SEC_FW_STAT.STATE | 2 bits | R417 | 0 -/
  fwState : Nat := 0
  /-- SEC_FW_STAT.STATUS | 8 bits | R417 | 0 -/
  fwStatus : Status := 0
  /-- SEC_ATT_NONCE0 to 3 | 32 bytes | R417 | 0 -/
  nonce : Tbl Nat := []
  /-- SEC_ATT_DST.ADDR | 64 bits | R417 | 0 -/
  attDst : Nat := 0
  /-- SEC_ATT_STAT.STATE | 2 bits | R417 | 0 -/
  attState : Nat := 0
  /-- SEC_ATT_STAT.STATUS | 8 bits | R417 | 0 -/
  attStatus : Status := 0
  /-- products asked for, REPORT, CERTS, LOGS at bits 0 to 2 | 3 bits | R409 | 0 -/
  attJob : Nat := 0
  /-- the job writes its products to the companion | 1 bit | R409 | no -/
  attWrites : Bool := false
  /-- report fields as captured | 384 bytes | R409 | none -/
  attBody : List Byte := []
  /-- the last report | 512 bytes | R410 | none -/
  report : List Byte := []
  /-- samples of PRESENCE_n and the loop are taken | 1 bit | R421 | no -/
  sampling : Bool := false
  /-- low samples of PRESENCE_n in a row | count | R415 | 0 -/
  lowRun : Nat := 0
  /-- high samples of PRESENCE_n in a row | count | R415 | 0 -/
  highRun : Nat := 0
  /-- presence must be counted as released before it counts again | 1 bit | R415 | no -/
  needRelease : Bool := false
  /-- open samples of the loop in a row | count | R416 | 0 -/
  openRun : Nat := 0
  /-- closed samples of the loop in a row | count | R416 | 0 -/
  closedRun : Nat := 0
  /-- a break may be recorded | 1 bit | R416 | yes -/
  sealArmed : Bool := true
  /-- partial log entries, oldest first | 64 bytes each | R407 | none -/
  partialLog : List (List Byte) := []
  /-- clause log entries, oldest first, which are also the digest list of R109 while it holds them | 64 bytes each | R407 | none -/
  clauseLog : List (List Byte) := []
  /-- clause digest list | up to 1,024 of 64 bytes | R109 | none -/
  clauseList : List (List Byte) := []
  /-- SEC_DEBUG.UNLOCK as written | 1 bit | R417 | 0 -/
  unlockBit : Bool := false
  /-- SEC_FW_ROLLBACK.ROLLBACK as written | 1 bit | R417 | 0 -/
  rollbackBit : Bool := false
  /-- SEC_FW_LEN as the running update took it | 32 bits | R404 | 0 -/
  fwJobLen : Nat := 0
  deriving DecidableEq, Repr

/-! ### Serving (chapter 13) -/

/-- The states of a request (R291). -/
inductive ReqState where
  | free
  | queued
  | prefill
  | decode
  | verify
  | paused
  | done
  | cancelled
  | expired
  | faulted
  deriving DecidableEq, Repr

/-- A request entry (R290). -/
structure Request where
  state : ReqState := .free
  pid : Nat := 0
  prio : Nat := 0
  cancelReq : Bool := false
  progress : Bool := false
  save : Bool := false
  greedy : Bool := false
  draftOff : Bool := false
  client : Nat := 0
  len : Nat := 0
  maxlen : Nat := 0
  prompt : Nat := 0
  model : Nat := 0
  draft : Nat := 0xFF
  dlen : Nat := 0
  status : Status := 0
  pfx : Nat := 0xFFFF
  saveHandle : Nat := 0xFFFF
  reason : Nat := 0
  cause : Status := 0
  deadline : Nat := 0
  kvVa : Nat := 0
  plane : Nat := 0
  commit : Nat := 0
  delivered : Nat := 0
  stop : Nat := 0xFFFFFFFF
  seed : Nat := 0
  inPa : Nat := 0
  outPa : Nat := 0
  temp : Nat := 0
  topk : Nat := 0
  steps : Nat := 0
  accepted : Nat := 0
  admitTick : Nat := 0
  last : Nat := 0
  /-- tokens delivered up to the last completion record (NEW of R308) | 32 bits | R308 | 0 -/
  reported : Nat := 0
  /-- the SUBMIT's DLEN, which draws return to after DRAFT_OFF | 8 bits | R306 | 0 -/
  dlenSubmit : Nat := 0
  /-- prompt tokens as read | - | R289 | none -/
  tokens : List Nat := []
  /-- group the request steps in | - | R296 | none -/
  group : Option Nat := none
  /-- layers L of its model when it was accepted, which lay out its region | 16 bits | R292 | 0 -/
  layers : Nat := 0
  deriving DecidableEq, Repr

/-- A prefix entry (R295). -/
structure Prefix where
  /-- 0 FREE, 1 READY, 2 RETIRING -/
  state : Nat := 0
  pid : Nat := 0
  model : Nat := 0
  saved : Bool := false
  len : Nat := 0
  kvVa : Nat := 0
  client : Nat := 0
  /-- pages of a saved region, which return to the pool | - | R295 | none -/
  pages : List Nat := []
  deriving DecidableEq, Repr

/-- A sequence descriptor the controller has still to send: the template's bytes, and the key and value planes that stand for its
placeholders, with the rows it may read of them and their bytes (R298). -/
structure Issue where
  raw : List Byte := []
  planes : Option (Nat × Nat) := none
  rows : Nat := 0
  rowBytes : Nat := 0
  deriving DecidableEq, Repr

/-- A group of requests in a step (R296, R299). -/
structure Group where
  pid : Nat := 0
  model : Nat := 0
  /-- a bank-side group; otherwise dense -/
  bankSide : Bool := false
  /-- KIND of the work order: 0 prefill, 1 decode, 2 verification -/
  kind : Nat := 1
  members : List Nat := []
  /-- controller port of the group's serving core -/
  port : Nat := 0
  listVa : Nat := 0
  /-- tags of the sequences of the pass in flight -/
  tags : List Nat := []
  /-- a bank-side group: the chains of layers still to run, each a model with a member for every vector: the draft steps, then the
  verification pass (R300) -/
  work : List (Nat × List Nat) := []
  /-- the layer of the first chain to issue next, and the passes of that layer already issued -/
  layer : Nat := 0
  pass : Nat := 0
  /-- descriptors of the pass not yet sent -/
  issue : List Issue := []
  /-- serving tick at its formation -/
  began : Nat := 0
  /-- the step is abandoned: status, and whether the model's damage caused it -/
  abandoned : Option (Status × Bool) := none
  /-- status byte of the result tile, once it has arrived -/
  result : Option Status := none
  deriving DecidableEq, Repr

/-- The SRV registers of one partition (R312) and what stands behind them. -/
structure PartSrv where
  /-- CMD_BASE.ADDR | 64 bits | R312 | 0 -/
  cmdBase : Nat := 0
  /-- CMD_CFG.LOG2 | 4 bits | R312 | 0 -/
  cmdLog2 : Nat := 0
  /-- CMD_CFG.ENABLE | 1 bit | R312 | 0 -/
  cmdEnable : Bool := false
  /-- CMD_HEAD.INDEX | 12 bits | R312 | 0 -/
  cmdHead : Nat := 0
  /-- CMD_HEAD.PHASE | 1 bit | R312 | 1 -/
  cmdPhase : Bool := true
  /-- ring lines the intake holds | 64 bytes each | R284 | none -/
  lines : Tbl (List Byte) := []
  /-- request whose prompt is being read | entry index | R289 | none -/
  reading : Option Nat := none
  /-- CPL_BASE.ADDR | 64 bits | R312 | 0 -/
  cplBase : Nat := 0
  /-- CPL_CFG.LOG2 | 4 bits | R312 | 0 -/
  cplLog2 : Nat := 0
  /-- CPL_CFG.ENABLE | 1 bit | R312 | 0 -/
  cplEnable : Bool := false
  /-- CPL_CFG.IRQ | 1 bit | R312 | 0 -/
  cplIrq : Bool := false
  /-- CPL_TAIL.INDEX | 12 bits | R312 | 0 -/
  cplTail : Nat := 0
  /-- CPL_TAIL.PHASE | 1 bit | R312 | 1 -/
  cplPhase : Bool := true
  /-- CPL_HEADPTR.ADDR | 64 bits | R312 | 0 -/
  cplHeadPtr : Nat := 0
  /-- companion's completion head as last fetched | 32 bits | R309 | 0 -/
  cplHead : Nat := 0
  /-- completion records held, in the order of their boundaries, with the entry each ends | 64 | R309 | none -/
  cplStore : List (List Byte × Option Nat) := []
  /-- CPL_FULL has been sent for this filling of the store | 1 bit | R309 | no -/
  cplFullSent : Bool := false
  /-- KVA_BASE.ADDR | 52 bits | R312 | 0 -/
  kvaBase : Nat := 0
  /-- KVA_PAGES.PAGES | 32 bits | R312 | 0 -/
  kvaPages : Nat := 0
  /-- KV_LIMIT.PAGES | 32 bits | R312 | 0 -/
  kvLimit : Nat := 0
  /-- KV_USED.PAGES | 32 bits | R312 | 0 -/
  kvUsed : Nat := 0
  /-- page pool, POOL_LEVEL its length | physical pages | R312 | empty -/
  pool : List Nat := []
  /-- step-list page | physical page | R312 | none -/
  stepPage : Option Nat := none
  /-- committed key/value pages, by virtual page number | physical page | R293 | none -/
  committed : Tbl Nat := []
  /-- NOUNS.BASE | 12 bits | R312 | 0 -/
  nounBase : Nat := 0
  /-- NOUNS.COUNT | 12 bits | R312 | 0 -/
  nounCount : Nat := 0
  /-- next handle of the rotation, from NOUNS.BASE | 12 bits | R298 | 0 -/
  nounNext : Nat := 0
  /-- tag of the sequence that last named a handle, by its place from NOUNS.BASE | 32 bits | R298 | none -/
  nounTags : Tbl Nat := []
  /-- STEPS.COUNT | 32 bits | R312 | 0 -/
  steps : Nat := 0
  /-- TMPL.ADDR | 64 bits | R312 | 0 -/
  tmpl : Nat := 0
  /-- TOKENS.COUNT | 64 bits | R312 | 0 -/
  tokens : Nat := 0
  deriving DecidableEq, Repr

/-- The SRV block and the serving controller. -/
structure Srv where
  /-- SRV_STATE.STATE | 2 bits | R312 | IDLE -/
  state : Nat := 0
  /-- SRV_STATE.LAST_CMD_STATUS | 8 bits | R312 | 0 -/
  lastCmd : Status := 0
  /-- SRV_TICK.TICK | 64 bits | R26 | 0 -/
  tick : Nat := 0
  /-- the serving tick runs | 1 bit | R31 | no -/
  ticking : Bool := false
  /-- SRV_CTL.BSU_MAX | 5 bits | R312 | 16 at acceptance -/
  bsuMax : Nat := 16
  /-- SRV_CTL.BATCH_MAX | 13 bits | R312 | 512 at acceptance -/
  batchMax : Nat := 512
  /-- SRV_LIMIT.STEP_LIMIT | 16 bits | R312 | 1,000 at acceptance -/
  stepLimit : Nat := 1000
  /-- SRV_PEEK.INDEX | 12 bits | R312 | 0 -/
  peekIndex : Nat := 0
  /-- SRV_PEEK.PFX | 10 bits | R312 | 0 -/
  peekPfx : Nat := 0
  /-- SRV_PEEKD0 to 15 | 128 bytes | R312 | 0 -/
  peekD : List Byte := []
  /-- SRV_PFXD0 to 7 | 64 bytes | R312 | 0 -/
  pfxD : List Byte := []
  /-- request table | up to 4,096 of 128 bytes | R283 | all FREE -/
  table : Tbl Request := []
  /-- prefix entries | up to 1,024 of 64 bytes | R295 | all FREE -/
  prefixes : Tbl Prefix := []
  /-- registers of the partitions | 16 | R312 | 0 -/
  parts : Tbl PartSrv := []
  /-- groups in a step | - | R296 | none -/
  groups : Tbl Group := []
  /-- number of the next group | 32 bits | R299 | 0 -/
  nextGroup : Nat := 0
  /-- controller ports: work-order credits, core bound | 64 | R299 | unbound -/
  ports : Tbl Port := []
  /-- partition whose command ring was served last | 4 bits | R285 | 15 (DESIGN CHOICE) -/
  lastServed : Nat := 15
  deriving DecidableEq, Repr

/-! ### Scheduling and the model cache (chapter 14) -/

/-- The states of a model-cache entry (R321). -/
inductive McState where
  | empty
  | loading
  | resident
  | damaged
  | evicted
  deriving DecidableEq, Repr

/-- A model-cache entry (R321, R334). -/
structure McEntry where
  /-- MC_ENTRY.STATE | 3 bits | R334 | EMPTY -/
  state : McState := .empty
  /-- MC_ENTRY.PINNED | 1 bit | R334 | 0 -/
  pinned : Bool := false
  /-- damaged 64 KiB blocks, by physical address ÷ 64 KiB, MC_ENTRY.DAMAGED their number | up to 16 | R258 | none -/
  damaged : List Nat := []
  /-- damaged blocks whose refetch has failed | up to 16 | R258 | none -/
  failed : List Nat := []
  /-- part of it lies on a channel mapped out since it was loaded | 1 bit | R205 | no -/
  lost : Bool := false
  /-- MC_ENTRY.PAGES | 20 bits | R334 | 0 -/
  pages : Nat := 0
  /-- the pages held, physical address ÷ 2 MiB, in order | - | R322 | none -/
  pageList : List Nat := []
  /-- MC_ENTRY.USERS | 16 bits | R334 | 0 -/
  users : Nat := 0
  /-- MC_ENTRY.BASE | 8 bits | R334 | 0 -/
  base : Nat := 0
  /-- MC_ENTRY.LAYERS | 8 bits | R334 | 0 -/
  layers : Nat := 0
  /-- MC_ENTRY.SRC | 64 bits | R334 | 0 -/
  src : Nat := 0
  /-- MC_ENTRY.CTX | 24 bits | R334 | 0 -/
  ctx : Nat := 0
  /-- MC_ENTRY.KVT | 16 bits | R334 | 0 -/
  kvt : Nat := 0
  /-- MC_ENTRY.SRCKIND | 2 bits | R334 | 0 -/
  srcKind : Nat := 0
  /-- MC_ENTRY.SRCPID | 4 bits | R334 | 0 -/
  srcPid : Nat := 0
  /-- MC_ENTRY.LAST | 64 bits | R334 | 0 -/
  last : Nat := 0
  deriving DecidableEq, Repr

/-- A switch of a cluster in progress (R326, R327). -/
structure Switch where
  source : Nat := 0
  target : Nat := 0
  /-- the drain has ended; the move runs -/
  moving : Bool := false
  /-- serving tick at step 1 -/
  began : Nat := 0
  /-- model-cache entries still to load (weight switch) -/
  loads : List Nat := []
  /-- stream bindings of the source as step 3 of R327 found them, by core -/
  ports : Tbl (Tbl Port) := []
  deriving DecidableEq, Repr

/-- The saved state of a cluster in slot c of a partition's save area (R328). -/
structure SaveSlot where
  cores : List CoreSt := []
  ccRunning : Bool := false
  ccEntry : Nat := 0
  ccData : Nat := 0
  deriving DecidableEq, Repr

/-- The SCHED registers of one partition (R334). -/
structure PartSched where
  /-- P_SHARE.SHARE | 16 bits | R334 | 0 -/
  share : Nat := 0
  /-- P_SAVE_VA.ADDR | 52 bits | R334 | 0 -/
  saveVa : Nat := 0
  /-- P_CC_ENTRY.ADDR | 52 bits | R334 | 0 -/
  ccEntry : Nat := 0
  /-- P_CORES0 to 2, the core set in force | 192 bits | R315 | 0 -/
  cores : Nat := 0
  /-- ACCT_M.CYCLES | 64 bits | R334 | 0 -/
  acctM : Nat := 0
  /-- ACCT_V.CYCLES | 64 bits | R334 | 0 -/
  acctV : Nat := 0
  /-- ACCT_D.CYCLES | 64 bits | R334 | 0 -/
  acctD : Nat := 0
  /-- ACCT_B.CYCLES | 64 bits | R334 | 0 -/
  acctB : Nat := 0
  deriving DecidableEq, Repr

/-- The SCHED block (R334). -/
structure Sched where
  /-- SCHED_STATE.PLAN | 3 bits | R334 | 0 -/
  plan : Nat := 0
  /-- plan of the phase command that runs, SCHED_STATE.PHASE_BUSY | 3 bits | R334 | none -/
  phaseBusy : Option Nat := none
  /-- plan of the phase command held, SCHED_STATE.PHASE_HELD | 3 bits | R334 | none -/
  phaseHeld : Option Nat := none
  /-- a completed phase command is still rebalancing | 1 bit | R330 | no -/
  rebalancing : Bool := false
  /-- switches in progress, by cluster, SCHED_STATE.SWITCHING their number | up to 16 | R334 | none -/
  switching : Tbl Switch := []
  /-- SCHED_STATE.LAST_CMD_STATUS | 8 bits | R334 | 0 -/
  lastCmd : Status := 0
  /-- SCHED_CTL.REBAL | 1 bit | R334 | 0 -/
  rebal : Bool := false
  /-- SCHED_CTL.DRAIN_LIMIT | 8 bits | R334 | 10 at acceptance -/
  drainLimit : Nat := 10
  /-- SCHED_CTL.MOVES | 5 bits | R334 | 4 at acceptance -/
  moves : Nat := 4
  /-- SCHED_SWLAST.CLUSTER | 4 bits | R334 | 0 -/
  swCluster : Nat := 0
  /-- SCHED_SWLAST.FROM | 4 bits | R334 | 0 -/
  swFrom : Nat := 0
  /-- SCHED_SWLAST.TO | 4 bits | R334 | 0 -/
  swTo : Nat := 0
  /-- SCHED_SWLAST.KIND | 1 bit | R334 | 0 -/
  swKind : Nat := 0
  /-- SCHED_SWLAST.STATUS | 8 bits | R334 | 0 -/
  swStatus : Status := 0
  /-- SCHED_SWTIME.TICKS | 32 bits | R334 | 0 -/
  swTime : Nat := 0
  /-- registers of the partitions | 16 | R334 | 0 -/
  parts : Tbl PartSched := []
  /-- save areas' slots that hold state, by 16 p + c | 32 MiB each | R328 | none -/
  saved : Tbl SaveSlot := []
  /-- MC_STATUS.LAST_CMD_STATUS | 8 bits | R334 | 0 -/
  mcLastCmd : Status := 0
  /-- entry being loaded, MC_STATUS.BUSY | 6 bits | R334 | none -/
  mcBusy : Option Nat := none
  /-- MC_SRC.ADDR | 64 bits | R334 | 0 -/
  mcSrc : Nat := 0
  /-- MC_LIST.ADDR | 64 bits | R334 | 0 -/
  mcList : Nat := 0
  /-- MC_LIST as the running load took it | 64 bits | R322 | 0 -/
  mcJobList : Nat := 0
  /-- MC_ARG.PAGES | 20 bits | R334 | 0 -/
  mcPages : Nat := 0
  /-- MC_ARG.SRCKIND | 2 bits | R334 | 0 -/
  mcSrcKind : Nat := 0
  /-- MC_ARG.SRCPID | 4 bits | R334 | 0 -/
  mcSrcPid : Nat := 0
  /-- MC_ARG.LAYERS | 8 bits | R334 | 0 -/
  mcLayers : Nat := 0
  /-- MC_ARG.KVT | 16 bits | R334 | 0 -/
  mcKvt : Nat := 0
  /-- MC_ARG.BASE | 8 bits | R334 | 0 -/
  mcBase : Nat := 0
  /-- MC_ARG2.CTX | 24 bits | R334 | 0 -/
  mcCtx : Nat := 0
  /-- MC_ARG2.USERS | 16 bits | R334 | 0 -/
  mcUsers : Nat := 0
  /-- model-cache entries | 64 | R321 | EMPTY -/
  mc : Tbl McEntry := []
  /-- stack of the page taken last, for the rotation of HASH 2 | 4 bits | R322 | none -/
  mcLastStack : Option Nat := none
  deriving DecidableEq, Repr

/-! ### The Xomon link (chapter 15) -/

/-- XL_STATE.STATE (R355). -/
inductive LinkState where
  | down
  | training
  | up
  | retraining
  deriving DecidableEq, Repr

/-- How far link training has come (R337). -/
inductive TrainStep where
  /-- none runs -/
  | idle
  /-- detect at 2.5 GT/s -/
  | detect
  /-- the hand-off window is open -/
  | window
  /-- GRANT has been given; recovery has not begun -/
  | granted
  /-- equalisation at the chosen rate -/
  | equalise
  deriving DecidableEq, Repr

/-- A line of the link cache (R344). -/
structure LinkLine where
  bytes : List Byte := []
  dirty : Bool := false
  watched : Bool := false
  deriving DecidableEq, Repr

/-- The XL block (R355), the directory, the link cache and the hand-off capability. -/
structure Xl where
  /-- XL_STATE.STATE | 3 bits | R355 | DOWN -/
  state : LinkState := .down
  /-- XL_STATE.MODE | 3 bits | R355 | 0 -/
  mode : Nat := 0
  /-- XL_STATE.WIDTH | 5 bits | R355 | 0 -/
  width : Nat := 0
  /-- XL_STATE.FEAT | 4 bits | R355 | 0 -/
  feat : Nat := 0
  /-- XL_STATE.LAST_CMD_STATUS | 8 bits | R355 | 0 -/
  lastCmd : Status := 0
  /-- XL_CTL.POLL | 10 bits | R355 | 20 -/
  poll : Nat := 0x14
  /-- XL_OFFER.MAXGEN | 2 bits | R355 | 3 -/
  maxgen : Nat := 3
  /-- XL_OFFER.PCIE_OK | 1 bit | R355 | 1 -/
  pcieOk : Bool := true
  /-- XL_LANES.GOOD | 16 bits | R355 | 0 -/
  lanes : Nat := 0
  /-- XL_WIN0 to 2 | 64 bits each | R355 | 0 -/
  windows : Tbl Nat := []
  /-- step of the training in progress | - | R337 | none -/
  train : TrainStep := .idle
  /-- capability COMP_CAP | 64 bits | R339 | 0 -/
  compCap : Nat := 0
  /-- capability COMP_WIN | 3 of 64 bits | R339 | 0 -/
  compWin : Tbl Nat := []
  /-- capability STATUS: GRANT | 1 bit | R339 | 0 -/
  grant : Bool := false
  /-- capability STATUS: REFUSED | 1 bit | R339 | 0 -/
  refused : Bool := false
  /-- capability GEN | 8 bits | R339 | 0 -/
  gen : Nat := 0
  /-- capability WIDTH | 8 bits | R339 | 0 -/
  grantWidth : Nat := 0
  /-- the partner taken as a root port | 1 bit | R337 | no -/
  rootPort : Bool := false
  /-- the root port supports 64 GT/s | 1 bit | R338 | no -/
  root64 : Bool := false
  /-- directory: lines the companion holds, by physical address ÷ 64, least recently filled first, XL_DIR.HELD
  their number | 8,388,608 | R343 | empty -/
  directory : List Nat := []
  /-- XL_DIREVICT.COUNT | 32 bits | R355 | 0 -/
  recalls : Nat := 0
  /-- withdraw requests sent and not answered, with the write each holds back | - | R342 | none -/
  withdraws : List (Nat × Option WriteOp) := []
  /-- fills that wait for a recall | lines | R343 | none -/
  fills : List Nat := []
  /-- link cache, by companion address ÷ 64, XL_LCACHE counts it | 4 MiB | R344 | empty -/
  cache : Tbl LinkLine := []
  /-- XL_ERR.REPLAYS | 32 bits | R355 | 0 -/
  replays : Nat := 0
  /-- XL_ERR.RETRAINS | 16 bits | R355 | 0 -/
  retrains : Nat := 0
  /-- XL_ERR.DOWNS | 16 bits | R355 | 0 -/
  downs : Nat := 0
  /-- XL_FAULT.ADDR | 64 bits | R355 | 0 -/
  faultAddr : Nat := 0
  /-- XL_PERST_n is asserted | 1 pin | R422 | asserted (internal pull-down) -/
  perst : Bool := true
  /-- the link has been up since reset | 1 bit | R423 | no -/
  wasUp : Bool := false
  /-- dirty link-cache lines lost while down, for the LINK_DOWN event | count | R354 | 0 -/
  lostDirty : Nat := 0
  /-- the link has gone down since it last came up, with the LINK_DOWN event owed | 1 bit | R354 | no -/
  downOwed : Bool := false
  deriving DecidableEq, Repr

/-! ### Fabric ports (chapter 16) -/

/-- FAB_STATE.STATE (R375). -/
inductive PortState where
  | off
  | negotiating
  | training
  | up
  | retraining
  | down
  deriving DecidableEq, Repr

/-- FAB_FSTATE.STATE (R375). -/
inductive FlowState where
  | closed
  | hello
  | open_
  | error
  deriving DecidableEq, Repr

/-- A request of a local party that is not done at the peer: its PSN; the verb and the block of peer memory a read or an
atomic asked for; the remote address of a write; the owner and the producer station of a tile packet, with 0x10000 more
for a tile's last. -/
structure Waiter where
  psn : Nat := 0
  writer : Writer := .device
  tag : Nat := 0
  key : Nat := 0
  atomic : Bool := false
  deriving DecidableEq, Repr

/-- A flow of a fabric port. -/
structure Flow where
  /-- FAB_FSTATE.STATE | 2 bits | R375 | CLOSED -/
  state : FlowState := .closed
  /-- FAB_FSTATE.PAYLOAD | 2 bits | R375 | 0 -/
  payload : Nat := 0
  /-- FAB_FSTATE.FEAT | 4 bits | R375 | 0 -/
  feat : Nat := 0
  /-- FAB_FSTATE.ERR | 8 bits | R375 | 0 -/
  err : Status := 0
  /-- FAB_FSTATE.PEER_STATUS | 8 bits | R375 | 0 -/
  peerStatus : Status := 0
  /-- ENABLE | 1 bit | R375 | 0 -/
  enable : Bool := false
  /-- KIND: a stream flow | 1 bit | R375 | 0 -/
  stream : Bool := false
  /-- PID | 4 bits | R375 | 0 -/
  pid : Nat := 0
  /-- MGMT | 1 bit | R375 | 0 -/
  mgmt : Bool := false
  /-- RFLOW | 10 bits | R375 | 0 -/
  rflow : Nat := 0
  /-- VLAN_EN | 1 bit | R375 | 0 -/
  vlanEn : Bool := false
  /-- VID | 12 bits | R375 | 0 -/
  vid : Nat := 0
  /-- PCP | 3 bits | R375 | 0 -/
  pcp : Nat := 0
  /-- DSCP | 6 bits | R375 | 0 -/
  dscp : Nat := 0
  /-- LOCAL | 16 bits | R375 | 0 -/
  local_ : Nat := 0
  /-- DMAC | 48 bits | R375 | 0 -/
  dmac : Nat := 0
  /-- PEER_IP | 128 bits | R375 | 0 -/
  peerIp : Nat := 0
  /-- EPOCH of this opening | 32 bits | R362 | 0 -/
  epoch : Nat := 0
  /-- EPOCH the peer opened with | 32 bits | R362 | none -/
  peerEpoch : Option Nat := none
  /-- next PSN to send | 32 bits | R362 | 0 -/
  sendPsn : Nat := 0
  /-- peer's RECV_PSN | 32 bits | R372 | 0 -/
  peerRecv : Nat := 0
  /-- peer's DONE_PSN | 32 bits | R371 | 0 -/
  peerDone : Nat := 0
  /-- E, the next PSN expected | 32 bits | R370 | 0 -/
  expect : Nat := 0
  /-- DONE_PSN of this end | 32 bits | R371 | 0 -/
  done : Nat := 0
  /-- packets accepted since the last ACK | count | R370 | 0 -/
  unacked : Nat := 0
  /-- a NAK has been sent for the gap in progress | 1 bit | R370 | no -/
  gapNaked : Bool := false
  /-- CWND | 4 to 256 | R372 | 64 -/
  cwnd : Nat := 64
  /-- packets covered since CWND last grew | count | R372 | 0 -/
  covered : Nat := 0
  /-- PSN up to which CWND has been halved already | 32 bits | R372 | 0 -/
  halvedTo : Nat := 0
  /-- a CE mark has arrived and is to be echoed | 1 bit | R372 | no -/
  ceEcho : Bool := false
  /-- packets sent and not covered, with their resends, oldest first | - | R372 | none -/
  window : List (Packet × Nat) := []
  /-- packets that wait for window room, with the verb's number and the block each asks for | - | R372 | none -/
  queue : List (Packet × Waiter) := []
  /-- results of the last 64 atomics performed, each with its PSN, oldest first | 64 | R370 | none -/
  atomics : List (Nat × Nat) := []
  /-- requests accepted and not yet performed, in PSN order | - | R371 | none -/
  requests : List Packet := []
  /-- the first of them is at its base dies | 1 bit | R371 | no -/
  begun : Bool := false
  /-- reads and atomics of local parties that wait for an answer, and writes and tile packets that DONE_PSN of the peer
  does not cover yet | - | R371 | none -/
  waiters : List Waiter := []
  /-- bytes of the tile being received | - | R369 | none -/
  tileIn : List Byte := []
  /-- size of the tile being received | bytes | R365 | 0 -/
  tileSize : Nat := 0
  deriving DecidableEq, Repr

/-- A fabric port (R375). -/
structure FabPort where
  /-- FAB_STATE.STATE | 3 bits | R375 | OFF -/
  state : PortState := .off
  /-- FAB_STATE.RATE | 2 bits | R375 | 0 -/
  rate : Nat := 0
  /-- FAB_STATE.WIDTH4 | 1 bit | R375 | 0 -/
  width4 : Bool := false
  /-- FAB_STATE.HALF | 1 bit | R375 | 0 -/
  half : Bool := false
  /-- FAB_STATE.LAST_CMD_STATUS | 8 bits | R375 | 0 -/
  lastCmd : Status := 0
  /-- FAB_CTL.MEDIA | 1 bit | R375 | 0 -/
  media : Nat := 0
  /-- FAB_CTL.DOWN_LIMIT | 8 bits | R375 | 100 at acceptance -/
  downLimit : Nat := 100
  /-- FAB_MAC.MAC | 48 bits | R375 | fused at acceptance -/
  mac : Nat := 0
  /-- FAB_IP0 | 64 bits | R375 | 0 -/
  ip0 : Nat := 0
  /-- FAB_IP1 | 64 bits | R375 | 0 -/
  ip1 : Nat := 0
  /-- FAB_ETYPE.ETYPE | 16 bits | R375 | 0x88B5 at acceptance -/
  etype : Nat := 0x88B5
  /-- FAB_ETYPE.UDP | 16 bits | R375 | 0xD098 at acceptance -/
  udp : Nat := 0xD098
  /-- FAB_MTU.PAYLOAD | 2 bits | R375 | 2 at acceptance -/
  mtu : Nat := 2
  /-- FAB_TIMERS.RTO | 16 bits | R375 | 50 at acceptance -/
  rto : Nat := 50
  /-- FAB_TIMERS.RETRY | 4 bits | R375 | 7 at acceptance -/
  retry : Nat := 7
  /-- FAB_TIMERS.HELLO | 8 bits | R375 | 10 at acceptance -/
  helloLimit : Nat := 10
  /-- FAB_LANES.GOOD | 8 bits | R375 | 0 -/
  lanes : Nat := 0
  /-- FAB_FEC.CORRECTED | 32 bits | R375 | 0 -/
  fecCorrected : Nat := 0
  /-- FAB_FEC.UNCORRECTED | 32 bits | R375 | 0 -/
  fecUncorrected : Nat := 0
  /-- FAB_DROP.ADDR | 16 bits | R375 | 0 -/
  dropAddr : Nat := 0
  /-- FAB_DROP.CTRL | 16 bits | R375 | 0 -/
  dropCtrl : Nat := 0
  /-- FAB_DROP.BADHDR | 16 bits | R375 | 0 -/
  dropHdr : Nat := 0
  /-- FAB_DROP.FCS | 16 bits | R375 | 0 -/
  dropFcs : Nat := 0
  /-- FAB_RETX.RESENT | 32 bits | R375 | 0 -/
  resent : Nat := 0
  /-- FAB_RETX.NAKS | 32 bits | R375 | 0 -/
  naks : Nat := 0
  /-- FAB_RMGMT.ACCEPTED | 32 bits | R375 | 0 -/
  rmAccepted : Nat := 0
  /-- FAB_RMGMT.REFUSED | 32 bits | R375 | 0 -/
  rmRefused : Nat := 0
  /-- flows | 1,024 | R367 | CLOSED -/
  flows : Tbl Flow := []
  /-- packets received and passed to their flows, oldest first | - | R364 | none -/
  rx : List Packet := []
  /-- PORT_DOWN has been sent for this failure | 1 bit | R360 | no -/
  downSent : Bool := false
  /-- bytes sent, for telemetry | 64 bits | R433 | 0 -/
  bytesOut : Nat := 0
  /-- bytes received, for telemetry | 64 bits | R433 | 0 -/
  bytesIn : Nat := 0
  deriving DecidableEq, Repr

/-! ### Traffic between stations and to the outside -/

/-- What crosses the device's networks between stations (R79, R82). -/
inductive Transit where
  /-- a tile on its way -/
  | tile (source target : Nat) (bytes : List Byte)
  /-- a credit that consumer `source` returns or grants to producer `target` -/
  | credit (source target : Nat)
  /-- a revocation by consumer `source` of the credits it granted `target` -/
  | revoke (source target : Nat)
  deriving DecidableEq, Repr

/-- What the device sends on its links and pins towards other parties (R340, R346, R363, R394). -/
inductive Out where
  /-- a write to companion memory -/
  | compWrite (addr : Nat) (order : Ordering) (bytes : List Byte)
  /-- the answer to a companion read: OK or a status, the data, and whether it is flagged poisoned -/
  | readReply (status : Status) (poisoned : Bool) (bytes : List Byte)
  /-- the answer to a companion write -/
  | writeReply (status : Status)
  /-- a withdraw request for a device line -/
  | withdraw (line : Nat)
  /-- the answer to a snoop: whether the line is held, and its dirty data -/
  | snoopReply (line : Nat) (held : Bool) (dirty : Option (List Byte))
  /-- a packet sent on a flow of a port, and its frame's bytes -/
  | packet (port flow : Nat) (p : Packet) (frame : List Byte)
  /-- a Neighbor Advertisement sent by a port -/
  | advertisement (port : Nat)
  /-- the answer to a configuration read -/
  | configReply (value : Nat)
  /-- an MCTP response: STATUS and its data bytes -/
  | mctpReply (status : Status) (bytes : List Byte)
  deriving DecidableEq, Repr

/-- Where an atomic is performed (R167, R181). -/
inductive Spot where
  | baseDie (pa : Nat)
  | cache (c pa : Nat)
  | localStore (g off : Nat)
  | companion (addr : Nat)
  /-- an element that fills no whole bytes in one place: the line of its first bit, as `Target.key` numbers it, and the bit -/
  | element (line place : Nat)
  deriving DecidableEq, Repr

/-- The last atomic at a location, whose verb has not completed: another that it is not atomic with may still lose it (R182). -/
structure Recent where
  spot : Spot
  writer : Writer
  scope : Nat
  tag : Nat
  /-- what the location held before it -/
  before : Nat
  deriving DecidableEq, Repr

/-! ### The whole state -/

/-- The block. -/
structure State where
  /-- commands that wait, first in, first out | - | MODEL | empty -/
  pending : List Instr := []
  /-- fuses | - | R449 | see its fields -/
  fuses : Fuses := {}
  /-- SPI flash: firmware slots and record store | 4 MiB | R426 | untouched by reset -/
  flash : Flash := {}
  /-- management complex and MGMT block | - | R449 | in reset -/
  mgmt : Mgmt := {}
  /-- GRAM block | - | R59 | EMPTY -/
  gram : Gram := {}
  /-- PWR block and power manager | - | R398 | 300 W -/
  pwr : Pwr := {}
  /-- THM block and thermal model | - | R399 | T = 0 -/
  thm : Thm := {}
  /-- SEC block | - | R417 | locked -/
  sec : Sec := {}
  /-- SRV block and serving controller | - | R312 | IDLE -/
  srv : Srv := {}
  /-- SCHED block and model cache | - | R334 | no plan in force -/
  sched : Sched := {}
  /-- XL block and Xomon link | - | R355 | DOWN -/
  xl : Xl := {}
  /-- fabric ports | 8 | R375 | OFF -/
  fab : Tbl FabPort := []
  /-- stacks | 12 | R189 | self-refresh, untrained -/
  stk : Tbl Stack := []
  /-- clusters | 16 | R17 | caches empty -/
  clusters : Tbl Cluster := []
  /-- cores, core k of cluster c at 12c + k | 192 | R112 | QUIESCENT -/
  cores : Tbl CoreSt := []
  /-- interleave sets in force: the channel list of each, by global number | - | R199 | none -/
  sets : List (List Nat) := []
  /-- device memory: data bytes of the stacks by device physical address; an unlisted address reads 0 | 768 GiB | R198 | nothing listed (DESIGN CHOICE) -/
  mem : List Host.Cell := []
  /-- stored poison words, by line | lines | R247 | none -/
  poison : List Nat := []
  /-- wrong symbols in the cells of a line (symbol, value XORed in) | - | R246 | none -/
  upsets : Tbl (List (Nat × Nat)) := []
  /-- cells that hold fixed bits, by line: symbol, mask and value of the bits | - | R250 | none -/
  stuck : Tbl (List (Nat × Nat × Nat)) := []
  /-- lines whose next transfers over the stack port fail, with how many in a row | - | R249 | none -/
  transfers : Tbl Nat := []
  /-- atomics whose verbs have not completed, the last at each location | - | R182 | none -/
  recent : List Recent := []
  /-- bank-side sequences in flight, by number | - | R217 | none -/
  seqs : Tbl Seq := []
  /-- number of the next sequence | - | MODEL | 0 -/
  nextSeq : Nat := 0
  /-- what base dies have answered to writes and atomics that waited there, not yet taken up by the writer: writer,
  its tag, status, old value of an atomic | - | R205 | none -/
  answers : List (Writer × Nat × Status × Nat) := []
  /-- tiles, credits and revocations on their way, oldest first | - | R79 | none -/
  transit : List Transit := []
  /-- what the device has sent to other parties, oldest first | - | MODEL | nothing -/
  out : List Out := []
  /-- island-local counts, by the ISLAND field of R350, each as its last record took it | 64 bits each | R24 | 0 -/
  counts : Tbl Nat := []
  /-- core islands whose clock was held at their last record and has been held since | up to 192 | R377 | none -/
  clockHeld : List Nat := []
  /-- number of the next free value | - | MODEL | 0 (DESIGN CHOICE) -/
  fresh : Nat := 0
  deriving DecidableEq, Repr

/-- The machine right after reset (R421): RESET_n low, everything off, the stacks in self-refresh, every register at
the value its Reset column gives; an empty record store and an AK3-768-F part stand where the spec leaves the value to
the part (log entry 2). -/
def State.reset : State := {}

end Sys2Proof.Machine
end

