-- ==== Sys2Proof/Machine/Ops.lean ====
section
/-!
DEFINITION. The named operations over tables, bit fields, memory, units and event records that every family's
meanings call.
-/

namespace Sys2Proof

/-! ### Sparse tables -/

/-- The member `n` of a family, `d` where it is not listed. -/
def Tbl.look {α : Type} (d : α) : Tbl α → Nat → α
  | [], _ => d
  | (k, v) :: r, n => if k = n then v else Tbl.look d r n

/-- The member `n` of a family where it is listed. -/
def Tbl.seek {α : Type} : Tbl α → Nat → Option α
  | [], _ => none
  | (k, v) :: r, n => if k = n then some v else Tbl.seek r n

/-- The family with its member `n` set to `x`, numbers kept strictly rising. -/
def Tbl.put {α : Type} (n : Nat) (x : α) : Tbl α → Tbl α
  | [] => [(n, x)]
  | (k, v) :: r => if n < k then (n, x) :: (k, v) :: r else if n = k then (n, x) :: r else (k, v) :: Tbl.put n x r

/-- The family with its member `n` no longer listed. -/
def Tbl.drop {α : Type} (n : Nat) : Tbl α → Tbl α
  | [] => []
  | (k, v) :: r => if k = n then r else (k, v) :: Tbl.drop n r

/-- The family with `f` applied to its member `n`. -/
def Tbl.upd {α : Type} (d : α) (n : Nat) (f : α → α) (t : Tbl α) : Tbl α := t.put n (f (t.look d n))

/-- The numbers of the members listed. -/
def Tbl.keys {α : Type} (t : Tbl α) : List Nat := t.map (·.1)

/-! ### Bits and bytes -/

/-- Bits [lo + w - 1 : lo] of a number. -/
def bits (v lo w : Nat) : Nat := v / 2 ^ lo % 2 ^ w

/-- Bit `n` of a number. -/
def bit (v n : Nat) : Bool := v / 2 ^ n % 2 == 1

/-- 1 for true. -/
def b2n (b : Bool) : Nat := if b then 1 else 0

/-- A number with bit `n` set or cleared. -/
def putBit (v n : Nat) (b : Bool) : Nat := v - b2n (bit v n) * 2 ^ n + b2n b * 2 ^ n

/-- The numbers of the bits set among the first `n`. -/
def bitsSet (n v : Nat) : List Nat := (List.range n).filter (bit v)

/-- The two's complement reading of the low `w` bits. -/
def signed (w v : Nat) : Int :=
  let x := v % 2 ^ w
  if x < 2 ^ (w - 1) then x else (x : Int) - (2 : Int) ^ w

/-- The low `w` bits of an integer in two's complement. -/
def unsigned (w : Nat) (x : Int) : Nat := (x % (2 : Int) ^ w).toNat

/-- The bits of `v` where `x`, clipped to the `w`-bit field, replaces them from bit `lo` (fields laid side by side). -/
def field (lo w x : Nat) : Nat := x % 2 ^ w * 2 ^ lo

/-- The number little-endian bytes spell (R6). -/
def leNat : List Byte → Nat
  | [] => 0
  | b :: r => b.toNat + 256 * leNat r

/-- The `n` little-endian bytes of a number (R6). -/
def leBytes : Nat → Nat → List Byte
  | 0, _ => []
  | n + 1, v => BitVec.ofNat 8 v :: leBytes n (v / 256)

/-- `n` bytes of a byte string from an offset, zero beyond its end. -/
def slice (b : List Byte) (off n : Nat) : List Byte :=
  let t := (b.drop off).take n
  t ++ List.replicate (n - t.length) 0

/-- The little-endian number in `n` bytes at an offset. -/
def leAt (b : List Byte) (off n : Nat) : Nat := leNat (slice b off n)

/-- The bytes with `x` laid over them from an offset. -/
def overlay (b : List Byte) (off : Nat) (x : List Byte) : List Byte :=
  slice b 0 off ++ x ++ b.drop (off + x.length)

/-- Rounded-up quotient. -/
def ceilDiv (a b : Nat) : Nat := (a + b - 1) / b

/-! ### Sorting -/

/-- An element put before the first that it does not come after. -/
def insertBy {α : Type} (le : α → α → Bool) (x : α) : List α → List α
  | [] => [x]
  | y :: r => if le x y then x :: y :: r else y :: insertBy le x r

/-- A list in order, equal elements as they stood. -/
def sortBy {α : Type} (le : α → α → Bool) : List α → List α
  | [] => []
  | x :: r => insertBy le x (sortBy le r)

/-! ### Memory: sparse bytes in canonical form -/

/-- The byte at an address; an unlisted address reads 0 (log entry 4). -/
def Memory.read (m : List Host.Cell) (a : Nat) : Byte := Tbl.look 0 m a

/-- The memory with one byte written; writing 0 unlists the address. -/
def Memory.write (m : List Host.Cell) (a : Nat) (b : Byte) : List Host.Cell :=
  if b = 0 then Tbl.drop a m else Tbl.put a b m

/-- The bytes from an address up. -/
def Memory.readList (m : List Host.Cell) (a : Nat) : Nat → List Byte
  | 0 => []
  | n + 1 => Memory.read m a :: Memory.readList m (a + 1) n

/-- The memory with bytes written from an address up. -/
def Memory.writeList (m : List Host.Cell) (a : Nat) : List Byte → List Host.Cell
  | [] => m
  | b :: r => Memory.writeList (Memory.write m a b) (a + 1) r

/-- The canonical form: addresses strictly rising from `lo`, and no byte listed that reads as an unlisted one. -/
def Memory.wfFrom (lo : Nat) : List Host.Cell → Bool
  | [] => true
  | (a, b) :: r => decide (lo ≤ a) && decide (b ≠ 0) && Memory.wfFrom (a + 1) r

/-- The canonical form of a memory. -/
def Memory.wf (m : List Host.Cell) : Bool := Memory.wfFrom 0 m

namespace Machine

/-! ### Free values -/

/-- The next free value, and the state that has drawn it. -/
def State.draw (s : State) : Nat × State := (Config.freeNat s.fresh, { s with fresh := s.fresh + 1 })

/-- The next free value below `n`. -/
def State.drawBelow (s : State) (n : Nat) : Nat × State := (Config.freeNat s.fresh % n, { s with fresh := s.fresh + 1 })

/-- `n` free bytes. -/
def State.drawBytes (s : State) (n : Nat) : List Byte × State :=
  (leBytes n (Config.freeNat s.fresh), { s with fresh := s.fresh + 1 })

/-! ### Units (R5) -/

/-- Core k of cluster c. -/
def State.core (s : State) (c k : Nat) : CoreSt := s.cores.look {} (12 * c + k)

/-- The state with core k of cluster c changed. -/
def State.modCore (s : State) (c k : Nat) (f : CoreSt → CoreSt) : State :=
  { s with cores := s.cores.upd {} (12 * c + k) f }

/-- Cluster c. -/
def State.cluster (s : State) (c : Nat) : Cluster := s.clusters.look {} c

/-- The state with cluster c changed. -/
def State.modCluster (s : State) (c : Nat) (f : Cluster → Cluster) : State :=
  { s with clusters := s.clusters.upd {} c f }

/-- Stack n. -/
def State.stack (s : State) (n : Nat) : Stack := s.stk.look {} n

/-- The state with stack n changed. -/
def State.modStack (s : State) (n : Nat) (f : Stack → Stack) : State := { s with stk := s.stk.upd {} n f }

/-- Channel ch of stack n. -/
def State.chan (s : State) (n ch : Nat) : Channel := (s.stack n).channels.look {} ch

/-- The state with channel ch of stack n changed. -/
def State.modChan (s : State) (n ch : Nat) (f : Channel → Channel) : State :=
  s.modStack n fun x => { x with channels := x.channels.upd {} ch f }

/-- Fabric port f. -/
def State.port (s : State) (f : Nat) : FabPort := s.fab.look {} f

/-- The state with fabric port f changed. -/
def State.modPort (s : State) (f : Nat) (g : FabPort → FabPort) : State := { s with fab := s.fab.upd {} f g }

/-- Flow n of fabric port f. -/
def State.flow (s : State) (f n : Nat) : Flow := (s.port f).flows.look {} n

/-- The state with flow n of fabric port f changed. -/
def State.modFlow (s : State) (f n : Nat) (g : Flow → Flow) : State :=
  s.modPort f fun x => { x with flows := x.flows.upd {} n g }

/-- The serving registers of partition p. -/
def State.psrv (s : State) (p : Nat) : PartSrv := s.srv.parts.look {} p

/-- The state with the serving registers of partition p changed. -/
def State.modPsrv (s : State) (p : Nat) (f : PartSrv → PartSrv) : State :=
  { s with srv := { s.srv with parts := s.srv.parts.upd {} p f } }

/-- The scheduling registers of partition p. -/
def State.psched (s : State) (p : Nat) : PartSched := s.sched.parts.look {} p

/-- The state with the scheduling registers of partition p changed. -/
def State.modPsched (s : State) (p : Nat) (f : PartSched → PartSched) : State :=
  { s with sched := { s.sched with parts := s.sched.parts.upd {} p f } }

/-! ### Presence (R2, R3, R449) -/

/-- Core k of cluster c is present on this part. -/
def State.corePresent (s : State) (c k : Nat) : Bool := decide (c < 16) && decide (k < 12) && bit s.fuses.cores (12 * c + k)

/-- Stack n is present on this part. -/
def State.stackPresent (s : State) (n : Nat) : Bool := decide (n < 12) && bit s.fuses.stk n

/-- Channel ch of stack n is present on this part. -/
def State.chanPresent (s : State) (n ch : Nat) : Bool :=
  s.stackPresent n && decide (ch < 32) && bit (s.fuses.channels.look 0xFFFFFFFF n) ch

/-- Fabric port f is present on this part. -/
def State.portPresent (s : State) (f : Nat) : Bool := decide (f < 8) && bit s.fuses.ports f

/-- The die of a cluster, a stack and a fabric port (R5). -/
def dieOfCluster (c : Nat) : Nat := c / 8
def dieOfStack (n : Nat) : Nat := n / 6
def dieOfPort (f : Nat) : Nat := f / 4

/-! ### What the image in force says -/

/-- The structure in force, if a full image has been accepted. -/
def State.image (s : State) : Option Image := s.gram.image

/-- The record of partition p. -/
def Image.part (i : Image) (p : Nat) : Option PartRec := i.parts.find? (·.pid == p)

/-- Partition p is defined by the structure in force. -/
def State.defined (s : State) (p : Nat) : Bool :=
  match s.gram.image with
  | none => false
  | some i => (i.part p).isSome

/-- RINGS of R51; 1 before an image. -/
def State.rings (s : State) : Nat :=
  match s.gram.image with
  | none => 1
  | some i => i.rings

/-! ### Event records (R350 to R352) -/

/-- Who observes a happening: its SOURCE and ISLAND fields of R350. -/
structure Obs where
  source : Nat
  island : Nat
  deriving DecidableEq, Repr

/-- A block without a station: the management-window offset ÷ 0x1_0000 with bits 15 to 13 set (R350). -/
def blockSource (window : Nat) : Nat := 0xE000 + window / 0x10000

/-- ISLAND: kind in the order of R21, and number (R350). -/
def islandField (kind n : Nat) : Nat := 4096 * kind + n

/-- Station of core k of cluster c, port 0 (R64). -/
def coreStation (c k : Nat) : Nat := c * 1024 + k * 64

/-- Station of the bank-side unit ch of stack n, port 0 (R64). -/
def unitStation (n ch : Nat) : Nat := 0x4000 + n * 1024 + ch * 32

def Obs.ofCore (c k : Nat) : Obs := ⟨coreStation c k, islandField 0 (12 * c + k)⟩
def Obs.ofCluster (c : Nat) : Obs := ⟨coreStation c 12, islandField 1 c⟩
def Obs.ofStack (n : Nat) : Obs := ⟨blockSource (0x400000 + n * 0x20000), islandField 4 n⟩
def Obs.ofUnit (n ch : Nat) : Obs := ⟨unitStation n ch, islandField 4 n⟩
def Obs.ofFlow (f n : Nat) : Obs := ⟨0x8000 + f * 1024 + n, islandField 7 f⟩
def Obs.ofPort (f : Nat) : Obs := ⟨blockSource (0x100000 + f * 0x10000), islandField 7 f⟩
def Obs.ofSrv : Obs := ⟨0xC000, islandField 5 0⟩
def Obs.ofXl : Obs := ⟨blockSource 0x70000, islandField 6 0⟩
/-- The management processor's station, for the MGMT block. -/
def Obs.ofMgmt : Obs := ⟨0xC100, islandField 8 0⟩
def Obs.ofGram : Obs := ⟨blockSource 0x10000, islandField 8 0⟩
def Obs.ofPwr : Obs := ⟨blockSource 0x20000, islandField 8 0⟩
def Obs.ofThm : Obs := ⟨blockSource 0x30000, islandField 8 0⟩
def Obs.ofSec : Obs := ⟨blockSource 0x40000, islandField 8 0⟩
def Obs.ofSched : Obs := ⟨blockSource 0x60000, islandField 8 0⟩

/-- Event ring r. -/
def State.ring (s : State) (r : Nat) : Ring := s.mgmt.rings.look {} r

/-- The state with event ring r changed. -/
def State.modRing (s : State) (r : Nat) (f : Ring → Ring) : State :=
  { s with mgmt := { s.mgmt with rings := s.mgmt.rings.upd {} r f } }

/-- Interrupt vector v. -/
def State.vec (s : State) (v : Nat) : Vec := s.mgmt.vecs.look {} v

/-- The state with interrupt vector v changed. -/
def State.modVec (s : State) (v : Nat) (f : Vec → Vec) : State :=
  { s with mgmt := { s.mgmt with vecs := s.mgmt.vecs.upd {} v f } }

/-- The ring a record of partition `pid` goes to (R349). -/
def State.ringOf (s : State) (pid : Nat) : Nat :=
  if pid < 16 && decide (pid < s.rings) && (s.ring pid).enable then pid else 0

/-- The next sequence number, taken (R25). -/
def State.takeSeq (s : State) : Nat × State :=
  (s.mgmt.evSeq, { s with mgmt := { s.mgmt with evSeq := (s.mgmt.evSeq + 1) % 2 ^ 32 } })

/-! ### Island-local counts (R24, R377) -/

/-- The power domain an island belongs to, by its ISLAND field; none for those no switched domain holds: the base dies, the
serving controller and the management complex (R21, R43). Of the eighteen network segments, nine to a die. -/
def islandDomain (island : Nat) : Option Nat :=
  let n := island % 4096
  match island / 4096 with
  | 0 => some (n / 12)
  | 1 => some (16 + n)
  | 2 => some (64 + n / 9)
  | 3 => some (32 + n)
  | 6 => some 66
  | 7 => some (56 + n)
  | _ => none

/-- The counts of a domain's islands start at zero when it comes up and are lost when it goes off (R24). -/
def State.restartCounts (s : State) (d : Nat) : State :=
  { s with counts := s.counts.filter fun x => islandDomain x.1 != some d,
           clockHeld := s.clockHeld.filter fun i => islandDomain i != some d }

/-- The clock of a core's island is held while the core is QUIESCENT or OFFLINE (R377). -/
def State.coreAtRest (s : State) (island : Nat) : Bool :=
  island / 4096 == 0 &&
    match (s.cores.look {} island).run with
    | .quiescent => true
    | .offline => true
    | _ => false

/-- The clock of a core's island runs again, before a START's first verb is placed (R377). -/
def State.clockRuns (s : State) (c k : Nat) : State := { s with clockHeld := s.clockHeld.erase (islandField 0 (12 * c + k)) }

/-- The island's count as a record takes it (R25): never lower than the island's last record since its domain came up, by a free
number of cycles, none while the island's clock is held (log entry 3). The manual gives at most 1 µs from a core's coming to rest
to the hold, so whether a record of a core at rest already meets the hold is free. -/
def State.islandCount (s : State) (island : Nat) : Nat × State :=
  let old := s.counts.look 0 island
  if s.clockHeld.contains island then (old, s)
  else
    let (d, s) := s.drawBelow (2 ^ 64 - old)
    let (held, s) := if s.coreAtRest island then s.drawBelow 2 else (0, s)
    (old + d, { s with counts := s.counts.put island (old + d),
                       clockHeld := if held = 1 then island :: s.clockHeld else s.clockHeld })

/-- A happening is recorded: accepted into the store with the next sequence number and its island's count, or dropped at a full
store (R352). -/
def State.event (s : State) (cls : Nat) (code : Status) (o : Obs) (pid d0 d1 : Nat) : State :=
  let r := s.ringOf pid
  if s.mgmt.store.length < 256 then
    let (count, s) := s.islandCount o.island
    let e : Event := { cls := cls, code := code, source := o.source, pid := pid, ring := r, island := o.island,
                       count := count, seq := s.mgmt.evSeq, detail0 := d0 % 2 ^ 32, detail1 := d1 % 2 ^ 64 }
    { s with mgmt := { s.mgmt with evSeq := (s.mgmt.evSeq + 1) % 2 ^ 32, store := s.mgmt.store ++ [e] } }
  else
    s.modRing r fun x => { x with dropped := (x.dropped + 1) % 2 ^ 32, lost := true }

/-- Something leaves the device towards another party. -/
def State.emit (s : State) (o : Out) : State := { s with out := s.out ++ [o] }

/-- One edge of the serving tick's clock: the tick rises by one where it runs (R26; log entry 5). -/
def State.idle (s : State) : State :=
  if s.srv.ticking then { s with srv := { s.srv with tick := (s.srv.tick + 1) % 2 ^ 64 } } else s

/-! ### Power domains (R43, R378) -/

/-- A domain is on. -/
def State.domainReady (s : State) (d : Nat) : Bool := bit s.pwr.domOn d

/-- Work addresses a domain that is off: it is to be switched on (R378). -/
def State.wakeDomain (s : State) (d : Nat) : State :=
  if s.domainReady d then s else { s with pwr := { s.pwr with waking := putBit s.pwr.waking d true } }

/-- A domain has failed to come on and the work that waited for it has not faulted yet (R378). -/
def State.domainFailed (s : State) (d : Nat) : Bool := bit s.pwr.domFailed d

/-- The work that waited for a failed domain faults. -/
def State.domainTold (s : State) (d : Nat) : State := { s with pwr := { s.pwr with domFailed := putBit s.pwr.domFailed d false } }

/-! ### Recorded register accesses (R7, R9, R449) -/

/-- MGMT_ERR and MGMT_ERRCNT take a recorded access. -/
def State.recordAccess (s : State) (st : Status) (offset : Nat) : State :=
  { s with mgmt := { s.mgmt with errStatus := st, errOffset := offset % 2 ^ 24,
                                 errCount := (s.mgmt.errCount + 1) % 2 ^ 32 } }

end Machine

end Sys2Proof
end

