-- ==== Sys2Proof/Machine/Codeword.lean ====
section
/-!
DEFINITION. The stored-data code of R245 to R247, decoded on the deviation of a stored word from its codeword, and
the check value of R263. The code is linear, so a word's syndrome is that of its deviation (log entry 8).
-/

namespace Sys2Proof.Machine

/-! ### GF(2^8) on x^8 + x^4 + x^3 + x^2 + 1 -/

/-- Multiplication by α. -/
def gfTimesAlpha (a : Nat) : Nat := if a < 128 then 2 * a else (2 * a) ^^^ 0x11D

/-- The product of two field elements. -/
def gfMul (a b : Nat) : Nat :=
  [7, 6, 5, 4, 3, 2, 1, 0].foldl (fun acc i => gfTimesAlpha acc ^^^ (if bit b i then a else 0)) 0

/-- α^n. -/
def gfAlpha : Nat → Nat
  | 0 => 1
  | n + 1 => gfTimesAlpha (gfAlpha n)

/-- The inverse of a non-zero element: a^254 = a^2 · a^4 · … · a^128. -/
def gfInv (a : Nat) : Nat :=
  let a2 := gfMul a a
  let a4 := gfMul a2 a2
  let a8 := gfMul a4 a4
  let a16 := gfMul a8 a8
  let a32 := gfMul a16 a16
  let a64 := gfMul a32 a32
  let a128 := gfMul a64 a64
  gfMul a2 (gfMul a4 (gfMul a8 (gfMul a16 (gfMul a32 (gfMul a64 a128)))))

/-- A polynomial, lowest coefficient first, at a point. -/
def polyEval (p : List Nat) (x : Nat) : Nat := p.foldr (fun c acc => c ^^^ gfMul x acc) 0

/-- A polynomial times (x − r). -/
def polyTimesRoot (p : List Nat) (r : Nat) : List Nat :=
  List.zipWith (· ^^^ ·) (0 :: p) (p.map (gfMul r) ++ [0])

/-- The monic polynomial with the given roots, lowest coefficient first. -/
def polyOfRoots (rs : List Nat) : List Nat := rs.foldl polyTimesRoot [1]

/-- The sum of products of coefficients and syndromes. -/
def dotProduct (c s : List Nat) : Nat := (List.zipWith gfMul c s).foldl (· ^^^ ·) 0

/-! ### The decoder -/

/-- The locator of symbol j, the coefficient of x^(71 − j) (R245). -/
def locator (j : Nat) : Nat := gfAlpha (71 - j)

/-- A deviation: symbols that differ from the codeword, each with the value XORed in. -/
abbrev Deviation := List (Nat × Nat)

/-- The eight syndromes of a deviation. -/
def syndrome (d : Deviation) : List Nat :=
  (List.range 8).map fun i =>
    d.foldl (fun acc (j, v) => acc ^^^ gfMul v (gfAlpha (i * (71 - j) % 255))) 0

/-- The poison constant P in symbols 64 to 71 (R247). -/
def poisonDeviation : Deviation :=
  [(64, 0x50), (65, 0x4F), (66, 0x49), (67, 0x53), (68, 0x4F), (69, 0x4E), (70, 0x45), (71, 0x44)]

/-- Two deviations laid over one another. -/
def Deviation.xor (a b : Deviation) : Deviation :=
  ((List.range 72).map fun j => (j, (Tbl.look 0 a j) ^^^ (Tbl.look 0 b j))).filter (·.2 != 0)

/-- The value at symbol j of an error whose symbols are j and `others`, from the syndromes. -/
def errorValue (s : List Nat) (j : Nat) (others : List Nat) : Nat :=
  let p := polyOfRoots (others.map locator)
  gfMul (dotProduct p s) (gfInv (polyEval p (locator j)))

/-- The symbols outside the erased ones that up to two errors lie in, from the modified syndromes `t`. -/
def errorSymbols (erased t : List Nat) : Option (List Nat) :=
  let cand := (List.range 72).filter fun j => !erased.contains j
  let g (i : Nat) : Nat := t.getD i 0
  if t.all (· == 0) then some []
  else
    match cand.find? (fun j => (List.range (t.length - 1)).all fun i => g (i + 1) == gfMul (locator j) (g i)) with
    | some j => some [j]
    | none =>
      let det := gfMul (g 1) (g 1) ^^^ gfMul (g 0) (g 2)
      if det = 0 then none
      else
        let inv := gfInv det
        let s1 := gfMul (gfMul (g 1) (g 2) ^^^ gfMul (g 0) (g 3)) inv
        let s2 := gfMul (gfMul (g 2) (g 2) ^^^ gfMul (g 1) (g 3)) inv
        let roots := cand.filter fun j => polyEval [s2, s1, 1] (locator j) == 0
        if roots.length = 2 then some roots else none

/-- The correction a syndrome calls for in the channel's mode: up to two symbols, beside the four of the erased
position where there is one (R246). -/
def correction (erasure : Option Nat) (s : List Nat) : Option Deviation :=
  let erased := match erasure with
    | none => []
    | some q => [4 * q, 4 * q + 1, 4 * q + 2, 4 * q + 3]
  let p := polyOfRoots (erased.map locator)
  let t := (List.range (8 - erased.length)).map fun i => dotProduct p (s.drop i)
  match errorSymbols erased t with
  | none => none
  | some f =>
    let all := erased ++ f
    let c : Deviation := (all.map fun j => (j, errorValue s j (all.filter (· != j)))).filter (·.2 != 0)
    if syndrome c == s then some c else none

/-- Symbol j of the codeword of 64 data bytes: a data byte, or the check byte that makes every syndrome zero (R245). -/
def codeSymbol (data : List Byte) (j : Nat) : Nat :=
  if j < 64 then (data.getD j 0).toNat
  else
    errorValue (syndrome ((List.range 64).map fun i => (i, (data.getD i 0).toNat))) j
      ([64, 65, 66, 67, 68, 69, 70, 71].filter (· != j))

/-- What a read decodes to (R247). -/
inductive Decoded where
  /-- a codeword, differing from the stored one by the deviation -/
  | clean (off : Deviation)
  /-- corrected: what still differs from the codeword stored, and the symbols corrected -/
  | corrected (off : Deviation) (symbols : List Nat)
  | poisoned
  | uncorrectable
  deriving DecidableEq, Repr

/-- The decoder's classification of a word with the given deviation (R247). -/
def decodeWord (erasure : Option Nat) (d : Deviation) : Decoded :=
  let s := syndrome d
  let sp := syndrome poisonDeviation
  if s.all (· == 0) then .clean d
  else if s == sp then .poisoned
  else
    match correction erasure s with
    | some c => .corrected (Deviation.xor d c) (c.map (·.1))
    | none =>
      match correction erasure (List.zipWith (· ^^^ ·) s sp) with
      | some _ => .poisoned
      | none => .uncorrectable

/-- Data bytes with the data part of a deviation laid over them. -/
def applyDeviation (off : Deviation) (data : List Byte) : List Byte :=
  if off.isEmpty then data
  else (List.range data.length).map fun j => data.getD j 0 ^^^ BitVec.ofNat 8 (Tbl.look 0 off j)

/-! ### Check values (R263) -/

/-- The low `w` bits reversed. -/
def reverseBits (w v : Nat) : Nat := (List.range w).foldl (fun acc i => 2 * acc + b2n (bit v i)) 0

/-- One bit of a message into the register. -/
def cvBit (c : CvConfig) (reg : Nat) (b : Bool) : Nat :=
  let top := bit reg (c.width - 1) != b
  let r := 2 * reg % 2 ^ c.width
  if top then r ^^^ c.poly else r

/-- One byte of a message into the register. -/
def cvByte (c : CvConfig) (reg : Nat) (b : Byte) : Nat :=
  let v := if c.reflectIn then reverseBits 8 b.toNat else b.toNat
  [7, 6, 5, 4, 3, 2, 1, 0].foldl (fun r k => cvBit c r (bit v k)) reg

/-- The check value of a message. -/
def checkValue (c : CvConfig) (msg : List Byte) : Nat :=
  let reg := msg.foldl (cvByte c) c.init
  let out := if c.reflectOut then reverseBits c.width reg else reg
  out ^^^ c.xorout

/-- CRC-32 with the IEEE 802.3 polynomial, its configuration the one R266 lists (R193). -/
def crc32 (msg : List Byte) : Nat := checkValue { poly := 0x04C11DB7 } msg

end Sys2Proof.Machine
end

