-- ==== Sys2Proof/Machine/Numerics.lean ====
section
/-!
DEFINITION. The element formats of R72 and the arithmetic on them: exact values, one rounding into a format
(R120, R127, R137), and the choices of order and of last bits that the manual leaves open (R128, R140).
-/

namespace Sys2Proof.Machine

/-! ### Formats (R72) -/

/-- Bits of an element of a format code; 0 for a reserved code. -/
def fmtBits : Nat → Nat
  | 0x01 => 8 | 0x02 => 8 | 0x03 => 8 | 0x04 => 8 | 0x05 => 6 | 0x06 => 6 | 0x07 => 4 | 0x08 => 4
  | 0x09 => 8 | 0x0A => 16 | 0x0B => 16 | 0x0C => 32 | 0x0D => 64 | 0x0E => 32 | 0x0F => 32 | 0x10 => 8
  | _ => 0

abbrev fmtE4M3 : Nat := 0x01
abbrev fmtE5M2 : Nat := 0x02
abbrev fmtINT4 : Nat := 0x08
abbrev fmtINT8 : Nat := 0x09
abbrev fmtBF16 : Nat := 0x0A
abbrev fmtFP16 : Nat := 0x0B
abbrev fmtFP32 : Nat := 0x0C
abbrev fmtFP64 : Nat := 0x0D
abbrev fmtINT32 : Nat := 0x0E
abbrev fmtUINT32 : Nat := 0x0F
abbrev fmtE8M0 : Nat := 0x10

/-- MX element formats. -/
def fmtIsMx (f : Nat) : Bool := decide (3 ≤ f) && decide (f ≤ 7)

/-- Integer formats. -/
def fmtIsInt (f : Nat) : Bool := f == fmtINT4 || f == fmtINT8 || f == fmtINT32 || f == fmtUINT32

/-- 6-bit formats. -/
def fmtIs6 (f : Nat) : Bool := f == 5 || f == 6

/-- How a binary floating-point format spends its top exponent. -/
inductive TopExp where
  /-- infinities and NaNs as IEEE 754 -/
  | ieee
  /-- one NaN per sign, all ones; no infinity -/
  | oneNan
  /-- finite values only -/
  | finite
  deriving DecidableEq, Repr

/-- A binary floating-point format: exponent bits, fraction bits, top exponent (R119). -/
structure FloatFmt where
  eb : Nat
  mb : Nat
  top : TopExp
  deriving DecidableEq, Repr

/-- The floating-point layout of a format code. -/
def floatFmt : Nat → FloatFmt
  | 0x01 => ⟨4, 3, .oneNan⟩
  | 0x02 => ⟨5, 2, .ieee⟩
  | 0x03 => ⟨4, 3, .oneNan⟩
  | 0x04 => ⟨5, 2, .ieee⟩
  | 0x05 => ⟨3, 2, .finite⟩
  | 0x06 => ⟨2, 3, .finite⟩
  | 0x07 => ⟨2, 1, .finite⟩
  | 0x0A => ⟨8, 7, .ieee⟩
  | 0x0B => ⟨5, 10, .ieee⟩
  | 0x0D => ⟨11, 52, .ieee⟩
  | _ => ⟨8, 23, .ieee⟩

/-- The exponent bias. -/
def FloatFmt.bias (f : FloatFmt) : Nat := 2 ^ (f.eb - 1) - 1

/-- The magnitude bits of the largest finite value. -/
def FloatFmt.maxBits (f : FloatFmt) : Nat :=
  match f.top with
  | .ieee => (2 ^ f.eb - 1) * 2 ^ f.mb - 1
  | .oneNan => 2 ^ (f.eb + f.mb) - 2
  | .finite => 2 ^ (f.eb + f.mb) - 1

/-- The canonical quiet NaN of R122; a format without NaN has none, and 0 stands there. -/
def FloatFmt.nanBits (f : FloatFmt) : Nat :=
  match f.top with
  | .ieee => (2 ^ f.eb - 1) * 2 ^ f.mb + 2 ^ (f.mb - 1)
  | .oneNan => 2 ^ (f.eb + f.mb) - 1
  | .finite => 0

/-! ### Exact values -/

/-- A value: NaN, an infinity, or ± m · 2^e, with signed zeros. -/
inductive Num where
  | nan
  | inf (neg : Bool)
  | fin (neg : Bool) (m : Nat) (e : Int)
  deriving DecidableEq, Repr

/-- The value of an integer. -/
def Num.ofInt (x : Int) : Num := .fin (decide (x < 0)) x.natAbs 0

def Num.isNan : Num → Bool
  | .nan => true
  | _ => false

def Num.isInf : Num → Bool
  | .inf _ => true
  | _ => false

def Num.isZero : Num → Bool
  | .fin _ 0 _ => true
  | _ => false

/-- The value a bit pattern of a floating-point format has. -/
def FloatFmt.value (f : FloatFmt) (raw : Nat) : Num :=
  let neg := bit raw (f.eb + f.mb)
  let ex := bits raw f.mb f.eb
  let fr := bits raw 0 f.mb
  let e : Int := (ex : Int) - f.bias - f.mb
  let normal := Num.fin neg (2 ^ f.mb + fr) e
  if ex = 0 then .fin neg fr (e + 1)
  else if ex = 2 ^ f.eb - 1 then
    match f.top with
    | .ieee => if fr = 0 then .inf neg else .nan
    | .oneNan => if fr = 2 ^ f.mb - 1 then .nan else normal
    | .finite => normal
  else normal

/-- The value an element of a format code has. E8M0 gives its power of two, 0xFF being NaN (R121). -/
def valueOf (fmt raw : Nat) : Num :=
  if fmt = fmtINT4 then .ofInt (signed 4 raw)
  else if fmt = fmtINT8 then .ofInt (signed 8 raw)
  else if fmt = fmtINT32 then .ofInt (signed 32 raw)
  else if fmt = fmtUINT32 then .ofInt (raw % 2 ^ 32 : Nat)
  else if fmt = fmtE8M0 then (if raw % 256 = 255 then .nan else .fin false 1 ((raw % 256 : Nat) - 127))
  else (floatFmt fmt).value raw

def Num.neg : Num → Num
  | .nan => .nan
  | .inf s => .inf (!s)
  | .fin s m e => .fin (!s) m e

def Num.abs : Num → Num
  | .nan => .nan
  | .inf _ => .inf false
  | .fin _ m e => .fin false m e

/-- The sign a value carries. -/
def Num.sign : Num → Bool
  | .nan => false
  | .inf s => s
  | .fin s _ _ => s

/-- The integer ± m · 2^(e − q) of a finite value, for q at most e. -/
def scaledTo (q : Int) (s : Bool) (m : Nat) (e : Int) : Int :=
  let x : Int := (m * 2 ^ (e - q).toNat : Nat)
  if s then -x else x

/-- The exact sum (R122); an exact zero is +0 unless both are negative. -/
def Num.add (a b : Num) : Num :=
  match a, b with
  | .nan, _ => .nan
  | _, .nan => .nan
  | .inf s, .inf t => if s = t then .inf s else .nan
  | .inf s, _ => .inf s
  | _, .inf t => .inf t
  | .fin s m e, .fin t n g =>
    let q := min e g
    let x := scaledTo q s m e + scaledTo q t n g
    if x = 0 then .fin (s && t) 0 q else .fin (decide (x < 0)) x.natAbs q

def Num.sub (a b : Num) : Num := a.add b.neg

/-- The exact sum of a list; of none, +0. -/
def Num.sum : List Num → Num
  | [] => .fin false 0 0
  | x :: r => r.foldl Num.add x

/-- The exact product (R122). -/
def Num.mul (a b : Num) : Num :=
  match a, b with
  | .nan, _ => .nan
  | _, .nan => .nan
  | .inf s, .inf t => .inf (s != t)
  | .inf s, .fin t n _ => if n = 0 then .nan else .inf (s != t)
  | .fin s m _, .inf t => if m = 0 then .nan else .inf (s != t)
  | .fin s m e, .fin t n g => .fin (s != t) (m * n) (e + g)

/-- Bits of a number's length. -/
def bitLength (n : Nat) : Nat := if n = 0 then 0 else Nat.log2 n + 1

/-- The quotient, to at least 80 significant bits with a sticky last bit, which every rounding here sees as exact. -/
def Num.div (a b : Num) : Num :=
  match a, b with
  | .nan, _ => .nan
  | _, .nan => .nan
  | .inf _, .inf _ => .nan
  | .inf s, .fin t _ _ => .inf (s != t)
  | .fin s _ _, .inf t => .fin (s != t) 0 0
  | .fin s m e, .fin t n g =>
    if n = 0 then (if m = 0 then .nan else .inf (s != t))
    else if m = 0 then .fin (s != t) 0 0
    else
      let k := 80 + bitLength n
      let q := m * 2 ^ k / n
      let r := m * 2 ^ k % n
      .fin (s != t) (2 * q + b2n (r != 0)) (e - g - k - 1)

/-- The integer square root, bit by bit from bit `n` down. -/
def isqrt : Nat → Nat → Nat → Nat
  | 0, acc, _ => acc
  | n + 1, acc, x =>
    let t := acc + 2 ^ n
    if t * t ≤ x then isqrt n t x else isqrt n acc x

/-- The square root with a sticky last bit (R140: √−0 = −0). -/
def Num.sqrt : Num → Num
  | .nan => .nan
  | .inf s => if s then .nan else .inf false
  | .fin s m e =>
    if m = 0 then .fin s 0 e
    else if s then .nan
    else
      let odd : Bool := e % 2 != 0
      let m' := if odd then 2 * m else m
      let e' : Int := if odd then e - 1 else e
      let x := m' * 2 ^ 160
      let q := isqrt (bitLength x / 2 + 1) 0 x
      .fin false (2 * q + b2n (q * q != x)) (e' / 2 - 81)

/-- The order of two values that are not NaN. -/
def Num.lt (a b : Num) : Bool :=
  match a, b with
  | .nan, _ => false
  | _, .nan => false
  | .inf s, .inf t => s && !t
  | .inf s, _ => s
  | _, .inf t => !t
  | .fin s m e, .fin t n g => decide (scaledTo (min e g) s m e < scaledTo (min e g) t n g)

/-- Equal as numbers. -/
def Num.eqv (a b : Num) : Bool := !a.isNan && !b.isNan && !a.lt b && !b.lt a

/-! ### Rounding into a format -/

/-- How a value is rounded into a format: nearest even, toward zero, nearest even saturating (R127). -/
inductive Rnd where
  | ne
  | tz
  | sat
  deriving DecidableEq, Repr

/-- m · 2^−d rounded to an integer. -/
def roundShift (rnd : Rnd) (m d : Nat) : Nat :=
  let q := m / 2 ^ d
  let r := m % 2 ^ d
  match rnd with
  | .tz => q
  | _ => if 2 * r > 2 ^ d || (2 * r == 2 ^ d && q % 2 == 1) then q + 1 else q

/-- What rounding gives: the bits, and whether an overflow or an infinity was replaced by the largest finite value. -/
structure Rounded where
  raw : Nat
  clipped : Bool := false
  deriving DecidableEq, Repr

/-- The magnitude bits of a finite value rounded as if the exponent had no upper end. -/
def FloatFmt.magnitude (f : FloatFmt) (rnd : Rnd) (m : Nat) (e : Int) : Nat :=
  if m = 0 then 0
  else
    let emin : Int := 1 - f.bias - f.mb
    let q := max (e + bitLength m - 1 - f.mb) emin
    let x := if e ≥ q then m * 2 ^ (e - q).toNat else roundShift rnd m (q - e).toNat
    -- x in [0, 2^(mb + 1)]; the carry into the next binade falls out of the sum below
    (q - emin).toNat * 2 ^ f.mb + x

/-- A value rounded into a floating-point format. -/
def FloatFmt.round (f : FloatFmt) (rnd : Rnd) (x : Num) : Rounded :=
  let s (neg : Bool) : Nat := b2n neg * 2 ^ (f.eb + f.mb)
  let largest (neg : Bool) : Rounded := ⟨s neg + f.maxBits, true⟩
  let infinity (neg : Bool) : Rounded :=
    match f.top with
    | .ieee => ⟨s neg + (2 ^ f.eb - 1) * 2 ^ f.mb, false⟩
    | .oneNan => ⟨f.nanBits, false⟩
    | .finite => largest neg
  match x with
  | .nan => ⟨f.nanBits, false⟩
  | .inf neg => if f.top = .ieee || rnd = .ne then infinity neg else largest neg
  | .fin neg m e =>
    let mag := f.magnitude rnd m e
    if mag ≤ f.maxBits then ⟨s neg + mag, false⟩
    else if rnd = .ne then infinity neg
    else largest neg

/-- An integer saturated into a range. -/
def clampInt (lo hi x : Int) : Int := if x < lo then lo else if hi < x then hi else x

/-- The range of an integer format. -/
def intRange (fmt : Nat) : Int × Int :=
  if fmt = fmtINT4 then (-8, 7)
  else if fmt = fmtINT8 then (-128, 127)
  else if fmt = fmtINT32 then (-(2 ^ 31), 2 ^ 31 - 1)
  else (0, 2 ^ 32 - 1)

/-- A value rounded to nearest even and saturated into an integer format; NaN gives 0 (R137). -/
def roundToInt (fmt : Nat) (x : Num) : Rounded :=
  let (lo, hi) := intRange fmt
  let put (v : Int) (c : Bool) : Rounded := ⟨unsigned (fmtBits fmt) v, c⟩
  match x with
  | .nan => put 0 false
  | .inf neg => put (if neg then lo else hi) true
  | .fin neg m e =>
    let a : Int := if e ≥ 0 then (m * 2 ^ e.toNat : Nat) else (roundShift .ne m (-e).toNat : Nat)
    let v := if neg then -a else a
    put (clampInt lo hi v) (decide (v < lo) || decide (hi < v))

/-- A value rounded once into a format. -/
def roundInto (fmt : Nat) (rnd : Rnd) (x : Num) : Rounded :=
  if fmtIsInt fmt then roundToInt fmt x else (floatFmt fmt).round rnd x

/-- A value rounded to nearest even and read back. -/
def roundTo (fmt : Nat) (x : Num) : Num := valueOf fmt (roundInto fmt .ne x).raw

/-- FP32 and FP64 sums and products of bit patterns, rounded to nearest even. -/
def fpAdd (fmt a b : Nat) : Nat := (roundInto fmt .ne ((valueOf fmt a).add (valueOf fmt b))).raw
def fpMul (fmt a b : Nat) : Nat := (roundInto fmt .ne ((valueOf fmt a).mul (valueOf fmt b))).raw

/-- The canonical NaN, the infinities and the extreme finite values of a format, as R160 uses them. -/
def padRaw (fmt padval : Nat) : Option Nat :=
  let f := floatFmt fmt
  let sgn := 2 ^ (f.eb + f.mb)
  if padval = 0 then some 0
  else if fmt = fmtINT4 || fmt = fmtINT8 || fmt = fmtINT32 then
    let w := fmtBits fmt
    match padval with
    | 1 => some (2 ^ (w - 1))
    | 2 => some (2 ^ (w - 1) - 1)
    | 3 => some (2 ^ (w - 1))
    | _ => none
  else if fmt = fmtUINT32 then
    match padval with
    | 1 => some 0
    | 2 => some (2 ^ 32 - 1)
    | 3 => some 0
    | _ => none
  else if fmt = fmtE4M3 then
    match padval with
    | 1 => some (sgn + f.maxBits)
    | 2 => some f.maxBits
    | 3 => some (sgn + f.maxBits)
    | 4 => some f.nanBits
    | _ => none
  else if fmtIsMx fmt || fmt = fmtE8M0 then none
  else
    match padval with
    | 1 => some (sgn + (2 ^ f.eb - 1) * 2 ^ f.mb)
    | 2 => some ((2 ^ f.eb - 1) * 2 ^ f.mb)
    | 3 => some (sgn + f.maxBits)
    | 4 => some f.nanBits
    | _ => none

/-! ### What the manual leaves open in arithmetic -/

/-- The values combined two at a time in an order of the free values' choosing (R128, R142, R219): `n` steps. -/
def State.combineAny {α : Type} (f : α → α → α) (d : α) : Nat → List α → State → α × State
  | 0, xs, s => (xs.headD d, s)
  | n + 1, xs, s =>
    match xs with
    | [] => (d, s)
    | [x] => (x, s)
    | _ :: _ :: _ =>
      let (i, s) := s.drawBelow xs.length
      let x := xs.getD i d
      let rest := xs.eraseIdx i
      let (j, s) := s.drawBelow rest.length
      State.combineAny f d n (f x (rest.getD j d) :: rest.eraseIdx j) s

/-- The sum in a lane format, in an unspecified order. -/
def State.sumAny (s : State) (fmt : Nat) (xs : List Num) : Num × State :=
  State.combineAny (fun a b => roundTo fmt (a.add b)) (.fin false 0 0) xs.length xs s

/-- A list in an order of the free values' choosing: `n` steps. -/
def State.shuffle {α : Type} : Nat → List α → State → List α × State
  | 0, xs, s => (xs, s)
  | n + 1, xs, s =>
    let (i, s) := s.drawBelow xs.length
    match xs.drop i with
    | [] => ([], s)
    | x :: _ =>
      let (r, s) := State.shuffle n (xs.eraseIdx i) s
      (x :: r, s)

end Sys2Proof.Machine
end

