-- ==== Sys2Proof/Machine/Operands.lean ====
section
/-!
DEFINITION. Operand forms: the noun descriptor, its checks, the places of its elements in every layout, and the verb
word with its operand fields (R71 to R75, R87 to R90, R150 to R162).
-/

namespace Sys2Proof.Machine

/-! ### The noun descriptor (R71) -/

/-- A noun entry's 64 bytes read field by field. -/
def parseNoun (b : List Byte) : Noun :=
  let u8 (o : Nat) := leAt b o 1
  let fl := u8 0x0D
  { base := leAt b 0 8, format := u8 8, rank := u8 9, layout := u8 10, compress := u8 11, scope := u8 12,
    valid := bit fl 0, material := bit fl 1, readonly := bit fl 2, space := bits fl 3 2, flagsReserved := bits fl 5 3,
    padval := u8 14, planes := u8 15,
    extents := (List.range 6).map fun k => leAt b (0x10 + 3 * k) 3,
    pads := (List.range 6).map fun k => u8 (0x22 + k),
    strides := (List.range 6).map fun k => signed 32 (leAt b (0x28 + 4 * k) 4) }

/-- Extent, stride and pad counts of dimension d. -/
def Noun.ext (n : Noun) (d : Nat) : Nat := n.extents.getD d 0
def Noun.str (n : Noun) (d : Nat) : Int := n.strides.getD d 0
def Noun.lo (n : Noun) (d : Nat) : Nat := if d < 3 then n.pads.getD (2 * d) 0 else 0
def Noun.hi (n : Noun) (d : Nat) : Nat := if d < 3 then n.pads.getD (2 * d + 1) 0 else 0

/-- The padded extent of dimension d; 1 at or above RANK. -/
def Noun.padded (n : Noun) (d : Nat) : Nat := if d < n.rank then n.lo d + n.ext d + n.hi d else 1

/-- The padded extents, dimension 0 first. -/
def Noun.shape (n : Noun) : List Nat := (List.range n.rank).map n.padded

/-- The extents, dimension 0 first. -/
def Noun.exts (n : Noun) : List Nat := (List.range n.rank).map n.ext

/-- Any pad count is not zero. -/
def Noun.hasPad (n : Noun) : Bool := n.pads.any (· != 0)

/-- Element width in bits. -/
def Noun.w (n : Noun) : Nat := fmtBits n.format

/-- The number of elements, pads left out. -/
def Noun.count (n : Noun) : Nat := n.exts.foldl (· * ·) 1

/-- A noun as a verb uses it: the descriptor and the offsets of R90, by dimension. -/
structure View where
  noun : Noun
  offs : List Int := []
  deriving DecidableEq, Repr

/-- The offset along dimension d. -/
def View.off (v : View) (d : Nat) : Int := v.offs.getD d 0

/-! ### Index spaces -/

/-- Every index of a shape, dimension 0 fastest. -/
def indices : List Nat → List (List Int)
  | [] => [[]]
  | e :: r => (indices r).flatMap fun t => (List.range e).map fun (i : Nat) => Int.ofNat i :: t

/-- Every logical index of a noun, pads left out, dimension 0 fastest. -/
def Noun.logical (n : Noun) : List (List Int) := indices n.exts

/-- Every logical index of the padded index space, dimension 0 fastest. -/
def Noun.paddedIndices (n : Noun) : List (List Int) :=
  (indices n.shape).map fun p => (List.range n.rank).map fun d => p.getD d 0 - n.lo d

/-- An index lies at a pad position. -/
def Noun.isPad (n : Noun) (i : List Int) : Bool :=
  (List.range n.rank).any fun d => decide (i.getD d 0 < 0) || decide (i.getD d 0 ≥ n.ext d)

/-! ### Places of elements (R73, R152 to R156) -/

/-- Tile side of layouts 1 and 2. -/
def tileSide (layout : Nat) : Nat := if layout = 1 then 32 else 16

/-- LAYOUT 3: lanes of a 4-bit format hold two elements. -/
def Noun.lanePair (n : Noun) : Nat := if n.w = 4 then 2 else 1
/-- LAYOUT 3: block width, blocks and rows of the descriptor (R154). -/
def Noun.blockWidth (n : Noun) : Nat := 32 * n.lanePair
def Noun.blocks (n : Noun) : Nat := ceilDiv (n.padded 0) n.blockWidth
def Noun.rows (n : Noun) : Nat := n.padded 1

/-- The bit offset from the origin of padded coordinates in layouts 1 to 3. -/
def Noun.bitOffset (n : Noun) (p : Nat → Int) : Int :=
  let outer : Int := ((List.range n.rank).filter (2 ≤ ·)).foldl (fun a k => a + p k * n.str k) 0
  if n.layout = 3 then
    let g := (p 0) / n.blockWidth
    let l := (p 0) % n.blockWidth / n.lanePair
    let st := g * n.rows + (p 1 + l) % n.rows
    (st * 32 + l) * (n.lanePair * n.w : Nat) + (p 0 % n.lanePair) * n.w
  else
    let s : Int := tileSide n.layout
    ((p 0) / s * n.str 0 + (p 1) / s * n.str 1 + outer + (p 1 % s) * s + p 0 % s) * n.w

/-- The bit offset from the origin of plane slot j of padded coordinates in layout 4 (R156). -/
def Noun.planeOffset (n : Noun) (p : Nat → Int) (j : Nat) : Int :=
  let outer : Int := ((List.range n.rank).filter (1 ≤ ·)).foldl (fun a k => a + p k * n.str k) 0
  ((p 0) / 512 * 512 + outer) * n.w + (j * 512 : Nat) + p 0 % 512

/-- The origin O of layouts 1 to 4 in bits: BASE less the byte that holds logical index 0 (R152). -/
def Noun.origin (n : Noun) : Int :=
  let p0 (d : Nat) : Int := n.lo d
  if n.layout = 4 then (n.base : Int) * 8 - (n.planeOffset p0 0 - p0 0 % 512)
  else (n.base : Int) * 8 - n.bitOffset p0 / 8 * 8

/-- The padded coordinates of a logical index, offsets applied. -/
def View.coord (v : View) (i : List Int) (d : Nat) : Int := i.getD d 0 + v.off d + v.noun.lo d

/-- The pieces of an element, most significant first: bit address and width of each. -/
def View.pieces (v : View) (i : List Int) : List (Int × Nat) :=
  let n := v.noun
  if n.layout = 0 then
    let e := (List.range n.rank).foldl (fun a k => a + (i.getD k 0 + v.off k) * n.str k) 0
    [((n.base : Int) * 8 + e * n.w, n.w)]
  else if n.layout = 4 then
    (List.range n.w).map fun j => (n.origin + n.planeOffset (v.coord i) j, 1)
  else [(n.origin + n.bitOffset (v.coord i), n.w)]

/-- The planes a read takes (R157). -/
def Noun.planesRead (n : Noun) : Nat := if n.planes = 0 then n.w else n.planes

/-- The pieces a read takes: in layout 4 the top PLANES planes. -/
def View.readPieces (v : View) (i : List Int) : List (Int × Nat) :=
  let ps := v.pieces i
  if v.noun.layout = 4 then ps.take v.noun.planesRead else ps

/-! ### Footprints (check 3 of R75) -/

/-- The least and greatest of a dimension's padded logical indices, offset applied, times its stride. -/
def View.span (v : View) (d : Nat) : Int × Int :=
  let n := v.noun
  let a := (v.off d - n.lo d) * n.str d
  let b := (v.off d + n.ext d + n.hi d - 1) * n.str d
  (min a b, max a b)

/-- The first and last byte the padded index space of an uncompressed noun reaches: whole tiles, stripes or plane groups
in layouts 1 to 4. -/
def View.plainFootprint (v : View) : Int × Int :=
  let n := v.noun
  let dims := List.range n.rank
  if n.layout = 0 then
    let lo := dims.foldl (fun a d => a + (v.span d).1) 0
    let hi := dims.foldl (fun a d => a + (v.span d).2) 0
    (((n.base : Int) * 8 + lo * n.w) / 8, ((n.base : Int) * 8 + (hi + 1) * n.w - 1) / 8)
  else if n.layout = 3 then
    let o := n.origin / 8
    let stripe : Int := (32 * n.lanePair * n.w / 8 : Nat)
    let g0 := v.off 0 / n.blockWidth
    let g1 := (v.off 0 + n.padded 0 - 1) / n.blockWidth
    (o + g0 * n.rows * stripe, o + (g1 + 1) * n.rows * stripe - 1)
  else
    -- layouts 1, 2 and 4: units of `u` bits, whose first index runs over blocks of side `s`
    let s : Int := if n.layout = 4 then 512 else tileSide n.layout
    let first (d : Nat) : Bool := d == 0 || (d == 1 && n.layout != 4)
    let lowBlock (d : Nat) : Int := if first d then v.off d / s else v.off d
    let highBlock (d : Nat) : Int := if first d then (v.off d + n.padded d - 1) / s else v.off d + n.padded d - 1
    let step (d : Nat) : Int := if n.layout = 4 && d = 0 then 512 else n.str d
    let lo := dims.foldl (fun a d => a + min (lowBlock d * step d) (highBlock d * step d)) 0
    let hi := dims.foldl (fun a d => a + max (lowBlock d * step d) (highBlock d * step d)) 0
    let unit : Int := if n.layout = 4 then 512 else s * s
    ((n.origin + lo * n.w) / 8, (n.origin + (hi + unit) * n.w - 1) / 8)

/-- Bytes of a base noun that the delta form covers: from BASE to the end of its footprint (R273). -/
def Noun.baseBytes (b : Noun) : Nat := ((View.plainFootprint { noun := b }).2 + 1 - b.base).toNat

/-- N, the number of 4,096-byte blocks of a base (R273). -/
def Noun.baseBlocks (b : Noun) : Nat := ceilDiv b.baseBytes 4096

/-- Logical size in bytes of a noun's elements. -/
def Noun.bytes (n : Noun) : Nat := ceilDiv (n.count * n.w) 8

/-- The first and last byte a noun reaches; a compressed noun's by R271, `base` the base of a COMPRESS 2 noun. -/
def View.footprint (v : View) (base : Option Noun) : Int × Int :=
  let n := v.noun
  if n.compress = 1 then (n.base, n.base + (ceilDiv n.bytes 4096 * 4160 : Nat) - 1)
  else if n.compress = 2 then
    let blocks := match base with
      | none => 0
      | some b => b.baseBlocks
    (n.base, n.base + (64 + 64 * ceilDiv (4 * blocks) 64 : Nat) - 1)
  else v.plainFootprint

/-! ### Two indices at one address (check 2 of R75) -/

/-- Whether some differences below the extents sum to `target` over the strides. -/
def reaches : List (Int × Nat) → Int → Bool
  | [], t => t == 0
  | [(s, e)], t => if s = 0 then t == 0 else t % s == 0 && decide ((t / s).natAbs < e)
  | (s, e) :: r, t =>
    (List.range e).any fun k => reaches r (t - k * s) || reaches r (t + k * s)

/-- Each stride passes everything the smaller ones reach, so no two indices meet. -/
def spreadOut (dims : List (Int × Nat)) : Bool :=
  let used := dims.filter (1 < ·.2)
  let sorted := sortBy (fun a b => decide (a.1.natAbs ≤ b.1.natAbs)) used
  (sorted.foldl (fun (acc : Bool × Nat) d => (acc.1 && decide (acc.2 < d.1.natAbs), acc.2 + (d.2 - 1) * d.1.natAbs))
    (true, 0)).1

/-- Some two indices share an address: the first dimension they differ in, and the rest making it up. -/
def overlapping : List (Int × Nat) → Bool
  | [] => false
  | (s, e) :: r => ((List.range e).any fun k => k != 0 && reaches r (-(k * s))) || overlapping r

/-- The noun puts two indices of its padded index space at one address. -/
def Noun.doubles (n : Noun) : Bool :=
  let dims : List (Int × Nat) :=
    if n.layout = 0 then (List.range n.rank).map fun d => (n.str d, n.padded d)
    else if n.layout = 3 then []
    else if n.layout = 4 then
      ((512 : Int), ceilDiv (n.padded 0) 512) :: ((List.range n.rank).filter (1 ≤ ·)).map fun d => (n.str d, n.padded d)
    else (List.range n.rank).map fun d =>
      (n.str d, if d < 2 then ceilDiv (n.padded d) (tileSide n.layout) else n.padded d)
  if spreadOut dims then false else overlapping dims

/-! ### The checks of R75 -/

/-- The formats, ranks and spaces of R150 and the origin alignment, layout by layout. -/
def Noun.layoutOk (n : Noun) : Bool :=
  let w := n.w
  let strides (p : Nat → Int → Bool) : Bool := (List.range n.rank).all fun d => p d (n.str d)
  match n.layout with
  | 0 => !fmtIs6 n.format && (if w = 4 then strides (fun d s => if d = 0 then s == 1 else s % 2 == 0)
           else decide (n.base % (w / 8) = 0))
  | 3 => !fmtIs6 n.format && n.format != fmtE8M0 && n.rank == 2 && n.space == 1
           && n.str 0 == 1 && n.str 1 == (n.blocks * n.blockWidth : Nat)
           && n.origin % (8 * (32 * (n.lanePair * w / 8)) : Nat) == 0
  | 4 => decide (w ≤ 8) && n.format != fmtE8M0 && strides (fun d s => if d = 0 then s == 1 else s % 512 == 0)
           && n.origin % 512 == 0
  | l =>
    let q : Int := tileSide l * tileSide l
    (l == 1 || l == 2) && !fmtIs6 n.format && decide (2 ≤ n.rank) && strides (fun _ s => decide (0 ≤ s) && s % q == 0)
      && n.origin % 1024 == 0

/-- Dense strides (R271). -/
def Noun.dense (n : Noun) : Bool :=
  n.str 0 == 1 && (List.range n.rank).all fun d => d == 0 || n.str d == n.str (d - 1) * n.ext (d - 1)

/-- The row of R271 a compressed noun must fit. -/
def Noun.compressOk (n : Noun) : Bool :=
  let plain := n.layout == 0 && !n.hasPad && n.base % 64 == 0
  match n.compress with
  | 0 => true
  | 1 => plain && n.dense && [fmtE4M3, fmtE5M2, fmtINT8, fmtBF16, fmtFP16, fmtFP32, fmtINT32, fmtUINT32].contains n.format
  | 2 => plain && [fmtE4M3, fmtBF16, fmtFP32].contains n.format
  | _ => false

/-- Check 1 of R75, all but the handle: validity, reserved values, and the rules of R71, R73, R150, R159, R160, R271. -/
def View.wellMade (v : View) : Bool :=
  let n := v.noun
  let above (d : Nat) : Bool := decide (n.rank ≤ d)
  n.valid && n.flagsReserved == 0 && n.w != 0 && decide (1 ≤ n.rank) && decide (n.rank ≤ 6)
    && decide (n.scope ≤ 4) && decide (n.space ≤ 1) && decide (n.padval ≤ 4)
    && (if n.space = 0 then decide (n.base < 2 ^ 52) else decide (n.base < 0x200000))
    && ((List.range 6).all fun d =>
          if above d then n.ext d == 0 && n.str d == 0 && n.lo d == 0 && n.hi d == 0 else n.ext d != 0)
    && (if n.layout = 4 then decide (n.planes ≤ n.w) else n.planes == 0)
    && n.layoutOk && n.compressOk
    && (n.format != fmtE8M0 || !n.hasPad)
    && (padRaw n.format n.padval).isSome
    && (n.layout != 3 || (v.off 0 % n.blockWidth == 0 && v.off 1 == 0))

/-- The base of a COMPRESS 2 noun fits it (R271, R272). -/
def baseFits (n base : Noun) : Bool :=
  [fmtE4M3, fmtE5M2, fmtINT8, fmtINT4, fmtBF16, fmtFP32].contains base.format
    && (base.layout == 0 || base.layout == 4) && !base.hasPad && base.compress == 0 && base.base % 64 == 0
    && n.rank == base.rank && n.extents == base.extents && n.strides == base.strides

/-- Checks 1 to 4 of R75 on a noun that is used: `written` as a write destination, `packed` where a compressed noun
suits the use, `base` the base its verb names. -/
def View.check (v : View) (vabits : Nat) (written packed : Bool) (base : Option Noun) : Option Status :=
  let n := v.noun
  if !v.wellMade then some Code.nounInvalid
  else if n.compress != 0 && !packed then some Code.nounInvalid
  else if n.compress == 2 && !(match base with | none => false | some b => baseFits n b) then some Code.nounInvalid
  else if written && n.layout == 4 && n.planes != 0 && n.planes != n.w then some Code.nounInvalid
  else if written && n.compress == 0 && n.doubles then some Code.nounInvalid
  else
    let (lo, hi) := v.footprint base
    let limit : Int := if n.space = 1 then 0x200000 else 2 ^ vabits - 0x200000
    if lo < 0 || hi ≥ limit then some Code.nounBounds
    else if written && n.readonly then some Code.nounAccess
    else none

/-! ### Verb words and operand fields (R87 to R89) -/

/-- A verb word of 16 bytes, with its extension word where EXT is set. -/
def parseVerb (word ext : List Byte) : Verb :=
  let h := leAt word 0 4
  let e := bit h 9
  { opcode := bits h 0 8, after := bit h 8, ext := e, predEn := bit h 10, predNeg := bit h 11, pred := bits h 12 3,
    reserved := bit h 15, signal := bits h 16 4, scope := bits h 20 3, order := bits h 23 2, mode := bits h 25 7,
    dst := leAt word 4 2, srca := leAt word 6 2, srcb := leAt word 8 2, srcc := leAt word 10 2, imm := leAt word 12 4,
    offsDst := if e then leAt ext 0 1 else 0, offsA := if e then leAt ext 1 1 else 0,
    offsB := if e then leAt ext 2 1 else 0, offsC := if e then leAt ext 3 1 else 0,
    xa := if e then leAt ext 4 2 else 0xFFFF, xb := if e then leAt ext 6 2 else 0xFFFF,
    ximm := if e then leAt ext 8 8 else 0 }

/-- The kinds of operand (R88). -/
inductive Operand where
  | noun (handle : Nat)
  | port (number : Nat) (release : Bool)
  | acc (first count : Nat)
  | counter (number : Nat)
  | none
  | bad
  deriving DecidableEq, Repr

/-- An operand field read by its kind bits; reserved values give `bad`. -/
def parseOperand (x : Nat) : Operand :=
  match bits x 14 2 with
  | 0 => if bits x 12 2 = 0 then .noun (bits x 0 12) else .bad
  | 1 => if bits x 7 7 = 0 && bits x 0 6 < 48 then .port (bits x 0 6) (bit x 6) else .bad
  | 2 => if bits x 6 8 = 0 && bits x 0 3 + bits x 3 3 + 1 ≤ 8 then .acc (bits x 0 3) (bits x 3 3 + 1) else .bad
  | _ => if x = 0xFFFF then .none else if x < 0xC010 then .counter (x - 0xC000) else .bad

/-- The queue an opcode belongs to. -/
def queueOf (opcode : Nat) : Queue :=
  match opcode / 64 with
  | 0 => .m
  | 1 => .v
  | 2 => .s
  | _ => .d

/-- A queue's number: M 0, V 1, S 2, D 3. -/
def queueNum : Queue → Nat
  | .m => 0
  | .v => 1
  | .s => 2
  | .d => 3

/-- The member of a four-fold for a queue. -/
def Quad.get {α : Type} (q : Quad α) : Queue → α
  | .m => q.m
  | .v => q.v
  | .s => q.s
  | .d => q.d

/-- A four-fold with its member for a queue replaced. -/
def Quad.set {α : Type} (q : Quad α) (x : α) : Queue → Quad α
  | .m => { q with m := x }
  | .v => { q with v := x }
  | .s => { q with s := x }
  | .d => { q with d := x }

end Sys2Proof.Machine
end

