-- ==== Sys2Proof/Machine/Compress.lean ====
section
/-!
DEFINITION. The compressed forms: block headers, the zero-run and difference tokens, the delta records and their map
(R271 to R280).
-/

namespace Sys2Proof.Machine

/-- The check value in the default configuration of R265. -/
def defaultCheck (b : List Byte) : Nat := checkValue {} b

/-- A block's header (R273). -/
structure BlockHeader where
  kind : Nat
  width : Nat
  len : Nat
  dlen : Nat
  check : Nat
  /-- the reserved bytes are zero -/
  clean : Bool
  deriving DecidableEq, Repr

/-- A header of 16 bytes read. -/
def parseHeader (b : List Byte) : BlockHeader :=
  { kind := leAt b 0 1, width := leAt b 1 1, len := leAt b 2 2, dlen := leAt b 4 2, check := leAt b 8 4,
    clean := leAt b 6 2 == 0 && leAt b 12 4 == 0 }

/-- A header of 16 bytes written. -/
def headerBytes (kind width len dlen check : Nat) : List Byte :=
  leBytes 1 kind ++ leBytes 1 width ++ leBytes 2 len ++ leBytes 2 dlen ++ leBytes 2 0 ++ leBytes 4 check ++ leBytes 4 0

/-- Uncompressed bytes of block b of `total` bytes. -/
def blockLength (total b : Nat) : Nat := min 4096 (total - 4096 * b)

/-! ### The activation form (R275, R276) -/

/-- Some elements of w bytes each, one after another; with them what remains. -/
def takeElems (w : Nat) : Nat → List Byte → List Nat × List Byte
  | 0, b => ([], b)
  | n + 1, b =>
    let (xs, r) := takeElems w n (b.drop w)
    (leNat (b.take w) :: xs, r)

/-- The elements a token stream spells, in reverse; none where it breaks R276. -/
def zrdDecode (w : Nat) : Nat → List Byte → Nat → List Nat → Option (List Nat)
  | 0, b, _, acc => if b.isEmpty then some acc else none
  | fuel + 1, b, prev, acc =>
    match b with
    | [] => some acc
    | t :: r =>
      let t := t.toNat
      if t < 0x80 then zrdDecode w fuel r 0 (List.replicate (t + 1) 0 ++ acc)
      else if t < 0xC0 then
        let n := t - 0x7F
        if r.length < n * w then none
        else
          let (xs, rest) := takeElems w n r
          zrdDecode w fuel rest (xs.getLastD 0) (xs.reverse ++ acc)
      else
        let n := bits t 2 4 + 1
        let k := bits t 0 2 + 1
        if k > w || r.length < n * k then none
        else
          let (ds, rest) := takeElems k n r
          let run := ds.foldl (fun (acc : List Nat × Nat) d => (Nat.xor acc.2 d :: acc.1, Nat.xor acc.2 d)) (acc, prev)
          zrdDecode w fuel rest run.2 run.1

/-- The bytes of elements of w bytes. -/
def elemBytes (w : Nat) (xs : List Nat) : List Byte := xs.flatMap (leBytes w)

/-- A slot of a COMPRESS 1 noun decoded: header and payload of block b; none where the block is damaged (R274). -/
def decodeSlot (w total b : Nat) (h : BlockHeader) (payload : List Byte) : Option (List Byte) :=
  let dlen := blockLength total b
  let data : Option (List Byte) :=
    if !h.clean || h.width != w || h.dlen != dlen || dlen % w != 0 then none
    else match h.kind with
      | 0 => if h.len = h.dlen then some payload else none
      | 1 =>
        match zrdDecode w (payload.length + 1) payload 0 [] with
        | some xs => if xs.length * w = dlen then some (elemBytes w xs.reverse) else none
        | none => none
      | 2 => if h.len = 0 then some (List.replicate dlen 0) else none
      | _ => none
  match data with
  | some d => if defaultCheck d = h.check then some d else none
  | none => none

/-- Bytes an xor needs: at least one. -/
def xorBytes (d : Nat) : Nat :=
  if d < 0x100 then 1 else if d < 0x10000 then 2 else if d < 0x1000000 then 3 else 4

/-- The class of an element behind another: 0 a zero, 1 to w − 1 a difference of so many bytes, w a literal. -/
def zrdClass (w prev x : Nat) : Nat := if x = 0 then 0 else min (xorBytes (Nat.xor prev x)) w

/-- The elements of one token from the front of a list: those of one class, up to a number. -/
def zrdRun (w cls : Nat) : Nat → Nat → List Nat → List Nat
  | 0, _, _ => []
  | _, _, [] => []
  | n + 1, prev, x :: r => if zrdClass w prev x = cls then x :: zrdRun w cls n x r else []

/-- The differences of a run, each of k bytes. -/
def zrdDiffs (k : Nat) : Nat → List Nat → List Byte
  | _, [] => []
  | prev, x :: r => leBytes k (Nat.xor prev x) ++ zrdDiffs k x r

/-- The token stream the device's encoder emits, greedily (R276). -/
def zrdEncode (w : Nat) : Nat → Nat → List Nat → List Byte
  | 0, _, _ => []
  | _, _, [] => []
  | fuel + 1, prev, x :: r =>
    let cls := zrdClass w prev x
    let limit := if cls = 0 then 128 else if cls = w then 64 else 16
    let run := zrdRun w cls limit prev (x :: r)
    let n := run.length
    let token : List Byte :=
      if cls = 0 then leBytes 1 (n - 1)
      else if cls = w then leBytes 1 (0x7F + n) ++ elemBytes w run
      else leBytes 1 (0xC0 + 4 * (n - 1) + (cls - 1)) ++ zrdDiffs cls prev run
    token ++ zrdEncode w fuel (if cls = 0 then 0 else run.getLastD 0) ((x :: r).drop n)

/-- A block of bytes encoded for its slot: header and payload (R275). -/
def encodeSlot (w : Nat) (data : List Byte) : List Byte :=
  let check := defaultCheck data
  if data.all (· == 0) then headerBytes 2 w 0 data.length check
  else
    let xs := (takeElems w (data.length / w) data).1
    let tokens := zrdEncode w xs.length 0 xs
    if tokens.length < data.length then headerBytes 1 w tokens.length data.length check ++ tokens
    else headerBytes 0 w data.length data.length check ++ data

/-! ### The delta form (R277 to R280) -/

/-- The element slot of a base's index: its place among the elements in the order of R279. An element below BASE lies in no block
(R273). -/
def Noun.slotOf (b : Noun) (i : List Int) : Option Nat :=
  let outer : Int := ((List.range b.rank).filter (1 ≤ ·)).foldl (fun a k => a + i.getD k 0 * b.str k) 0
  let x := if b.layout = 4 then i.getD 0 0 / 512 * 512 + outer + i.getD 0 0 % 512 else i.getD 0 0 * b.str 0 + outer
  if x < 0 then none else some x.toNat

/-- Elements of a base in a block. -/
def Noun.blockSlots (b : Noun) : Nat := 32768 / b.w

/-- The map header of a COMPRESS 2 noun (R277). -/
structure MapHeader where
  blocks : Nat
  capacity : Nat
  used : Nat
  baseVa : Nat
  clean : Bool
  deriving DecidableEq, Repr

/-- A map header read. -/
def parseMap (b : List Byte) : MapHeader :=
  { blocks := leAt b 0 4, capacity := leAt b 4 4, used := leAt b 8 4, baseVa := leAt b 0x10 8,
    clean := leAt b 12 4 == 0 && leAt b 0x18 40 == 0 }

/-- A map header written. -/
def MapHeader.bytes (m : MapHeader) : List Byte :=
  leBytes 4 m.blocks ++ leBytes 4 m.capacity ++ leBytes 4 m.used ++ leBytes 4 0 ++ leBytes 8 m.baseVa ++ leBytes 40 0

/-- The map header fits its base. -/
def MapHeader.fits (m : MapHeader) (b : Noun) : Bool :=
  m.clean && m.blocks == b.baseBlocks && m.capacity % 64 == 0 && m.used % 64 == 0 && m.baseVa == b.base

/-- Where the records of a COMPRESS 2 noun begin. -/
def recordsAt (n b : Noun) : Nat := n.base + 64 + 64 * ceilDiv (4 * b.baseBlocks) 64

/-- The address of the record that a map entry names (R278). -/
def recordAddr (n b : Noun) (entry : Nat) : Nat := recordsAt n b + 64 * (entry - 1)

/-- A map entry leads to a record; where it does not, it damages its block (R278). -/
def MapHeader.leads (m : MapHeader) (entry : Nat) : Bool := decide (m.used ≤ m.capacity) && decide (64 * (entry - 1) < m.used)

/-- The differences of one marked segment after another: element slot in the block and raw difference. -/
def deltaSegments (d valid : Nat → Bool) (width : Nat) : List Nat → List Byte → Option (List (Nat × Nat))
  | [], b => if b.isEmpty then some [] else none
  | seg :: r, b =>
    if b.length < 8 then none
    else
      let marks := (bitsSet 64 (leAt b 0 8)).map (· + 64 * seg)
      let body := b.drop 8
      let (xs, rest) := takeElems width marks.length body
      if marks.isEmpty || body.length < marks.length * width || !(marks.all valid) || !(xs.all d) then none
      else (deltaSegments d valid width r rest).map (marks.zip xs ++ ·)

/-- The differences a DELTA record gives block `b` of a base, by element slot in the block; none where the block is
damaged (R274, R279). `valid` tells the slots that hold an element. -/
def decodeRecord (n base : Noun) (b : Nat) (valid : Nat → Bool) (h : BlockHeader) (payload : List Byte) :
    Option (List (Nat × Nat)) :=
  let dlen := blockLength base.baseBytes b
  let ok := h.kind == 3 && h.clean && h.width == base.w && h.dlen == dlen && (dlen * 8) % base.w == 0
    && decide (16 ≤ h.len) && payload.length == h.len && defaultCheck payload == h.check
  let mask := leAt payload 0 16
  if !ok || mask ≥ 2 ^ (512 / base.w) then none
  else deltaSegments (fun x => !((valueOf n.format x).isNan)) valid (n.w / 8) (bitsSet 128 mask) (payload.drop 16)

/-- A DELTA record of a block's differences, by element slot in ascending order: header and payload. -/
def encodeRecord (n base : Noun) (b : Nat) (ds : List (Nat × Nat)) : List Byte :=
  let segs := (ds.map fun d => d.1 / 64).eraseDups
  let mask := segs.foldl (fun a j => putBit a j true) 0
  let body := segs.flatMap fun j =>
    let mine := ds.filter fun d => d.1 / 64 == j
    leBytes 8 (mine.foldl (fun a d => putBit a (d.1 % 64) true) 0) ++ mine.flatMap fun d => leBytes (n.w / 8) d.2
  let payload := leBytes 16 mask ++ body
  headerBytes 3 base.w payload.length (blockLength base.baseBytes b) (defaultCheck payload) ++ payload

/-- A record with the zero bytes that bring it to a multiple of 64. -/
def padRecord (b : List Byte) : List Byte := b ++ List.replicate (64 * ceilDiv b.length 64 - b.length) 0

end Sys2Proof.Machine
end

