-- ==== Sys2Proof/Machine/Flags.lean ====
section
/-!
DEFINITION. Flag computations: the sticky result bits of MSTAT and VSTAT (R135, R147), the comparisons of SCMP (R99) and
the check-value status (R266, R268).
-/

namespace Sys2Proof.Machine

/-- A bit pattern of a format is a NaN, or an infinity. -/
def isNanRaw (fmt raw : Nat) : Bool := !fmtIsInt fmt && (valueOf fmt raw).isNan
def isInfRaw (fmt raw : Nat) : Bool := !fmtIsInt fmt && fmt != fmtE8M0 && (valueOf fmt raw).isInf

/-- MSTAT after an MDRAIN of banks of a kind: bits set stay set (R135). -/
def CoreStat.noteDrain (t : CoreStat) (fmt : Nat) (out : List Rounded) (rounding kind : Nat) (wrapped : Bool) : CoreStat :=
  { t with mNan := t.mNan || out.any fun r => isNanRaw fmt r.raw,
           mInf := t.mInf || out.any fun r => isInfRaw fmt r.raw,
           mClipped := t.mClipped || (rounding != 0 && out.any (·.clipped)),
           mWrapped := t.mWrapped || wrapped,
           lastKind := kind }

/-- VSTAT after a V verb wrote elements of a format (R147). -/
def CoreStat.noteVector (t : CoreStat) (fmt : Nat) (out : List Nat) (clipped sampleNan : Bool) : CoreStat :=
  { t with vNan := t.vNan || out.any (isNanRaw fmt),
           vInf := t.vInf || out.any (isInfRaw fmt),
           vClipped := t.vClipped || clipped,
           vSampleNan := t.vSampleNan || sampleNan }

/-- The comparison of SCMP: REL 0 to 5, unsigned or signed (R91, R99). -/
def compare (rel : Nat) (unsigned_ : Bool) (a b : Nat) : Bool :=
  let x : Int := if unsigned_ then (a % 2 ^ 32 : Nat) else signed 32 a
  let y : Int := if unsigned_ then (b % 2 ^ 32 : Nat) else signed 32 b
  match rel with
  | 0 => x == y
  | 1 => x != y
  | 2 => decide (x < y)
  | 3 => decide (x ≤ y)
  | 4 => decide (x > y)
  | _ => decide (x ≥ y)

/-- CVSTAT and CV_LAST after a check value has been computed; CV_RECV and MISMATCH after one has been compared
(R266). -/
def CoreStat.noteCheck (t : CoreStat) (value : Nat) (received : Option Nat) (ok : Bool) : CoreStat :=
  { t with cvLast := value, cvRecv := received.getD t.cvRecv, cvMismatch := t.cvMismatch || !ok }

end Sys2Proof.Machine
end

