-- ==== Sys2Proof/Machine/Scopes.lean ====
section
/-!
DEFINITION. Scopes as sets of parties (R28 to R30): who may issue something with a scope, which parties each scope of an issuer
contains, and the narrowest scope an issuer that is not a core has.
-/

namespace Sys2Proof.Machine

/-- A party of R28. The four queues of a core are one party, since no scope tells them apart. -/
inductive Party where
  | core (c k : Nat)
  | control (c : Nat)
  | cache (c : Nat)
  | network (die : Nat)
  | stack (n : Nat)
  | unit (n ch : Nat)
  | fabric (f : Nat)
  | serving
  | xomon
  | management
  | companion
  | peer (f n : Nat)
  deriving DecidableEq, Repr

/-- The cluster a party belongs to. -/
def Party.cluster : Party → Option Nat
  | .core c _ => some c
  | .control c => some c
  | .cache c => some c
  | _ => none

/-- The die a party is on, of those that a DIE scope contains: stacks and fabric ports by their attachment, the serving controller
and the Xomon link's device end on die 0 (R17, R18, R28). -/
def Party.die : Party → Option Nat
  | .core c _ => some (dieOfCluster c)
  | .control c => some (dieOfCluster c)
  | .cache c => some (dieOfCluster c)
  | .network d => some d
  | .stack n => some (dieOfStack n)
  | .unit n _ => some (dieOfStack n)
  | .fabric f => some (dieOfPort f)
  | .serving => some 0
  | .xomon => some 0
  | _ => none

/-- A party of the device itself. -/
def Party.onDevice : Party → Bool
  | .companion => false
  | .peer _ _ => false
  | _ => true

/-- The narrowest scope of an issuer (R29): CORE for a core, and for a control core, whose CORE scope holds itself alone; CLUSTER for
a cluster cache's write-backs; DIE for what attaches to a die; DEVICE for the management processor. What comes from outside has
SYSTEM scope alone. -/
def Party.narrowest : Party → Nat
  | .core _ _ => 0
  | .control _ => 0
  | .cache _ => 1
  | .network _ => 2
  | .stack _ => 2
  | .unit _ _ => 2
  | .fabric _ => 2
  | .serving => 2
  | .xomon => 2
  | .management => 3
  | .companion => 4
  | .peer _ _ => 4

/-- The scope a named one acts as (R29). -/
def Party.effective (p : Party) (scope : Nat) : Nat := max scope p.narrowest

/-- The scope `scope` of issuer `p` contains party `q` (R28, R29). -/
def Party.reaches (p : Party) (scope : Nat) (q : Party) : Bool :=
  match p.effective scope with
  | 0 => p == q
  | 1 => p.cluster.isSome && p.cluster == q.cluster
  | 2 => p.die.isSome && p.die == q.die
  | 3 => q.onDevice
  | _ => true

/-- The party a writer at a base die acts for; a sequence acts for the unit of its lead. -/
def writerParty : Writer → Option Party
  | .verb c k _ => some (.core c k)
  | .cache c => some (.control c)
  | .companion => some .companion
  | .peer f n => some (.peer f n)
  | .sequence _ => none
  | .device => some .management

end Sys2Proof.Machine
end

