-- ==== Sys2Proof/Machine/BaseDie.lean ====
section
/-!
DEFINITION. The base dies: the device physical map, mapping out, what a read of a line meets, write combining, claims
and held writes, and the withdrawal of companion copies (R185 to R187, R198 to R207, R239 to R254, R342).
-/

namespace Sys2Proof.Machine

/-! ### Device physical space (R198 to R200) -/

/-- 2 GiB, a channel's data. -/
abbrev chanBytes : Nat := 0x80000000

/-- The interleave sets with the address each begins at (R199). -/
def setsFrom (base : Nat) : List (List Nat) → List (Nat × List Nat)
  | [] => []
  | l :: r => (base, l) :: setsFrom (base + l.length * chanBytes) r

/-- The end of the interleaved region. -/
def State.interleaveTop (s : State) : Nat := (s.sets.map List.length).foldl (· + ·) 0 * chanBytes

/-- GRANULE of the image in force (R47). -/
def State.granule (s : State) : Nat :=
  match s.gram.image with
  | none => 8
  | some i => i.granule

/-- The fold of a row (R200). -/
def foldRow (row : Nat) : Nat := row ^^^ (row / 2 ^ 7) ^^^ (row / 2 ^ 13)

/-- Global channel number and byte offset of an address of an interleave set (R200). -/
def placeInSet (granule base : Nat) (list : List Nat) (a : Nat) : Nat × Nat :=
  let g := 2 ^ granule
  let b := (a - base) / g
  let row := b / list.length
  let i := (b + foldRow row) % list.length
  (list.getD i 0, row * g + (a - base) % g)

/-- The address of an interleave set at which byte `off` of its i-th channel lies: R200 read backwards. -/
def addressInSet (granule base : Nat) (list : List Nat) (i off : Nat) : Nat :=
  let g := 2 ^ granule
  let n := list.length
  let row := off / g
  base + (row * n + (i + n - foldRow row % n) % n) * g + off % g

/-- A channel by its global number 32s + c. -/
def State.gchan (s : State) (g : Nat) : Channel := s.chan (g / 32) (g % 32)

/-- The slots of appended regions served since the last full load, with their channels (R206). -/
def State.appended (s : State) : List (Nat × Nat) :=
  s.stk.flatMap fun (n, x) => x.channels.filterMap fun (c, ch) => ch.served.map fun k => (k, 32 * n + c)

/-- Where an address lies: a byte of a channel, or nowhere, with the status an access meets. -/
inductive Place where
  | cell (g off : Nat)
  | absent (st : Status)
  deriving DecidableEq, Repr

/-- The place of a device physical address in the stacks (R198 to R200, R205, R206). -/
def State.locate (s : State) (pa : Nat) : Place :=
  match (setsFrom 0 s.sets).find? fun (b, l) => decide (b ≤ pa) && decide (pa < b + l.length * chanBytes) with
  | some (b, l) =>
    let (g, off) := placeInSet s.granule b l pa
    if (s.gchan g).state = .inService then .cell g off else .absent Code.channelOut
  | none =>
    match s.appended.find? fun (k, _) => k == pa / chanBytes with
    | some (_, g) => if (s.gchan g).state = .appended then .cell g (pa % chanBytes) else .absent Code.channelOut
    | none => .absent Code.addrRange

/-- The address at which byte `off` of channel g lies, where the channel serves any. -/
def State.addressOf (s : State) (g off : Nat) : Option Nat :=
  match (setsFrom 0 s.sets).find? fun (_, l) => l.contains g with
  | some (b, l) =>
    if (s.gchan g).state = .appended then (s.gchan g).served.map (· * chanBytes + off)
    else some (addressInSet s.granule b l (l.findIdx (· == g)) off)
  | none => (s.gchan g).served.map (· * chanBytes + off)

/-- Channel and byte offset of the cells behind an address, whether or not the channel is in service. -/
def State.cellAt (s : State) (pa : Nat) : Option (Nat × Nat) :=
  match (setsFrom 0 s.sets).find? fun (b, l) => decide (b ≤ pa) && decide (pa < b + l.length * chanBytes) with
  | some (b, l) => some (placeInSet s.granule b l pa)
  | none => (s.appended.find? fun (k, _) => k == pa / chanBytes).map fun (_, g) => (g, pa % chanBytes)

/-! ### The carve (R49) -/

/-- 2 MiB. -/
abbrev pageBytes : Nat := 0x200000

/-- An address lies in the system reserve. -/
def State.inReserve (s : State) (pa : Nat) : Bool :=
  match s.gram.image with
  | none => false
  | some i => decide (pa < i.reserve * pageBytes)

/-- The model-cache pages of each interleave set, as first and end address (R49). -/
def modelRegions (sets : List (List Nat)) (models : Nat) : List (Nat × Nat) :=
  let n := (sets.map List.length).foldl (· + ·) 0
  let shares := sets.map fun l => if n = 0 then 0 else models * l.length / n
  let left := models - shares.foldl (· + ·) 0
  (List.range sets.length).map fun i =>
    let (b, l) := (setsFrom 0 sets).getD i (0, [])
    let top := b + l.length * chanBytes
    let extra := if i < left then 1 else 0
    (top - (shares.getD i 0 + extra) * pageBytes, top)

/-- The model-cache regions in force. -/
def State.modelRegions (s : State) : List (Nat × Nat) :=
  match s.gram.image with
  | none => []
  | some i => Machine.modelRegions s.sets i.models

/-- An address lies in the model-cache region. -/
def State.inModelRegion (s : State) (pa : Nat) : Bool :=
  s.modelRegions.any fun (a, b) => decide (a ≤ pa) && decide (pa < b)

/-! ### Damage and mapping out (R204, R205, R257, R258) -/

/-- A model-cache entry. -/
def State.mcEntry (s : State) (e : Nat) : McEntry := s.sched.mc.look {} e

/-- The state with a model-cache entry changed. -/
def State.modMc (s : State) (e : Nat) (f : McEntry → McEntry) : State :=
  { s with sched := { s.sched with mc := s.sched.mc.upd {} e f } }

/-- The partitions the structure in force defines. -/
def State.partitions (s : State) : List Nat :=
  match s.gram.image with
  | none => []
  | some i => i.parts.map (·.pid)

/-- REFETCH and UE_LIMIT and CE_EVENT of R56. -/
def State.refetch (s : State) : Bool :=
  match s.gram.image with
  | none => false
  | some i => i.refetch
def State.ueLimit (s : State) : Nat :=
  match s.gram.image with
  | none => 16
  | some i => i.ueLimit
def State.ceEvent (s : State) : Nat :=
  match s.gram.image with
  | none => 1024
  | some i => i.ceEvent

/-- MODEL_DAMAGED to every partition that uses the model, naming the entry and the block (R257). -/
def State.tellDamaged (s : State) (e block : Nat) : State :=
  (bitsSet 16 (s.mcEntry e).users).foldl
    (fun s p => s.event Cls.stk Code.modelDamaged Obs.ofMgmt p e (block * 0x10000)) s

/-- The resident or damaged entry holding an address. -/
def State.entryOf (s : State) (pa : Nat) : Option Nat :=
  (s.sched.mc.find? fun (_, x) =>
    (x.state == .resident || x.state == .damaged) && x.pageList.contains (pa / pageBytes)).map (·.1)

/-- A line of a model is found uncorrectable: its entry is DAMAGED and its block joins the list; a seventeenth block
fails its refetch where REFETCH is 1 (R257, R258). -/
def State.damage (s : State) (pa : Nat) : State :=
  match s.entryOf pa with
  | none => s
  | some e =>
    let block := pa / 0x10000
    let x := s.mcEntry e
    if x.damaged.contains block then s
    else if x.damaged.length < 16 then
      (s.modMc e fun x => { x with state := .damaged, damaged := x.damaged ++ [block] }).tellDamaged e block
    else
      let s := (s.modMc e fun x => { x with state := .damaged, lost := true }).tellDamaged e block
      if s.refetch then s.event Cls.stk Code.refetchFailed Obs.ofMgmt 0xFF e (block * 0x10000) else s

/-- A 64 KiB block has a line on channel g. -/
def State.blockOn (s : State) (g block : Nat) : Bool :=
  (List.range (ceilDiv 0x10000 (2 ^ s.granule))).any fun k =>
    match s.locate (block * 0x10000 + k * 2 ^ s.granule) with
    | .cell h _ => h == g
    | .absent _ => false

/-- The blocks of each model that have a line on channel g. -/
def State.modelsOn (s : State) (g : Nat) : List (Nat × List Nat) :=
  s.sched.mc.filterMap fun (e, x) =>
    if x.state == .resident || x.state == .damaged then
      let bs := (x.pageList.flatMap fun p => (List.range 32).map (32 * p + ·)).filter (s.blockOn g)
      if bs.isEmpty then none else some (e, bs)
    else none

/-- Every model with a range on a channel that has gone out becomes DAMAGED (R205). Its blocks there join the damaged list while it
has room, and each one listed fails its refetch where REFETCH is 1, since it lies in a slot of a mapped-out channel (R258; log
entry 69). -/
def State.damageModels (s : State) (hit : List (Nat × List Nat)) : State :=
  hit.foldl (fun s (e, bs) =>
    let old := (s.mcEntry e).damaged
    let list := old ++ (bs.filter fun b => !old.contains b).take (16 - old.length)
    let s := (s.modMc e fun x => { x with state := .damaged, lost := true, damaged := list }).tellDamaged e (bs.headD 0)
    if s.refetch then
      (bs.filter fun b => list.contains b && !(s.mcEntry e).failed.contains b).foldl (fun s b =>
        (s.modMc e fun x => { x with failed := x.failed ++ [b] }).event Cls.stk Code.refetchFailed Obs.ofMgmt 0xFF e (b * 0x10000)) s
    else s) s

/-- Whom an event about the memory is sent to: every partition, or no partition in particular while none is defined. -/
def State.memoryHearers (s : State) : List Nat := if s.partitions.isEmpty then [0xFF] else s.partitions

/-- The descriptors in the intake of a unit whose channel goes out are dropped, each with its producer's credit returned: a unit that
returns takes only sequences issued after its return (R69, R206; log entry 70). -/
def State.dropIntake (s : State) (n ch : Nat) : State :=
  let back := (s.chan n ch).intake.filterMap fun (p, _) =>
    if p < 0x8000 then some (Transit.credit (unitStation n ch) p) else none
  { s with transit := s.transit ++ back }.modChan n ch fun c => { c with intake := [] }

/-- The unit of a channel that goes out while it still has to read for a sequence ends that sequence, and so does the lead of one that
waits for admission: a unit that returns takes only sequences issued after its return (R69, R206, R242). -/
def State.stopUnit (s : State) (g : Nat) : State :=
  { s with seqs := s.seqs.map fun (i, q) =>
      if q.stopped.contains g then (i, q)
      else if q.phase == .waiting then
        (i, if 32 * q.leadStack + q.leadChannel = g then { q with failure := some Code.channelOut } else q)
      else match q.work.look [] g with
        | [] => (i, q)
        | item :: _ => (i, { q with stopped := q.stopped ++ [g], failure := some (q.failure.getD Code.channelOut),
                                    faultVa := if q.failure.isSome then q.faultVa else 64 * (item % 2 ^ 48) }) }

/-- A channel leaves service: the record first, then the channel, then the events to every partition and the damaged models
(R204, R205, R424). What its write-combining buffer holds is lost with it. A channel recorded for the same reason keeps its record,
without an event (R424); another reason takes the record's place (R194, R195). -/
def State.mapOut (s : State) (n ch reason : Nat) : State :=
  let s := (s.dropIntake n ch).stopUnit (32 * n + ch)
  if s.flash.mapouts.seek (32 * n + ch) = some reason then s.modChan n ch fun c => { c with state := .out, reason := reason, paused := false }
  else
    let hit := s.modelsOn (32 * n + ch)
    let s := { s with flash := { s.flash with mapouts := s.flash.mapouts.put (32 * n + ch) reason } }
    let s := s.modChan n ch fun c =>
      { c with state := .out, reason := reason, ue := 0, mark0 := false, mark1 := false, wcb := [], paused := false }
    (s.memoryHearers.foldl (fun s p => s.event Cls.stk Code.channelOut (Obs.ofStack n) p ch 0) s).damageModels hit

/-! ### Reads of stored lines (R246 to R254) -/

/-- What a reader of a line meets: data, a status, or a wait for the stack's port domain (R192). -/
inductive Read where
  | data (b : List Byte)
  | fault (st : Status)
  | wait
  deriving DecidableEq, Repr

/-- A line joins a sorted list of lines. -/
def insertLine (x : Nat) : List Nat → List Nat
  | [] => [x]
  | y :: r => if x < y then x :: y :: r else if x = y then y :: r else y :: insertLine x r

/-- Log kinds of R267: 1 CE, 2 TRANSFER, 3 UE. A read of a line is logged (R254). -/
def State.logRead (s : State) (n ch line kind rd : Nat) (symbols : List Nat) (repeatOnly : Bool) : State :=
  let c := s.chan n ch
  let pos := (symbols.map (· / 4)).eraseDups.foldl (fun a q => putBit a q true) 0
  s.modStack n fun x =>
    let i := x.log.findIdx fun e => e.addr == 64 * line
    let fresh (e : LogEntry) : LogEntry :=
      { e with addr := 64 * line, channel := ch, kind := kind, symbols := symbols.length, erasure := c.erase != 31,
               reader := rd, positions := pos, repeats := 0, age := x.logAge }
    if i < x.log.length then
      { x with log := x.log.modify i fun e =>
          if repeatOnly then { e with repeats := min (e.repeats + 1) 0xFFFFFFFF }
          else { e with repeats := min (e.repeats + 1) 0xFFFFFFFF, kind := max e.kind kind, symbols := symbols.length,
                        erasure := c.erase != 31, reader := rd, positions := pos } }
    else if repeatOnly then x
    else if x.log.length < 32 then { x with log := x.log ++ [fresh {}], logAge := x.logAge + 1 }
    else
      let ces := x.log.filter (·.kind == 1)
      match ces.map (·.age) |>.min? with
      | none => { x with dropped := min (x.dropped + 1) 0xFFFF }
      | some a => { x with log := x.log.map fun e => if e.age = a then fresh e else e, logAge := x.logAge + 1 }

/-- What the write-combining buffer holds of a line, merged over cell bytes (R207). -/
def mergeMask (old new : List Byte) (mask : Nat) : List Byte :=
  (List.range 64).map fun i => if bit mask i then new.getD i 0 else old.getD i 0

/-- The buffered bytes of a line merged in. -/
def Channel.buffered (c : Channel) (line : Nat) (b : List Byte) : List Byte :=
  match c.wcb.find? (·.line == line) with
  | none => b
  | some e => mergeMask b e.bytes e.mask

/-- How far a line's stored word is from its codeword. -/
def State.deviation (s : State) (line : Nat) : Deviation :=
  let u := s.upsets.look [] line
  if s.poison.contains line then Deviation.xor u poisonDeviation else u

/-- A line's cells that hold fixed bits return them, whatever was written (R250). -/
def State.fixCells (s : State) (line : Nat) : State :=
  match s.stuck.seek line with
  | none => s
  | some cells =>
    let data := Memory.readList s.mem (64 * line) 64
    let u := s.upsets.look [] line
    let pz := if s.poison.contains line then poisonDeviation else []
    let fixed : Deviation := cells.map fun (j, m, v) =>
      let sound := codeSymbol data j ^^^ Tbl.look 0 pz j
      let now := sound ^^^ Tbl.look 0 u j
      (j, sound ^^^ ((now &&& (255 - m % 256)) ||| (v &&& m % 256)))
    let rest := u.filter fun x => !(fixed.any (·.1 == x.1))
    let all := Deviation.xor rest fixed
    { s with upsets := if all.isEmpty then s.upsets.drop line else s.upsets.put line all }

/-- A line becomes a poison word. -/
def State.poisonLine (s : State) (line : Nat) : State :=
  { s with poison := insertLine line s.poison, upsets := s.upsets.drop line }.fixCells line

/-- A line's cells take the codeword of 64 bytes (R248), as far as none of them holds a fixed value (R250). -/
def State.writeCells (s : State) (line : Nat) (b : List Byte) : State :=
  { s with mem := Memory.writeList s.mem (64 * line) b, poison := s.poison.filter (· != line),
           upsets := s.upsets.drop line }.fixCells line

/-- CE rises, saturating, with the event at each multiple of CE_EVENT (R253). -/
def State.countCe (s : State) (n ch : Nat) : State :=
  let ce := (s.chan n ch).ce
  if ce = 0xFFFFFFFF then s
  else
    let s := s.modChan n ch fun c => { c with ce := ce + 1 }
    if (ce + 1) % s.ceEvent = 0 then s.event Cls.stk Code.ceThreshold (Obs.ofStack n) 0xFF ch 0 else s

/-- A line is first found uncorrectable (R252): poison word, log, count, event, and at UE_LIMIT the mapping out;
then the damage of a model (R257). -/
def State.firstUncorrectable (s : State) (n ch line src rd : Nat) : State :=
  let s := (s.poisonLine line).logRead n ch line 3 rd [] false
  let ue := min ((s.chan n ch).ue + 1) 0xFFFF
  let s := s.modChan n ch fun c => { c with ue := ue }
  let s := s.event Cls.stk Code.ueData ⟨src, islandField 4 n⟩ 0xFF ch (64 * line)
  let s := if s.inModelRegion (64 * line) then s.damage (64 * line) else s
  if ue ≥ s.ueLimit then s.mapOut n ch 4 else s

/-- A read of the cells of a line of channel ch by reader `rd` of station `src`: decode, count, log, write back, and the
buffered bytes merged in (R246 to R254). -/
def State.readCells (s : State) (n ch line src rd : Nat) : Read × State :=
  if (s.stack n).lost then
    let (b, s) := s.drawBytes 64
    (.data b, s)
  else
  let c := s.chan n ch
  let stored := Memory.readList s.mem (64 * line) 64
  let d := s.deviation line
  let erasure := if c.erase = 31 then none else some c.erase
  let decoded := if d.isEmpty then Decoded.clean [] else decodeWord erasure d
  match decoded with
  | .clean off => (.data (c.buffered line (applyDeviation off stored)), s)
  | .corrected off symbols =>
    let data := applyDeviation off stored
    let outside := symbols.any fun j => j / 4 != c.erase
    let s := if outside then (s.countCe n ch).logRead n ch line 1 rd symbols false
             else s.modChan n ch fun c => { c with erased := min (c.erased + 1) 0xFFFFFFFF }
    let s := if outside && !(c.wcb.any (·.line == line)) then s.writeCells line data else s
    (.data (c.buffered line data), s)
  | .poisoned => (.fault Code.poisoned, s.logRead n ch line 3 rd [] true)
  | .uncorrectable => (.fault Code.ueData, s.firstUncorrectable n ch line src rd)

/-- A line crosses its stack port, retried up to four times where transfers fail (R249): whether it arrives. Each retry is
counted, and a line that does not arrive has the port schedule a recalibration window. -/
def State.transfer (s : State) (n line : Nat) : Bool × State :=
  let k := s.transfers.look 0 line
  if k = 0 then (true, s)
  else
    let s := { s with transfers := s.transfers.drop line }.modStack n fun x =>
      { x with retries := (x.retries + min k 4) % 2 ^ 32, recalibrate := x.recalibrate || decide (5 ≤ k) }
    (decide (k < 5), s)

/-- With eight refreshes owed, a channel issues the next before any further access but that of a running sequence (R209). -/
def State.refreshFirst (s : State) (n ch : Nat) : State :=
  if (s.chan n ch).owed < 8 then s else s.modChan n ch fun c => { c with owed := c.owed - 1 }

/-- A read of a line of device memory at its base die, its codeword carried over the stack port to a reader there. A stack whose
port domain is off makes the access wait. -/
def State.readLine (s : State) (src rd line : Nat) : Read × State :=
  match s.locate (64 * line) with
  | .absent st => (.fault st, s)
  | .cell g _ =>
    let n := g / 32
    if (s.stack n).asleep then
      if s.domainFailed (32 + n) then (.fault Code.domainFault, s.domainTold (32 + n))
      else (.wait, s.modStack n fun x => { x with wakeWaits := true })
    else
      let s := s.modStack n fun x =>
        if rd = 0 then { x with portLines := x.portLines + 1 } else { x with unitLines := x.unitLines + 1 }
      let s := if rd = 1 then s else s.refreshFirst n (g % 32)
      match s.readCells n (g % 32) line src rd with
      | (.data b, s) =>
        if rd != 0 then (.data b, s)
        else
          match s.transfer n line with
          | (true, s) => (.data b, s)
          | (false, s) => (.fault Code.ueData, s.logRead n (g % 32) line 2 rd [] false)
      | r => r

/-! ### Write combining (R207) -/

/-- All 64 bytes of a line. -/
abbrev fullMask : Nat := 2 ^ 64 - 1

/-- A partial entry leaves the buffer: the codeword is read, corrected, merged and written; over a line that cannot be
read the merge is a poison word (R207, R248). -/
def State.evictEntry (s : State) (n ch : Nat) (e : WcbEntry) : State :=
  let s := s.modChan n ch fun c => { c with wcb := c.wcb.filter (·.line != e.line) }
  match s.readCells n ch e.line (unitStation n ch) 4 with
  | (.data b, s) => s.writeCells e.line (mergeMask b e.bytes e.mask)
  | (_, s) => s.poisonLine e.line

/-- Every entry of a channel leaves its buffer. -/
def State.drainChannel (s : State) (n ch : Nat) : State :=
  (s.chan n ch).wcb.foldl (fun s e => s.evictEntry n ch e) s

/-- Every buffer of a stack drains, as before self-refresh. -/
def State.drainStack (s : State) (n : Nat) : State := (List.range 32).foldl (fun s ch => s.drainChannel n ch) s

/-- Bytes of a line enter the write-combining buffer of its channel; an entry that becomes full goes to the cells, and
a write that finds no free entry sends the oldest away first (R207). -/
def State.combine (s : State) (n ch line : Nat) (b : List Byte) (mask : Nat) : State :=
  let c := s.chan n ch
  match c.wcb.find? (·.line == line) with
  | some e =>
    let m := e.mask ||| mask
    let x := mergeMask e.bytes b mask
    if m = fullMask then
      (s.modChan n ch fun c => { c with wcb := c.wcb.filter (·.line != line) }).writeCells line x
    else s.modChan n ch fun c =>
      { c with wcb := c.wcb.map fun e => if e.line = line then { e with bytes := x, mask := m } else e }
  | none =>
    if mask = fullMask then s.writeCells line b
    else
      let s := match c.wcb with
        | e :: _ => if c.wcb.length < 64 then s else s.evictEntry n ch e
        | [] => s
      s.modChan n ch fun c => { c with wcb := c.wcb ++ [{ line := line, bytes := b, mask := mask }] }

/-! ### Atomics (R181) -/

/-- Two elements added in their format: modulo for integers, rounded to nearest even otherwise (R93); E8M0 holds powers of two
alone, and the manual states no sum of two (log entry 80). -/
def elementAdd (fmt a b : Nat) : Nat :=
  if fmt = fmtE8M0 then Config.scaleAdd a b % 256 else if fmtIsInt fmt then (a + b) % 2 ^ fmtBits fmt else fpAdd fmt a b

/-- The new value of an atomic: old value, operand, comparand. `op` holds OP of R91 in bits 3 to 0, UINT32 in bit 4, and
from bit 5 up the element format of a scatter-add, 0 for a DATOM. -/
def atomicResult (op old x cmp : Nat) : Nat :=
  let lt (a b : Nat) : Bool := if bit op 4 then decide (a < b) else decide (signed 32 a < signed 32 b)
  if op ≥ 32 then elementAdd (op / 32) old x
  else match op % 16 with
  | 0 => (old + x) % 2 ^ 32
  | 1 => if lt x old then x else old
  | 2 => if lt old x then x else old
  | 3 => x
  | 4 => if old = cmp then x else old
  | 5 => old &&& x
  | 6 => old ||| x
  | 7 => old ^^^ x
  | _ => fpAdd fmtFP32 old x

/-- Bytes an atomic works on. -/
def atomicSize (op : Nat) : Nat := if op ≥ 32 then fmtBits (op / 32) / 8 else 4

/-! ### Performing a write -/

/-- The station of a writer (R64): a core's for a verb, a flow's for a peer, the link's for the companion, a unit's for a sequence. -/
def writerStation : Writer → Nat
  | .verb c k _ => coreStation c k
  | .cache c => coreStation c 13
  | .companion => Obs.ofXl.source
  | .peer f n => (Obs.ofFlow f n).source
  | .sequence _ => 0
  | .device => Obs.ofMgmt.source

/-- The bytes of a line as its next reader finds them, where it can be read. -/
def State.lineNow (s : State) (line : Nat) : List Byte :=
  match s.locate (64 * line) with
  | .cell g _ => (s.gchan g).buffered line (Memory.readList s.mem (64 * line) 64)
  | .absent _ => List.replicate 64 0

/-! #### Nouns in use (R75, R76) -/

/-- Physical address that backs the noun table of partition p: 1 MiB for each partition from 16 MiB up, in the part of
the reserve that belongs to the device (R202; log entry 10). -/
def nounTablePa (p : Nat) : Nat := 0x1000000 + p * 0x100000

/-- The partition whose core set in force holds a core. -/
def State.corePid (s : State) (c k : Nat) : Option Nat :=
  (s.sched.parts.find? fun (_, x) => bit x.cores (12 * c + k)).map (·.1)

/-- The handles a verb's fields name. -/
def Verb.handles (v : Verb) : List Nat :=
  [v.dst, v.srca, v.srcb, v.srcc, v.xa, v.xb].filterMap fun x => match parseOperand x with
    | .noun h => some h
    | _ => none

/-- A JOIN, a common verb (R91). -/
def Verb.isJoin (v : Verb) : Bool := v.opcode % 64 == 1

/-- An entry of a queue has been decoded: it has started, or it stands at the head, which no JOIN keeps a verb from; the S queue
runs one verb at a time (R75, R85, R97). -/
def decodedAmong (q : Queue) : List QEntry → List QEntry
  | [] => []
  | e :: r =>
    if e.phase == .waiting then [e]
    else if e.verb.isJoin || q == .s then [e]
    else e :: decodedAmong q r

/-- The state with every decoded verb of a core changed. -/
def CoreSt.eachDecoded (x : CoreSt) (f : QEntry → QEntry) : CoreSt :=
  let on (q : Queue) (es : List QEntry) : List QEntry :=
    (decodedAmong q es).map f ++ es.drop (decodedAmong q es).length
  { x with queues := ⟨on .m x.queues.m, on .v x.queues.v, on .s x.queues.s, on .d x.queues.d⟩ }

/-- An entry of a noun table is about to be rewritten: each verb that has decoded it keeps the descriptor it read (R75, R76). -/
def State.keepNouns (s : State) (line : Nat) : State :=
  if line < nounTablePa 0 / 64 || nounTablePa 16 / 64 ≤ line then s
  else
    let p := (64 * line - nounTablePa 0) / 0x100000
    let h := (64 * line - nounTablePa p) / 64
    let old := parseNoun (s.lineNow line)
    { s with cores := s.cores.map fun (i, x) =>
        if s.corePid (i / 12) (i % 12) = some p then
          (i, x.eachDecoded fun e =>
            if e.verb.handles.contains h && (e.nouns.seek h).isNone then { e with nouns := e.nouns.put h old } else e)
        else (i, x) }

/-! #### Copies of the writer's cluster (R169, R174) -/

/-- The cluster whose cache a writer shares. -/
def writerCluster : Writer → Option Nat
  | .verb c _ _ => some c
  | .cache c => some c
  | _ => none

/-- Bytes laid over a line where the mask has bits. -/
def overlayMask (n : Nat) (old new : List Byte) (mask : Nat) : List Byte :=
  (List.range n).map fun i => if bit mask i then new.getD i 0 else old.getD i 0

/-- A base die has answered a write of a cluster's party: a copy that its cluster's cache holds takes the bytes written but where it
is dirty itself, so that the write is performed for the whole cluster (R169); a copy whose write-back this was is clean, and leaves
the cache where it was to leave it (R174). -/
def State.settleCache (s : State) (op : WriteOp) : State :=
  match writerCluster op.writer with
  | none => s
  | some c =>
    match (s.cluster c).cache.seek (op.line / 2) with
    | none => s
    | some x =>
      let half := op.line % 2
      let wrote := match op.atomic with
        | some (code, off, _, _) => (2 ^ atomicSize code - 1) * 2 ^ off
        | none => op.mask
      let m := (if op.back then 0 else wrote * 2 ^ (64 * half)) &&& (2 ^ 128 - 1 - x.dirty % 2 ^ 128)
      let y : CacheLine :=
        { x with bytes := if m = 0 then x.bytes else overlayMask 128 x.bytes (List.replicate (64 * half) 0 ++ s.lineNow op.line) m,
                 back := if op.back then putBit x.back half false else x.back }
      s.modCluster c fun cl =>
        { cl with cache := if y.leaving && y.back = 0 && y.dirty = 0 then cl.cache.drop (op.line / 2)
                           else cl.cache.put (op.line / 2) y }

/-! #### Atomics that are not atomic with one another (R182) -/

/-- Two atomics are atomic with respect to each other. -/
def mutuallyAtomic (w : Writer) (scope : Nat) (v : Writer) (scope' : Nat) : Bool :=
  match writerParty w, writerParty v with
  | some p, some q => p.reaches scope q && q.reaches scope' p
  | _, _ => true

/-- What an atomic at a location reads: what stands there, or, where the last atomic there has not completed and the two are not
atomic with respect to each other, possibly what stood there before it, whose update is then lost (R182; log entry 89). -/
def State.contended (s : State) (spot : Spot) (w : Writer) (scope now : Nat) : Nat × State :=
  match s.recent.find? fun r => r.spot == spot && !(mutuallyAtomic w scope r.writer r.scope) with
  | none => (now, s)
  | some r =>
    let (i, s) := s.drawBelow 2
    (if i = 1 then r.before else now, s)

/-- An atomic of a verb has been performed: the last at its location until the verb completes. -/
def State.noteAtomic (s : State) (spot : Spot) (w : Writer) (scope tag before : Nat) : State :=
  let others := s.recent.filter fun r => r.spot != spot
  match w with
  | .verb _ _ _ => { s with recent := { spot := spot, writer := w, scope := scope, tag := tag, before := before } :: others }
  | _ => { s with recent := others }

/-- A write or an atomic is performed at its base die: its status and, for an atomic, the old value. -/
def State.perform (s : State) (op : WriteOp) : (Status × Nat) × State :=
  match s.locate (64 * op.line) with
  | .absent st => ((st, 0), s)
  | .cell g _ =>
    let n := g / 32
    let ch := g % 32
    let (arrived, s) := (s.modStack n fun x => { x with portLines := x.portLines + 1 }).transfer n op.line
    let s := s.refreshFirst n ch
    if !arrived then ((Code.ueData, 0), s)
    else
    let s := s.keepNouns op.line
    if op.poison then
      ((Code.ok, 0), (s.modChan n ch fun c => { c with wcb := c.wcb.filter (·.line != op.line) }).poisonLine op.line)
    else
      match op.atomic with
      | none => ((Code.ok, 0), s.combine n ch op.line op.bytes op.mask)
      | some (code, off, x, cmp) =>
        match s.readCells n ch op.line (writerStation op.writer) 0 with
        | (.data b, s) =>
          let size := atomicSize code
          let spot := Spot.baseDie (64 * op.line + off)
          let now := leAt b off size
          let (old, s) := s.contended spot op.writer op.scope now
          let new := leBytes size (atomicResult code old x cmp)
          ((Code.ok, old), (s.noteAtomic spot op.writer op.scope op.tag now).combine n ch op.line (overlay b off new)
            ((2 ^ size - 1) * 2 ^ off))
        | (.fault st, s) => ((st, 0), s)
        | (.wait, s) => ((Code.ok, 0), s)

/-! ### Claims (R185, R239, R240) -/

/-- A sequence claims a 64 KiB block, from its admission until its summary is written (R185); once its claim has ended, only the
writes held for it keep it (R186). -/
def Seq.claims (q : Seq) (block : Nat) : Bool :=
  (q.phase == .reading || q.phase == .sending) && (q.readBlocks.contains block || q.writeBlocks.contains block)

/-- The admitted sequence, first in admission order, whose claim holds a write of `w` into a block. -/
def State.claimant (s : State) (w : Writer) (block : Nat) : Option Nat :=
  let hits := s.seqs.filter fun (i, q) => q.claims block && w != .sequence i
  match (hits.map fun (_, q) => q.order).min? with
  | none => none
  | some o => (hits.find? fun (_, q) => q.order == o).map (·.1)

/-- A sequence in flight. -/
def State.seq (s : State) (id : Nat) : Seq := s.seqs.look {} id

/-- The state with a sequence changed. -/
def State.modSeq (s : State) (id : Nat) (f : Seq → Seq) : State := { s with seqs := s.seqs.upd {} id f }

/-- A sequence raises CLAIM_OVERLAP, once (R185). -/
def State.noteOverlap (s : State) (id : Nat) : State :=
  let q := s.seq id
  let s := if q.overlap then s
    else s.event Cls.bsu Code.claimOverlap (Obs.ofUnit q.leadStack q.leadChannel) q.pid q.desc.tag 0
  s.modSeq id fun q => { q with overlap := true }

/-- A write is held under a claim; a full store makes its writer wait (R240). -/
def State.holdWrite (s : State) (n id : Nat) (op : WriteOp) : State :=
  let s := s.noteOverlap id
  if (s.stack n).held.length < 1024 then
    (s.modStack n fun x => { x with held := x.held ++ [(id, op)], heldFull := x.heldFull || x.held.length == 1023 }).modSeq id
      fun q => { q with held := q.held + 1 }
  else
    (s.modStack n fun x => { x with heldWaiting := x.heldWaiting ++ [(id, op)], heldFull := true }).modSeq id
      fun q => { q with full := true }

/-! ### Companion copies (R342) -/

/-- COH_D is in force and the link is up. -/
def State.cohD (s : State) : Bool := (s.xl.state == .up || s.xl.state == .retraining) && bit s.xl.feat 0

/-- The companion holds a copy that a write by `w` must withdraw: the directory lists it, or will once a recall has made room (R343). -/
def State.companionHolds (s : State) (w : Writer) (line : Nat) : Bool :=
  s.cohD && w != .companion && (s.xl.directory.contains line || s.xl.fills.contains line)

/-- A write waits for the withdrawal of the companion's copy; the request is sent once. -/
def State.withdraw (s : State) (line : Nat) (op : Option WriteOp) : State :=
  let first := !(s.xl.withdraws.any fun w => w.1 == line)
  let s := if first then s.emit (.withdraw line) else s
  { s with xl := { s.xl with withdraws := s.xl.withdraws ++ [(line, op)] } }

/-! ### A write arrives -/

/-- A write or an atomic reaches its base die: it waits for the stack, is held under a claim, waits for a withdrawal,
or is performed. No answer means that it waits. -/
def State.writeBase (s : State) (op : WriteOp) : Option (Status × Nat) × State :=
  match s.locate (64 * op.line) with
  | .absent st => (some (st, 0), s.settleCache op)
  | .cell g _ =>
    let n := g / 32
    if (s.stack n).asleep then
      if s.domainFailed (32 + n) then (some (Code.domainFault, 0), (s.domainTold (32 + n)).settleCache op)
      else (none, s.modStack n fun x => { x with wakeWaits := true, wakeQueue := x.wakeQueue ++ [op] })
    else
      match s.claimant op.writer (op.line / 1024) with
      | some id => (none, s.holdWrite n id op)
      | none =>
        if s.companionHolds op.writer op.line then (none, s.withdraw op.line (some op))
        else
          let (r, s) := s.perform op
          (some r, s.settleCache op)

/-- What a base die answers to a write reaches its writer (R205, R340): the companion's link, a fabric flow, a verb. -/
def State.deliver (s : State) (op : WriteOp) (r : Status × Nat) : State :=
  match op.writer with
  | .companion => s.emit (.writeReply (if r.1 = Code.ok then Code.ok else Code.windowRange))
  | .peer _ _ => { s with answers := s.answers ++ [(op.writer, op.tag, r.1, r.2)] }
  | .verb _ _ _ =>
    if r.1 != Code.ok then { s with answers := s.answers ++ [(op.writer, op.tag, r.1, op.va)] }
    else if op.atomic.isSome then { s with answers := s.answers ++ [(op.writer, op.tag, r.1, r.2)] } else s
  | .cache _ => s
  | .sequence _ => s
  | .device => s

/-- A write arrives and its answer, if it has one at once, goes to its writer. -/
def State.submit (s : State) (op : WriteOp) : State :=
  match s.writeBase op with
  | (none, s) => s
  | (some r, s) => s.deliver op r

/-- The claim of a sequence has ended: its held writes are released in arrival order, then the writers that waited for
it; each is performed or held on by another claim (R186, R240). Writes that waited for room under other claims are held now, and
count there (R224). -/
def State.releaseClaim (s : State) (id : Nat) : State :=
  (List.range 12).foldl (fun s n =>
    let x := s.stack n
    let mine := (x.held ++ x.heldWaiting).filter (·.1 == id)
    if mine.isEmpty then s
    else
      let others := x.held.filter (·.1 != id)
      let room := 1024 - others.length
      let waiting := x.heldWaiting.filter (·.1 != id)
      let s := s.modStack n fun x =>
        { x with held := others ++ waiting.take room, heldWaiting := waiting.drop room }
      let s := (waiting.take room).foldl (fun s (i, _) => s.modSeq i fun q => { q with held := q.held + 1 }) s
      mine.foldl (fun s h => s.submit { h.2 with released := some id }) s) s

/-- The companion has given up a line: a dirty copy is written first, under the writes that waited, unless a claim holds it and them
(R185, R342). -/
def State.withdrawn (s : State) (line : Nat) (dirty : Option (List Byte)) : State :=
  let mine := (s.xl.withdraws.filter (·.1 == line)).filterMap (·.2)
  let s := { s with xl := { s.xl with withdraws := s.xl.withdraws.filter (·.1 != line),
                                      directory := s.xl.directory.filter (· != line),
                                      fills := s.xl.fills.filter (· != line) } }
  let s := match dirty with
    | none => s
    | some b => s.submit { writer := .device, line := line, bytes := b, mask := fullMask }
  mine.foldl (fun s op => s.submit op) s

/-- An uncorrectable error in a write-combining entry: its line is stored as a poison word (R262). -/
def State.strikeCombining (s : State) (line : Nat) : State :=
  match s.locate (64 * line) with
  | .cell g _ =>
    if (s.gchan g).wcb.any (·.line == line) then
      (s.modChan (g / 32) (g % 32) fun c => { c with wcb := c.wcb.filter (·.line != line) }).poisonLine line
    else s
  | .absent _ => s

/-- Physical errors that a command's accesses meet at the base dies: wrong symbols and fixed cells, which stay until a write or for
good, failing transfers, and uncorrectable errors in write-combining buffers and the held-write store, where a held write becomes a
poison word (R247, R249, R250, R262). -/
def State.strike (s : State) (u : Upset) : State :=
  let s := u.cells.foldl (fun s (line, d) => { s with upsets := s.upsets.put line (Deviation.xor (s.upsets.look [] line) d) }) s
  let s := u.stuck.foldl (fun s (line, c) => { s with stuck := s.stuck.put line c }.fixCells line) s
  let s := u.transfers.foldl (fun s (line, n) => { s with transfers := s.transfers.put line n }) s
  let s := match u.combining with
    | none => s
    | some line => s.strikeCombining line
  match u.heldWrite with
  | none => s
  | some line =>
    { s with stk := s.stk.map fun (n, x) => (n, { x with held := x.held.map fun (i, op) =>
        (i, if op.line = line then { op with poison := true, atomic := none } else op) }) }

end Sys2Proof.Machine
end

