-- ==== Sys2Proof/Machine/Transport.lean ====
section
/-!
DEFINITION. Sending on a fabric flow: a sequenced packet takes its PSN and leaves while the flow's window has room, and
waits otherwise; the frame a packet travels in (R362, R363, R365, R366, R372).
-/

namespace Sys2Proof.Machine

/-! ### The frame on the wire (R363, R365) -/

/-- The port record of the structure in force; a disabled one without. -/
def State.fabRec (s : State) (f : Nat) : FabRec :=
  ((s.gram.image.bind fun i => i.fab.find? (·.port == f)).getD { port := f })

/-- FAB_IP as one number, byte 0 lowest. -/
def FabPort.ip (x : FabPort) : Nat := x.ip0 + x.ip1 * 2 ^ 64

/-- A number in n bytes, the most significant first, as Ethernet, IPv6 and UDP fields are sent. -/
def beBytes (n v : Nat) : List Byte := (leBytes n v).reverse

/-- The 32 bytes of a transport header (R365). -/
def packetHeader (p : Packet) : List Byte :=
  leBytes 1 (p.typ + 16 * p.ver) ++ leBytes 1 (b2n p.ceEcho + 2 * b2n p.first + 4 * b2n p.last) ++ leBytes 2 p.dflow
    ++ leBytes 2 p.sflow ++ leBytes 2 p.len ++ leBytes 4 p.psn ++ leBytes 4 p.recvPsn ++ leBytes 4 p.donePsn
    ++ leBytes 1 p.status ++ leBytes 1 p.op ++ leBytes 2 0 ++ leBytes 8 p.addr

/-- The sum of a message's 16-bit words, the most significant byte first, an odd byte at the end before a zero. -/
def sumWords : List Byte → Nat
  | [] => 0
  | [a] => 256 * a.toNat
  | a :: b :: r => 256 * a.toNat + b.toNat + sumWords r

/-- The UDP checksum of a message, which is never all zero: the complement of the ones' complement sum, sent as all ones where it is 0. -/
def udpChecksum (b : List Byte) : Nat :=
  let c := 0xFFFF - ((sumWords b - 1) % 0xFFFF + 1)
  if c = 0 then 0xFFFF else c

/-- The Ethernet frame of a packet on flow n of port f: with CARRIAGE 1 inside IPv6 and UDP; one shorter than 64 bytes is filled up
with zeros (R359). -/
def State.frame (s : State) (f n : Nat) (p : Packet) : List Byte :=
  let x := s.port f
  let fl := s.flow f n
  let body := packetHeader p ++ p.payload
  let tag := if fl.vlanEn then beBytes 2 0x8100 ++ beBytes 2 (0x2000 * fl.pcp + fl.vid) else []
  let ether (t : Nat) : List Byte := beBytes 6 fl.dmac ++ beBytes 6 x.mac ++ tag ++ beBytes 2 t
  let data :=
    if (s.fabRec f).carriage = 0 then ether x.etype ++ body
    else
      let size := 8 + body.length
      let ends := leBytes 16 x.ip ++ leBytes 16 fl.peerIp
      let ports := beBytes 2 (0xC000 + n) ++ beBytes 2 x.udp ++ beBytes 2 size
      ether 0x86DD ++ beBytes 4 (0x60000000 + 0x100000 * (4 * fl.dscp + 2) + 0x400 * f + n) ++ beBytes 2 size ++ leBytes 1 17
        ++ leBytes 1 64 ++ ends ++ ports
        ++ beBytes 2 (udpChecksum (ends ++ beBytes 4 size ++ beBytes 4 17 ++ ports ++ body)) ++ body
  let whole := data ++ List.replicate (60 - data.length) 0
  whole ++ leBytes 4 (crc32 whole)

/-! ### Sending -/

/-- The packet types of R366 that carry a sequence number of their own. -/
def sequenced (typ : Nat) : Bool := [2, 3, 5, 9, 10, 11].contains typ

/-- A packet leaves on flow n of port f, in its frame, with the flow's addresses and receive state (R365). -/
def State.flowEmit (s : State) (f n : Nat) (p : Packet) : State :=
  let fl := s.flow f n
  let q := { p with dflow := fl.rflow, sflow := n, recvPsn := fl.expect, donePsn := fl.done, ceEcho := fl.ceEcho }
  let m := s.frame f n q
  (s.modPort f fun x => { x with bytesOut := (x.bytesOut + m.length) % 2 ^ 64 }).emit (.packet f n q m)

/-- Atomics sent and not answered. -/
def Flow.openAtomics (fl : Flow) : Nat := (fl.waiters.filter (·.atomic)).length

/-- A sequenced packet may leave: the window has room, and at most 64 atomics lack an answer (R372). -/
def Flow.mayLeave (fl : Flow) (p : Packet) : Bool :=
  fl.state == .open_ && decide (fl.window.length < fl.cwnd) && (p.typ != 5 || decide (fl.openAtomics < 64))

/-- What a request is known by while it is not done at the peer. -/
def waiterKey (p : Packet) (w : Waiter) : Nat :=
  if p.typ = 2 then p.addr else if p.typ = 9 then w.key + (if p.last then 0x10000 else 0) else w.key

/-- A sequenced packet takes the next PSN and leaves; a request joins those that are not done. -/
def State.flowLeave (s : State) (f n : Nat) (p : Packet) (w : Waiter) : State :=
  let psn := (s.flow f n).sendPsn
  let p := { p with psn := psn }
  let s := s.modFlow f n fun fl =>
    { fl with sendPsn := (psn + 1) % 2 ^ 32, window := fl.window ++ [(p, 0)],
              waiters := if [2, 3, 5, 9].contains p.typ then fl.waiters ++ [{ w with psn := psn, key := waiterKey p w, atomic := p.typ == 5 }]
                         else fl.waiters }
  s.flowEmit f n p

/-- A sequenced packet is handed to a flow: it leaves, or waits behind those before it. -/
def State.flowSend (s : State) (f n : Nat) (p : Packet) (w : Waiter) : State :=
  let fl := s.flow f n
  if fl.queue.isEmpty && fl.mayLeave p then s.flowLeave f n p w
  else s.modFlow f n fun fl => { fl with queue := fl.queue ++ [(p, w)] }

/-- The packets that wait leave while they may, in order. -/
def State.flowPump (f n : Nat) : List (Packet × Waiter) → State → State
  | [], s => s.modFlow f n fun fl => { fl with queue := [] }
  | (p, w) :: r, s =>
    if (s.flow f n).mayLeave p then State.flowPump f n r (s.flowLeave f n p w)
    else s.modFlow f n fun fl => { fl with queue := (p, w) :: r }

/-- The PSN the next packet handed to a flow will take: those waiting go first. -/
def Flow.nextPsn (fl : Flow) : Nat := (fl.sendPsn + fl.queue.length) % 2 ^ 32

end Sys2Proof.Machine
end

