-- ==== Sys2Proof/Machine/Access.lean ====
section
/-!
DEFINITION. How a party of a cluster reaches memory: translation, the cluster cache, ordered accesses at the base die,
companion memory behind the link cache, peers' memory over fabric flows, and the local store (R74, R76, R167 to R176,
R201 to R203, R255, R262, R344, R368).
-/

namespace Sys2Proof.Machine

/-! ### Translation (R201, R202) -/

/-- Where a translated address leads. -/
inductive Target where
  /-- device physical address in the stacks -/
  | dram (pa : Nat)
  /-- offset in the local store of core k of cluster c, through its window -/
  | window (c k off : Nat)
  | companion (addr : Nat)
  | peer (f n addr : Nat)
  deriving DecidableEq, Repr

/-- The device virtual address of partition p's noun table (R70). -/
def PartRec.nounTable (r : PartRec) : Nat := 2 ^ r.vabits - 64 * r.nouns

/-- A translation entry's reserved bits (R201). -/
def entryReserved (e : Nat) : Bool := bits e 9 7 != 0 || bits e 62 2 != 0

/-- Why an access does not go on: a fault, or something it waits for. -/
inductive Halt where
  | fault (st : Status)
  | wait
  deriving DecidableEq, Repr

/-- One entry of a translation table, read at the base die of its line by the walker of station `src`; the walk waits for a stack
whose port domain is off (R192). -/
def State.readEntry (s : State) (src table i : Nat) : Except Halt Nat × State :=
  let pa := table + 8 * i
  match s.readLine src 0 (pa / 64) with
  | (.data b, s) => (.ok (leAt b (pa % 64) 8), s)
  | (.fault st, s) => (.error (.fault st), s)
  | (.wait, s) => (.error .wait, s)

/-- The key of a 128-byte block of a peer's memory. -/
def peerKey (f n addr : Nat) : Nat := (1024 * f + n) * 2 ^ 52 + addr

/-- The 128-byte line a translated address lies in, as one number over all of them. -/
def Target.key : Target → Nat
  | .dram pa => 4 * (pa / 128)
  | .window c k off => 4 * (((12 * c + k) * 0x200000 + off) / 128) + 1
  | .companion addr => 4 * (addr / 128) + 2
  | .peer f n addr => 4 * (peerKey f n addr / 128) + 3

/-- A leaf judged for an access at byte `off` of its page (checks 1 to 4 of R202). -/
def State.judgeLeaf (s : State) (p e off : Nat) (big write : Bool) : Except Status Target :=
  let addr := bits e 16 36 * 0x10000
  let pa := addr + off
  let target := bits e 3 2
  if target = 3 || (target == 0 && decide (addr ≥ 2 ^ 40)) || (target == 2 && decide (bits e 5 4 > 7))
      || (big && addr % pageBytes != 0) then .error Code.transFault
  else if write && !bit e 2 then .error Code.transPerm
  else if target = 1 then .ok (.companion pa)
  else if target = 2 then .ok (.peer (bits e 5 4) (bits e 52 10) pa)
  else if write && s.inModelRegion pa then .error Code.transPerm
  else if s.inReserve pa || (decide (0xFF00000000 ≤ pa) && decide (pa < 0xFF01000000)) then .error Code.transPerm
  else if 0xF000000000 ≤ pa && pa < 0xF000000000 + 192 * pageBytes then
    let g := (pa - 0xF000000000) / pageBytes
    if !(bit (s.psched p).cores g) then .error Code.transPerm
    else if !(s.corePresent (g / 12) (g % 12)) || (s.core (g / 12) (g % 12)).run = .offline then .error Code.addrRange
    else .ok (.window (g / 12) (g % 12) (pa % pageBytes))
  else
    match s.locate pa with
    | .absent st => .error st
    | .cell _ _ => .ok (.dram pa)

/-- An access at a device virtual address of partition p, translated by a walk of its table (R201, R202). The noun
table at the top of the space is the device's own mapping (R70). -/
def State.translate (s : State) (src p va : Nat) (write : Bool) : Except Halt Target × State :=
  match s.gram.image.bind (·.part p) with
  | none => (.error (.fault Code.transFault), s)
  | some r =>
    let judged (x : Except Status Target) : Except Halt Target := x.mapError Halt.fault
    if va ≥ 2 ^ r.vabits then (.error (.fault Code.transFault), s)
    else if va ≥ r.nounTable then (.ok (.dram (nounTablePa p + (va - r.nounTable))), s)
    else if va ≥ 2 ^ r.vabits - 0x200000 then (.error (.fault Code.transFault), s)
    else
      let bad (e : Nat) : Bool := !bit e 0 || entryReserved e
      let next (e : Nat) : Except Halt Nat :=
        if bad e || !bit e 1 || !(s.inReserve (bits e 16 36 * 0x10000)) then .error (.fault Code.transFault)
        else .ok (bits e 16 36 * 0x10000)
      match s.readEntry src (p * 0x10000) (va / 2 ^ 39) with
      | (.error st, s) => (.error st, s)
      | (.ok e2, s) =>
        match next e2 with
        | .error st => (.error st, s)
        | .ok t1 =>
          match s.readEntry src t1 (bits va 30 9) with
          | (.error st, s) => (.error st, s)
          | (.ok e1, s) =>
            match next e1 with
            | .error st => (.error st, s)
            | .ok t0 =>
              match s.readEntry src t0 (bits va 21 9) with
              | (.error st, s) => (.error st, s)
              | (.ok e0, s) =>
                if bad e0 then (.error (.fault Code.transFault), s)
                else if bit e0 1 then
                  if r.pages = 1 then (.error (.fault Code.transFault), s)
                  else
                    match next e0 with
                    | .error st => (.error st, s)
                    | .ok t64 =>
                      match s.readEntry src t64 (bits va 16 5) with
                      | (.error st, s) => (.error st, s)
                      | (.ok e, s) =>
                        if bad e || bit e 1 then (.error (.fault Code.transFault), s)
                        else (judged (s.judgeLeaf p e (va % 0x10000) false write), s)
                else if r.pages = 2 then (.error (.fault Code.transFault), s)
                else (judged (s.judgeLeaf p e0 (va % pageBytes) true write), s)

/-! ### Accesses of a verb -/

/-- Who accesses: a verb of a core's queue, or, with k = 12, the cluster's control core, with what its accesses carry. -/
structure Issuer where
  c : Nat
  k : Nat
  q : Queue
  /-- number of the verb in its core -/
  id : Nat
  pid : Nat
  upset : Upset := {}
  /-- not a verb: an access of the load unit or the control core, which meets a peer's bytes as free values -/
  direct : Bool := false
  /-- the verb may not start yet: only the checks of R103, which it meets at the head of its queue, are made -/
  decode : Bool := false
  deriving DecidableEq, Repr

/-- The issuer's station (R64). -/
def Issuer.station (a : Issuer) : Nat := coreStation a.c a.k

/-- The issuer as a writer at a base die. -/
def Issuer.writer (a : Issuer) : Writer := if a.k < 12 then .verb a.c a.k a.q else .cache a.c

/-- A computation of a verb on the state, which a fault or a wait ends; what it has done so far stands. -/
abbrev VM := ExceptT Halt (StateM State)

/-- The verb faults. -/
def fail {α : Type} (st : Status) : VM α := throw (.fault st)

/-- A change of the state. -/
def change (f : State → State) : VM Unit := modify f

/-- A free value below n. -/
def freeBelow (n : Nat) : VM Nat := modifyGet fun s => s.drawBelow n

/-- A change of the issuing core; a control core has none of a core's registers. -/
def State.modIssuer (s : State) (a : Issuer) (f : CoreSt → CoreSt) : State := if a.k < 12 then s.modCore a.c a.k f else s

/-- The fault address register of a stored-data or SRAM fault (R268), and the fault. -/
def memFault {α : Type} (a : Issuer) (addr : Nat) (local_ : Bool) (st : Status) : VM α := do
  change fun s => s.modIssuer a fun x =>
    { x with stat := { x.stat with faultAddr := addr % 2 ^ 52, faultLocal := local_, faultStatus := st },
             trapAddr := addr % 2 ^ 52 }
  fail st

/-- Statuses that MEMFAULT_VA records (R268, R282). -/
def isStoredFault (st : Status) : Bool := st == Code.ueData || st == Code.poisoned || st == Code.ueSram

/-- A fault at a device virtual address. -/
def vaFault {α : Type} (a : Issuer) (va : Nat) (st : Status) : VM α :=
  if isStoredFault st then memFault a va false st else do
    -- a translation fault's address travels in the trap's DETAIL1 (R104)
    change fun s => s.modIssuer a fun x => { x with trapAddr := va }
    fail st

/-- What a reader met, as a step of the verb. -/
def ofRead (a : Issuer) (va : Nat) : Read → VM (List Byte)
  | .data b => pure b
  | .fault st => vaFault a va st
  | .wait => throw .wait

/-- An access waits for the stack of an address whose port domain is off (R192). -/
def awaitStack (pa : Nat) : VM Unit := do
  let s ← get
  match s.locate pa with
  | .cell g _ =>
    if (s.stack (g / 32)).asleep then
      if s.domainFailed (32 + g / 32) then
        change fun s => s.domainTold (32 + g / 32)
        fail Code.domainFault
      change fun s => s.modStack (g / 32) fun x => { x with wakeWaits := true }
      throw .wait
  | .absent _ => pure ()

/-- The translation of an access of a verb. Every wait for a stack arises here, before the access does anything. -/
def walk (a : Issuer) (va : Nat) (write : Bool) : VM Target := do
  let r ← modifyGet fun s => s.translate a.station a.pid va write
  match r with
  | .ok (.dram pa) => do
    awaitStack pa
    pure (.dram pa)
  | .ok t => pure t
  | .error (.fault st) => vaFault a va st
  | .error .wait => throw .wait

/-! ### The cluster cache (R168, R171, R255) -/

/-- A half of a line that is not read. -/
def noHalf : Read := .data (List.replicate 64 0)

/-- The two stack lines of a cache line, joined; the first failure stands. -/
def joinHalves : Read → Read → Read
  | .data a, .data b => .data (a ++ b)
  | .wait, _ => .wait
  | .fault st, _ => .fault st
  | .data _, .wait => .wait
  | .data _, .fault st => .fault st

/-- The stack writes of a cache line's write-back: the dirty bytes of each half (R168, R171, R255). -/
def CacheLine.writeBack (x : CacheLine) (line : Nat) (w : Writer) (tag : Nat) : List WriteOp :=
  [0, 1].filterMap fun h =>
    let m := bits x.dirty (64 * h) 64
    if m = 0 then none
    else some { writer := w, line := 2 * line + h, bytes := slice x.bytes (64 * h) 64, mask := m,
                poison := x.poisoned && m != fullMask, tag := tag, back := true }

/-- A cluster's cache writes a line back, and keeps it clean or gives it up. The copy stays, for its cluster to read, until the base
die has performed the write-back (R169, R174). -/
def State.writeBackLine (s : State) (c line : Nat) (w : Writer) (tag : Nat) (drop : Bool) : State :=
  match (s.cluster c).cache.seek line with
  | none => s
  | some x =>
    let ops := x.writeBack line w tag
    let y : CacheLine := { x with dirty := 0, leaving := x.leaving || drop,
                                  back := ops.foldl (fun m op => putBit m (op.line % 2) true) x.back }
    if ops.isEmpty && x.back = 0 && drop then s.modCluster c fun cl => { cl with cache := cl.cache.drop line }
    else ops.foldl (fun s op => s.submit op) (s.modCluster c fun cl => { cl with cache := cl.cache.put line y })

/-- A write-back of the line has not been performed yet. -/
def State.writingBack (s : State) (c line : Nat) : Bool :=
  match (s.cluster c).cache.seek line with
  | none => false
  | some x => x.back != 0

/-- A line that is to join a cluster's cache finds a way of its set free, or one of the sixteen lines there is written back and given
up; the manual leaves open the index and which (R17, R174; log entry 90). -/
def State.cacheRoom (s : State) (c line : Nat) : State :=
  let all := (s.cluster c).cache
  if all.length < 16 then s
  else
    let mates := all.filter fun (l, x) => l != line && !x.leaving && Config.cacheSet l % 8192 == Config.cacheSet line % 8192
    if mates.length < 16 then s
    else
      let (i, s) := s.drawBelow mates.length
      s.writeBackLine c (mates.getD i (0, {})).1 (.cache c) 0 true

/-- A line joins a cluster's cache. -/
def State.cacheKeep (s : State) (c line : Nat) (x : CacheLine) : State :=
  (s.cacheRoom c line).modCluster c fun cl => { cl with cache := cl.cache.put line x }

/-- A 128-byte line as a reader of station `src` finds it in cluster c: the cached copy, or the stack's, of which it reads the
halves it needs and which the cache keeps where the hint allocates (R74, R169, R255). -/
def State.cacheRead (s : State) (c src line halves : Nat) (alloc : Bool) : Read × State :=
  match (s.cluster c).cache.seek line with
  | some x => (if x.poisoned then .fault Code.poisoned else .data x.bytes, s)
  | none =>
    let (r0, s) := if alloc || bit halves 0 then s.readLine src 0 (2 * line) else (noHalf, s)
    let (r1, s) := if alloc || bit halves 1 then s.readLine src 0 (2 * line + 1) else (noHalf, s)
    let r := joinHalves r0 r1
    let keep (x : CacheLine) (s : State) : State := s.cacheKeep c line x
    if !alloc then (r, s)
    else
      match r with
      | .data b => (r, keep { bytes := b } s)
      | .fault st =>
        if st = Code.ueData || st = Code.poisoned then
          (r, keep { bytes := List.replicate 128 0, poisoned := true } s)
        else (r, s)
      | .wait => (r, s)

/-- A write of a line by a party of the cluster ends its control core's reservation of it (R183). -/
def State.unreserve (s : State) (c line : Nat) : State :=
  if (s.cluster c).reservation = some line then s.modCluster c fun cl => { cl with reservation := none } else s

/-- A write of bytes of a 128-byte line goes to the base dies of the line's halves. -/
def aroundStore (a : Issuer) (va line : Nat) (b : List Byte) (mask : Nat) : VM Unit := do
  change fun s => s.unreserve a.c line
  for h in [0, 1] do
    let m := bits mask (64 * h) 64
    if m != 0 then
      let r ← modifyGet fun s => s.writeBase
        { writer := a.writer, line := 2 * line + h, bytes := slice b (64 * h) 64, mask := m, tag := a.id, va := va }
      match r with
      | none => pure ()
      | some (st, _) => if st != Code.ok then vaFault a va st

/-- A cached line takes bytes of a write, with their dirty bits. -/
def State.storeCached (s : State) (c line : Nat) (x : CacheLine) (b : List Byte) (mask : Nat) : State :=
  let y : CacheLine := { x with bytes := overlayMask 128 x.bytes b mask, dirty := x.dirty ||| mask, leaving := false }
  (s.unreserve c line).modCluster c fun cl => { cl with cache := cl.cache.put line y }

/-- A write of bytes of a 128-byte line by a verb: into the cached copy, into a copy the hint allocates, or around the
cache to the base die (R74, R169). -/
def storeLine (a : Issuer) (va line : Nat) (b : List Byte) (mask : Nat) (alloc around : Bool) : VM Unit := do
  let s ← get
  if around then
    change fun s => s.writeBackLine a.c line a.writer a.id true
    aroundStore a va line b mask
  else
    match (s.cluster a.c).cache.seek line with
    | some x => change fun s => s.storeCached a.c line x b mask
    | none =>
      if !alloc then aroundStore a va line b mask
      else if mask = 2 ^ 128 - 1 then change fun s => (s.cacheRoom a.c line).storeCached a.c line {} b mask
      else
        let r ← modifyGet fun s => s.cacheRead a.c a.station line 3 true
        match r with
        | .data _ => pure ()
        | .fault st => if st = Code.ueData || st = Code.poisoned then pure () else vaFault a va st
        | .wait => throw .wait
        let s ← get
        change fun s' => s'.storeCached a.c line ((s.cluster a.c).cache.look {} line) b mask

/-! ### Companion memory (R344, R347) -/

/-- The link is up. -/
def State.linkUp (s : State) : Bool := s.xl.state == .up || s.xl.state == .retraining

/-- Device accesses to companion memory go through the link cache (R344). -/
def State.linkCaches (s : State) : Bool :=
  bit s.xl.feat 1 && (match s.gram.image with
    | none => true
    | some i => i.cacheComp == 1)

/-- A companion line that is to join the link cache finds a way of its set free, or a line there that is not watched is given up, a
dirty one written back; which is a free choice. A set of sixteen watched lines has no room (R344; log entry 90). -/
def State.linkRoom (s : State) (line : Nat) : Bool × State :=
  let all := s.xl.cache
  if all.length < 16 then (true, s)
  else
    let mates := all.filter fun (l, _) => l != line && Config.linkSet l % 4096 == Config.linkSet line % 4096
    if mates.length < 16 then (true, s)
    else
      let others := mates.filter fun (_, x) => !x.watched
      if others.isEmpty then (false, s)
      else
        let (i, s) := s.drawBelow others.length
        let (l, x) := others.getD i (0, { bytes := [] })
        let s := { s with xl := { s.xl with cache := s.xl.cache.drop l } }
        (true, if x.dirty then s.emit (.compWrite (64 * l) .relaxed x.bytes) else s)

/-- A companion line joins the link cache where its set has room. -/
def State.linkKeep (s : State) (line : Nat) (x : LinkLine) : State :=
  let (room, s) := s.linkRoom line
  if room then { s with xl := { s.xl with cache := s.xl.cache.put line x } } else s

/-- An access to companion memory that cannot be made: the address is kept in XL_FAULT (R355). -/
def compFault {α : Type} (addr : Nat) (st : Status) : VM α := do
  change fun s => { s with xl := { s.xl with faultAddr := addr } }
  fail st

/-- An access to companion memory may be made: the link is up and the companion does not answer with an error. -/
def compReady (a : Issuer) (addr : Nat) : VM Unit := do
  let s ← get
  if !s.linkUp then compFault addr Code.linkDown
  else if a.upset.companion then compFault addr Code.compAccess
  else pure ()

/-- A 64-byte line of companion memory: the link cache's copy, or what the companion holds, a free value. -/
def compLine (a : Issuer) (addr : Nat) : VM (List Byte) := do
  compReady a addr
  let s ← get
  match s.xl.cache.seek (addr / 64) with
  | some x => pure x.bytes
  | none =>
    let b ← modifyGet fun s => s.drawBytes 64
    if s.linkCaches then change fun s => s.linkKeep (addr / 64) { bytes := b }
    pure b

/-- The runs of bytes a mask marks: offset and length of each. -/
def runsFrom (mask : Nat) : Nat → Nat → List (Nat × Nat) → List (Nat × Nat)
  | 0, _, acc => acc.reverse
  | n + 1, i, acc =>
    if bit mask i then
      match acc with
      | (o, l) :: r => if o + l = i then runsFrom mask n (i + 1) ((o, l + 1) :: r) else runsFrom mask n (i + 1) ((i, 1) :: acc)
      | [] => runsFrom mask n (i + 1) [(i, 1)]
    else runsFrom mask n (i + 1) acc

/-- The runs of bytes marked in a line of n bytes. -/
def runs (n mask : Nat) : List (Nat × Nat) := runsFrom mask n 0 []

/-- A device write reaches companion memory: the link cache keeps it dirty where it may cache, and otherwise it is sent
(R344, R346). -/
def State.compWrite (s : State) (addr : Nat) (b : List Byte) (mask : Nat) (order : Ordering) : State :=
  match s.xl.cache.seek (addr / 64) with
  | some x =>
    let y : LinkLine := { x with bytes := overlayMask 64 x.bytes b mask, dirty := true }
    { s with xl := { s.xl with cache := s.xl.cache.put (addr / 64) y } }
  | none => (runs 64 mask).foldl (fun s (o, l) => s.emit (.compWrite (addr + o) order (slice b o l))) s

/-! ### Peers' memory (R368) -/

/-- A flow can carry an access outward: the port is up and the flow open (R68, R367). -/
def State.flowUsable (s : State) (f n pid : Nat) : Option Status :=
  let owner := match s.gram.image with
    | none => 0xFE
    | some i => match i.fab.find? (·.port == f) with
      | none => 0xFE
      | some r => r.owner
  let po := s.port f
  if !(s.portPresent f) then some Code.stationAbsent
  else if owner != pid && owner != 0xFF then some Code.stationForeign
  else if po.state == .down then some Code.portDown
  else if po.state != .up && po.state != .retraining then some Code.stationOffline
  else
    match (s.flow f n).state with
    | .open_ => if (s.flow f n).stream then some Code.flowInvalid else none
    | .error => some (s.flow f n).err
    | _ => some Code.stationOffline

/-- An access that is no verb's: of the load unit or of a control core. -/
def Issuer.noVerb (a : Issuer) : Bool := a.direct || decide (12 ≤ a.k)

/-- The verb of the issuer in its queue. -/
def State.entry (s : State) (a : Issuer) : QEntry :=
  if a.noVerb then {} else (((s.core a.c a.k).queues.get a.q).find? (·.id == a.id)).getD {}

/-- The state with the issuer's verb changed. -/
def State.modEntry (s : State) (a : Issuer) (f : QEntry → QEntry) : State :=
  if a.noVerb then s
  else s.modCore a.c a.k fun x =>
    { x with queues := x.queues.set ((x.queues.get a.q).map fun e => if e.id = a.id then f e else e) a.q }

/-- The bytes of a line that later verbs of the issuer's queue have written already: they stand (R86). -/
def State.laterWrote (s : State) (a : Issuer) (key : Nat) : Nat :=
  if a.noVerb then 0
  else ((((s.core a.c a.k).queues.get a.q).dropWhile (·.id != a.id)).drop 1).foldl (fun m e => m ||| e.wrote.look 0 key) 0

/-- A verb has written bytes of a line; they are kept while an earlier verb of its queue has not completed (R86). -/
def State.noteWrote (s : State) (a : Issuer) (key mask : Nat) : State :=
  match (s.core a.c a.k).queues.get a.q with
  | e :: _ => if a.noVerb || e.id = a.id then s else s.modEntry a fun e => { e with wrote := e.wrote.upd 0 key (· ||| mask) }
  | [] => s

/-- A 128-byte block of a peer's memory: what has been received, or a request for it and a wait. -/
def peerLine (a : Issuer) (f n addr : Nat) : VM (List Byte) := do
  let s ← get
  let e := s.entry a
  let key := peerKey f n addr
  match e.got.seek key with
  | some b => pure b
  | none =>
    match s.flowUsable f n a.pid with
    | some st => fail st
    | none =>
      if a.direct then return ← modifyGet fun s => s.drawBytes 128
      if !e.asked.contains key then
        change fun s => s.modEntry a fun e => { e with asked := e.asked ++ [key] }
        change fun s => s.flowSend f n { typ := 3, len := 128, addr := addr, last := true }
          { writer := a.writer, tag := a.id, key := key }
      throw .wait

/-- A write to a peer's memory is accepted by the local port (R169). -/
def peerStore (a : Issuer) (f n addr : Nat) (b : List Byte) (mask : Nat) : VM Unit := do
  let s ← get
  match s.flowUsable f n a.pid with
  | some st => fail st
  | none =>
    for (o, l) in runs 128 mask do
      change fun s =>
        let psn := (s.flow f n).nextPsn
        let s := s.flowSend f n { typ := 2, len := l, addr := addr + o, payload := slice b o l, last := true } {}
        if a.k < 12 then s.modCore a.c a.k fun x => { x with sent := x.sent.put (1024 * f + n) ((psn + 1) % 2 ^ 32) }
        else s.modCluster a.c fun x => { x with ccSent := x.ccSent.put (1024 * f + n) ((psn + 1) % 2 ^ 32) }

/-! ### The local store (R167, R262) -/

/-- Bytes of a core's local store as its queues read them; a word with an uncorrectable error faults. -/
def localRead (a : Issuer) (c k off n : Nat) : VM (List Byte) := do
  let x := (← get).core c k
  match x.lsBad.find? fun w => decide (w < off + n) && decide (off < w + 8) with
  | some w => memFault a w true Code.ueSram
  | none => pure (Memory.readList x.localStore off n)

/-- A write of marked bytes of a core's local store; a word written whole is sound again. -/
def State.localWrite (s : State) (c k off n : Nat) (b : List Byte) (mask : Nat) : State :=
  s.modCore c k fun x =>
    { x with localStore := (runs n mask).foldl (fun m (o, l) => Memory.writeList m (off + o) (slice b o l)) x.localStore,
             lsBad := x.lsBad.filter fun w =>
               !(decide (off ≤ w) && decide (w + 8 ≤ off + n) && (List.range 8).all fun i => bit mask (w - off + i)) }

/-! ### Lines of a noun's space -/

/-- The path of a noun (R74). -/
def Noun.path (n : Noun) : Path := { space := n.space, alloc := decide (n.scope ≤ 1) }

/-- The halves of a line of a local store that are needed. -/
def localHalves (a : Issuer) (c k off halves : Nat) : VM (List Byte) := do
  let lo ← if bit halves 0 then localRead a c k off 64 else pure (List.replicate 64 0)
  let hi ← if bit halves 1 then localRead a c k (off + 64) 64 else pure (List.replicate 64 0)
  pure (lo ++ hi)

/-- A 128-byte line of a space, by line number; `halves` says which of its 64-byte halves are needed. -/
def readSpace (a : Issuer) (p : Path) (line halves : Nat) : VM (List Byte) := do
  if p.space = 1 then localHalves a a.c a.k (128 * line) halves
  else
    let va := 128 * line
    match ← walk a va false with
    | .dram pa =>
      if p.ordered then
        change fun s => s.writeBackLine a.c (pa / 128) a.writer a.id true
        if (← get).writingBack a.c (pa / 128) then throw .wait
        let lo ← if bit halves 0 then modifyGet fun s => s.readLine a.station 0 (pa / 64) else pure noHalf
        let hi ← if bit halves 1 then modifyGet fun s => s.readLine a.station 0 (pa / 64 + 1) else pure noHalf
        ofRead a va (joinHalves lo hi)
      else
        let r ← modifyGet fun s => s.cacheRead a.c a.station (pa / 128) halves p.alloc
        ofRead a va r
    | .window c k off => localHalves a c k off halves
    | .companion addr => do
      let lo ← compLine a addr
      let hi ← compLine a (addr + 64)
      pure (lo ++ hi)
    | .peer f n addr => peerLine a f n addr

/-- Where a line of a space lies for a write. -/
def writeTarget (a : Issuer) (p : Path) (line : Nat) : VM Target :=
  if p.space = 1 then pure (.window a.c a.k (128 * line)) else walk a (128 * line) true

/-- A write of marked bytes of a 128-byte line of a space, but those a later verb of the queue has written (R86). A write to the noun
table goes around the cache (R76). -/
def writeSpace (a : Issuer) (p : Path) (line : Nat) (b : List Byte) (mask : Nat) : VM Unit := do
  let va := 128 * line
  let t ← writeTarget a p line
  let later := (← get).laterWrote a t.key
  let mask := mask &&& (2 ^ 128 - 1 - later % 2 ^ 128)
  change fun s => s.noteWrote a t.key mask
  match t with
  | .dram pa =>
    let s ← get
    let table := match s.gram.image.bind (·.part a.pid) with
      | none => false
      | some r => decide (va ≥ r.nounTable)
    storeLine a va (pa / 128) b mask p.alloc (p.ordered || table)
  | .window c k off => change fun s => s.localWrite c k off 128 b mask
  | .companion addr => do
    compReady a addr
    change fun s => s.compWrite addr (slice b 0 64) (bits mask 0 64) p.order
    change fun s => s.compWrite (addr + 64) (slice b 64 64) (bits mask 64 64) p.order
  | .peer f n addr => peerStore a f n addr b mask

/-! ### Elements through a noun -/

/-- What earlier commands of a verb, or this one, have read of a line (R134, R165). -/
def Path.loadKey (p : Path) (line : Nat) : Nat := 2 * line + p.space

/-- The lines the command reads are read and kept, and the verb goes on once it has read all it needs. -/
def preload (a : Issuer) (p : Path) (halves : Nat → Nat) (ls : List Nat) : VM Unit := do
  match if a.noVerb then none else a.upset.reads with
  | none => pure ()
  | some now =>
    for l in ls do
      if now.contains l && (((← get).entry a).loaded.seek (p.loadKey l)).isNone then
        let b ← readSpace a p l (halves l)
        change fun s => s.modEntry a fun e => { e with loaded := e.loaded.put (p.loadKey l) (leNat b) }
    let e := (← get).entry a
    if ls.any fun l => (e.loaded.seek (p.loadKey l)).isNone then throw .wait

/-- The lines of n bits that pieces lie on, in ascending order. -/
def linesOf (n : Nat) (ps : List (Int × Nat)) : List Nat :=
  ps.foldl (fun acc (x, w) =>
    let a := x.toNat / n
    let b := (x.toNat + w - 1) / n
    insertLine b (insertLine a acc)) []

/-- Lines read once each, as numbers of 1,024 bits. -/
def readEach (a : Issuer) (p : Path) (halves : Nat → Nat) : List Nat → VM (Tbl Nat)
  | [] => pure []
  | l :: r => do
    let v ← match ((← get).entry a).loaded.seek (p.loadKey l) with
      | some v => pure v
      | none => do pure (leNat (← readSpace a p l (halves l)))
    let t ← readEach a p halves r
    pure (Tbl.put l v t)

/-- Lines read, as far as earlier commands of the verb have not read them. -/
def readLines (a : Issuer) (p : Path) (halves : Nat → Nat) (ls : List Nat) : VM (Tbl Nat) := do
  preload a p halves ls
  readEach a p halves ls

/-- Bits from lines of n bits that have been read. -/
def takeBits (n : Nat) (t : Tbl Nat) (x : Int) (w : Nat) : Nat :=
  let i := x.toNat
  let v := Tbl.look 0 t (i / n) + Tbl.look 0 t (i / n + 1) * 2 ^ n
  bits v (i % n) w

/-- An element from its pieces; the planes a read leaves out count as zero (R157). -/
def assemble (n : Nat) (t : Tbl Nat) (width : Nat) (ps : List (Int × Nat)) : Nat :=
  let v := ps.foldl (fun acc (x, w) => acc * 2 ^ w + takeBits n t x w) 0
  v * 2 ^ (width - (ps.map (·.2)).foldl (· + ·) 0)

/-- The halves of each line that a read through a noun takes: all but where it leaves planes out (R157). -/
def View.halves (v : View) (ps : List (Int × Nat)) : Nat → Nat :=
  if v.noun.layout = 4 && v.noun.planesRead < v.noun.w then
    let used := linesOf 512 ps
    fun l => b2n (used.contains (2 * l)) + 2 * b2n (used.contains (2 * l + 1))
  else fun _ => 3

/-- The elements of a noun at some indices: pad positions read the pad value (R160), every line is read once. -/
def readElems (a : Issuer) (v : View) (p : Path) (idx : List (List Int)) : VM (List Nat) := do
  let n := v.noun
  let real := idx.filter fun i => !n.isPad i
  let ps := real.flatMap v.readPieces
  let t ← readLines a p (v.halves ps) (linesOf 1024 ps)
  pure (idx.map fun i => if n.isPad i then (padRaw n.format n.padval).getD 0 else assemble 1024 t n.w (v.readPieces i))

/-- Bits to write, gathered by lines of n bits: value and mask of n bits each. -/
def gatherBits (n : Nat) (acc : Tbl (Nat × Nat)) (x : Int) (w v : Nat) : Tbl (Nat × Nat) :=
  let i := x.toNat
  let put (acc : Tbl (Nat × Nat)) (line lo w v : Nat) : Tbl (Nat × Nat) :=
    if w = 0 then acc
    else
      let (val, m) := Tbl.look (0, 0) acc line
      let ones := (2 ^ w - 1) * 2 ^ lo
      acc.put line ((val &&& (2 ^ n - 1 - ones)) + v % 2 ^ w * 2 ^ lo, m ||| ones)
  let first := min w (n - i % n)
  put (put acc (i / n) (i % n) first v) (i / n + 1) 0 (w - first) (v / 2 ^ first)

/-- The pieces of an element with the bits each takes, most significant piece first. -/
def split (ps : List (Int × Nat)) (v : Nat) : List (Int × Nat × Nat) :=
  (ps.foldr (fun (x, w) (acc : Nat × List (Int × Nat × Nat)) => (acc.1 / 2 ^ w, (x, w, acc.1 % 2 ^ w) :: acc.2))
    (v, [])).2

/-- A write covers some byte of a line in part, so that the line is read first (R73, R158). -/
def partial_ (m : Nat) : Bool := (List.range 128).any fun i => bits m (8 * i) 8 != 0 && bits m (8 * i) 8 != 255

/-- Marked bits of lines written: bytes covered in part are read and merged first (R73, R158). -/
def writeEach (a : Issuer) (p : Path) : Tbl (Nat × Nat) → VM Unit
  | [] => pure ()
  | (l, (val, m)) :: r => do
    let touched := (List.range 128).foldl (fun acc i => if bits m (8 * i) 8 = 0 then acc else putBit acc i true) 0
    let old ← if partial_ m then readSpace a p l 3 else pure (List.replicate 128 0)
    let merged := (leNat old &&& (2 ^ 1024 - 1 - m)) ||| val
    writeSpace a p l (leBytes 128 merged) touched
    writeEach a p r

/-- Every line is found ready to be written: translated, its stack awake, no write-back of it on its way before an ordered write, and
a peer's bytes that a write covers in part received. -/
def readyLines (a : Issuer) (p : Path) (t : Tbl (Nat × Nat)) : VM Unit := do
  if p.space != 1 then
    for (l, _, m) in t do
      match ← walk a (128 * l) true with
      | .dram pa =>
        if p.ordered then
          change fun s => s.writeBackLine a.c (pa / 128) a.writer a.id true
          if (← get).writingBack a.c (pa / 128) then throw .wait
      | .peer f n addr =>
        if partial_ m then
          let _ ← peerLine a f n addr
      | _ => pure ()

/-- The lines the command writes are written; the rest stay for later commands of the verb (R173), and lines that are to be written
last stay while any other does. -/
def putLines (a : Issuer) (p : Path) (t : Tbl (Nat × Nat)) (last : Bool := false) : VM Unit := do
  match if a.noVerb then none else a.upset.part with
  | none => writeEach a p t
  | some now => do
    let held := last && !((← get).entry a).todo.isEmpty
    let mine (x : Nat × Nat × Nat) : Bool := !held && now.contains x.1
    writeEach a p (t.filter mine)
    let rest := t.filter fun x => !(mine x)
    change fun s => s.modEntry a fun e =>
      { e with todo := e.todo ++ rest.map fun (l, v, m) => { path := p, line := l, value := v, mask := m, last := last } }

/-- Marked bits of lines written, once every line has been found ready to be written: nothing has been written when an
access waits. -/
def writeLines (a : Issuer) (p : Path) (t : Tbl (Nat × Nat)) : VM Unit := do
  readyLines a p t
  putLines a p t

/-- The positions of layout 3's last block beyond the window, which a writer fills with zero (R154). -/
def View.blockFill (v : View) : List (List Int) :=
  let n := v.noun
  if n.layout = 3 then
    let tail := n.blocks * n.blockWidth - n.padded 0
    (List.range tail).flatMap fun (i : Nat) => (List.range n.rows).map fun (r : Nat) =>
      [(n.padded 0 + i : Nat) - (n.lo 0 : Int), (r : Int) - n.lo 1]
  else []

/-- A position lies in layout 3's last block. -/
def View.inLastBlock (v : View) (i : List Int) : Bool :=
  (i.getD 0 0 + v.noun.lo 0) / v.noun.blockWidth == (v.noun.blocks : Int) - 1

/-- The lines that elements written through a noun take: the positions given, materialised pads with them where they are named, and
the block fill of layout 3 where that block is written (R154, R161, R162). -/
def View.linesFor (v : View) (xs : List (List Int × Nat)) : Tbl (Nat × Nat) :=
  let fill := if v.noun.layout = 3 && xs.any fun x => v.inLastBlock x.1 then v.blockFill.map fun i => (i, 0) else []
  (xs ++ fill).foldl (fun acc (i, raw) =>
    (split (v.pieces i) raw).foldl (fun acc (x, w, b) => gatherBits 1024 acc x w b) acc) []

/-- Elements written through a noun. -/
def writeElems (a : Issuer) (v : View) (p : Path) (xs : List (List Int × Nat)) : VM Unit := writeLines a p (v.linesFor xs)

/-- The pad positions a write through the noun covers with their value: none where padding is virtual (R161, R162). -/
def Noun.padWrites (n : Noun) : List (List Int × Nat) :=
  if n.material then
    (n.paddedIndices.filter n.isPad).map fun i => (i, (padRaw n.format n.padval).getD 0)
  else []

/-- Bytes of a device virtual range, read line by line. -/
def readBytes (a : Issuer) (p : Path) (addr n : Nat) : VM (List Byte) := do
  if n = 0 then pure []
  else
    let t ← readLines a p (fun _ => 3) ((List.range ((addr + n - 1) / 128 - addr / 128 + 1)).map (· + addr / 128))
    pure ((List.range n).map fun i => BitVec.ofNat 8 (takeBits 1024 t (8 * (addr + i) : Nat) 8))

/-- The lines of bytes from an address up. -/
def bytesLines (addr : Nat) (b : List Byte) : Tbl (Nat × Nat) :=
  (List.range b.length).foldl (fun acc i => gatherBits 1024 acc (8 * (addr + i) : Nat) 8 (b.getD i 0).toNat) []

/-- Bytes written from an address up. -/
def writeBytes (a : Issuer) (p : Path) (addr : Nat) (b : List Byte) : VM Unit := writeLines a p (bytesLines addr b)

end Sys2Proof.Machine
end

