-- ==== Sys2Proof/Machine/Verbs.lean ====
section
/-!
DEFINITION. The dispatcher, the start, completion and fault of verbs, and the common verbs (R64 to R69, R77 to R79, R82,
R84 to R98, R103 to R106, R110, R111, R177, R178, R180).
-/

namespace Sys2Proof.Machine

/-! ### Ownership and reach (R40, R67, R68, R315) -/

/-- The partition that owns a cluster. -/
def State.clusterPid (s : State) (c : Nat) : Option Nat :=
  (s.sched.parts.find? fun (_, x) => bits x.cores (12 * c) 12 != 0).map (·.1)

/-- A cluster is being switched and its dispatchers have stopped: its cores are in no serving step any more (steps 1 and
2 of R327). -/
def State.clusterHeld (s : State) (c : Nat) : Bool :=
  (s.sched.switching.seek c).isSome && !(s.srv.groups.any fun (_, g) =>
    let x := (s.srv.ports.look {} g.port).peer
    decide (x < 0x4000) && x / 1024 == c)

/-- A cluster's core islands take up no verb: a switch holds the cluster, or its allotment does not cover 1.0 GHz (R377, R391). -/
def State.clusterStopped (s : State) (c : Nat) : Bool := s.clusterHeld c || bit s.pwr.starved c

/-- A partition number for an event record, 0xFF for none. -/
def pidField (p : Option Nat) : Nat := p.getD 0xFF

/-- The fields of a station identifier (R64). -/
inductive Station where
  | core (c k port : Nat)
  | control (c port : Nat)
  | cache (c port : Nat)
  | unit (n ch port : Nat)
  | flow (f n : Nat)
  | xomon (n : Nat)
  | serving (port : Nat)
  | management (endpoint : Nat)
  | reserved
  deriving DecidableEq, Repr

/-- A station identifier read (R64, R65). -/
def station (x : Nat) : Station :=
  match bits x 14 2 with
  | 0 =>
    let c := bits x 10 4
    let port := bits x 0 6
    match bits x 6 4 with
    | 12 => if port < 16 then .control c port else .reserved
    | 13 => if port < 32 then .cache c port else .reserved
    | 14 => .reserved
    | 15 => .reserved
    | k => if port < 48 then .core c k port else .reserved
  | 1 => if bits x 10 4 < 12 && bits x 0 5 ≤ 16 then .unit (bits x 10 4) (bits x 5 5) (bits x 0 5) else .reserved
  | 2 => if bits x 10 4 < 8 then .flow (bits x 10 4) (bits x 0 10) else if bits x 10 4 = 15 then .xomon (bits x 0 10)
         else .reserved
  | _ => if bits x 8 6 = 0 then (if bits x 0 8 < 64 then .serving (bits x 0 8) else .reserved)
         else if bits x 8 6 < 3 && bits x 0 8 = 0 then .management (bits x 8 6) else .reserved

/-- Cluster c has a core on this part. -/
def State.clusterPresent (s : State) (c : Nat) : Bool := decide (c < 16) && bits s.fuses.cores (12 * c) 12 != 0

/-- OWNER of a fabric port's record; nobody without one. -/
def State.fabOwner (s : State) (f : Nat) : Nat :=
  match s.gram.image.bind fun i => i.fab.find? (·.port == f) with
  | none => 0xFE
  | some r => r.owner

/-- The stacks partition p's BSU record holds. -/
def State.bsuMask (s : State) (p : Nat) : Nat :=
  match s.gram.image.bind fun i => i.bsu.find? (·.pid == p) with
  | none => 0
  | some r => r.stk

/-- The SERVED mask in force. -/
def State.servedMask (s : State) : Nat :=
  match s.gram.image with
  | none => 0
  | some i => i.served

/-- The drain of a cluster's switch has ended: its bindings are undone, and what is sent to it from then on is foreign (R327). -/
def State.moving (s : State) (c : Nat) : Bool := (s.sched.switching.seek c).any (·.moving)

/-- What R68 answers to partition p's use of a station: nothing where it may be used. The unit of a stack that has been trained and
stands in self-refresh is in service: what is sent to it wakes the stack (R192, R378). -/
def State.reach (s : State) (p x : Nat) : Option Status :=
  let foreign (ok : Bool) (offline : Bool) : Option Status :=
    if !ok then some Code.stationForeign else if offline then some Code.stationOffline else none
  match station x with
  | .core c k _ =>
    if !(s.corePresent c k) then some Code.stationAbsent
    else foreign (s.clusterPid c == some p && s.corePid c k == some p && !(s.moving c)) ((s.core c k).run == .offline)
  | .control c _ => if !(s.clusterPresent c) then some Code.stationAbsent else foreign (s.clusterPid c == some p && !(s.moving c)) false
  | .cache c _ => if !(s.clusterPresent c) then some Code.stationAbsent else foreign (s.clusterPid c == some p && !(s.moving c)) false
  | .unit n ch _ =>
    if !(s.chanPresent n ch) then some Code.stationAbsent
    else foreign (bit (s.bsuMask p) n)
      ((s.chan n ch).state == .out || (s.chan n ch).state == .testing
        || !((s.stack n).state == .inService || ((s.stack n).state == .selfRefresh && (s.stack n).trained)))
  | .flow f n =>
    if !(s.portPresent f) then some Code.stationAbsent
    else foreign (s.fabOwner f == p || s.fabOwner f == 0xFF)
      (((s.port f).state != .up && (s.port f).state != .retraining) || (s.flow f n).state != .open_)
  | .xomon _ => none
  | .serving _ => foreign (bit s.servedMask p) false
  | .management _ => some Code.stationForeign
  | .reserved => some Code.stationAbsent

/-! ### Ports and credits (R77 to R79, R82) -/

/-- The number of slots of a consumer's buffer. -/
def Port.slots (p : Port) : Nat := p.noun.ext (p.noun.rank - 1)

/-- Bytes of one tile of a port: its tile noun's elements, or a slot of its buffer noun. -/
def Port.tileBytes (p : Port) : Nat :=
  let n := p.noun.count
  (if p.consumer then n / p.slots else n) * p.noun.w / 8

/-- A size a tile may have (R78). -/
def tileSizeOk (bits_ : Nat) : Bool := bits_ % 1024 == 0 && decide (1024 ≤ bits_) && decide (bits_ ≤ 65536 * 8)

/-- A stream port of a core. -/
def CoreSt.port (x : CoreSt) (n : Nat) : Port := x.ports.look {} n

/-- The core with a stream port changed. -/
def CoreSt.modPort (x : CoreSt) (n : Nat) (f : Port → Port) : CoreSt := { x with ports := x.ports.upd {} n f }

/-- A credit of consumer `source`, of partition `pid`, sets out for producer `target`: over a stream flow as a CREDIT packet, and
otherwise over the device's networks; to a station that R68 does not let it address nothing goes (R68, R79, R369). A Xomon flow
takes none: its pace is the link's own (R80; log entry 25). -/
def State.sendCredit (s : State) (pid source target : Nat) : State :=
  if (s.reach pid target).isSome then s
  else
    match station target with
    | .flow f n => s.flowSend f n { typ := 10, op := 1, last := true } {}
    | .xomon _ => s
    | _ => { s with transit := s.transit ++ [.credit source target] }

/-- Some credits. -/
def State.sendCredits (s : State) (pid source target n : Nat) : State :=
  (List.range n).foldl (fun s _ => s.sendCredit pid source target) s

/-- A consumer port's head slot has been consumed: the head moves on and its credit returns (R79, R92). -/
def State.releaseSlot (s : State) (c k port : Nat) : State :=
  let p := (s.core c k).port port
  if !p.consumer || p.arrived = 0 then s
  else
    (s.modCore c k fun x => x.modPort port fun p =>
      { p with head := (p.head + 1) % p.slots, arrived := p.arrived - 1 }).sendCredit (pidField (s.corePid c k))
        (coreStation c k + port) p.peer

/-! ### Verbs by their effect on others of their queue -/

/-- The common verbs' low bits, and a verb's low six bits. -/
def Verb.low (v : Verb) : Nat := v.opcode % 64

def Verb.isFence (v : Verb) : Bool := v.low == 4

/-- A release or an acquire (R177, R178): DCOPY and DATOM only. -/
def Verb.ordered (v : Verb) (b : Nat) : Bool := (v.opcode == 0xC8 || v.opcode == 0xCD) && bit v.order b

/-- A DCOPY that uses the check-value unit (R265). -/
def Verb.usesCv (v : Verb) : Bool := v.opcode == 0xC8 && bits v.mode 0 2 != 0

/-- No later verb of the queue starts until it completes (R94, R97, R178, R180). -/
def Verb.blocks (v : Verb) : Bool := v.isJoin || v.isFence || v.opcode == 0xCE || v.ordered 1

/-- It starts only when every earlier verb of its queue has completed (R86, R94, R97, R177, R180). -/
def Verb.alone (v : Verb) : Bool := v.after || v.isJoin || v.isFence || v.opcode == 0xCE || v.ordered 0

/-- MMAs of different array modes (R132). -/
def Verb.otherArray (v w : Verb) : Bool := v.opcode == 0x08 && w.opcode == 0x08 && bit v.mode 0 != bit w.mode 0

/-- One waits for the other by a unit they share: the address FIFO, the check-value unit, the arrays in their mode (R102, R132,
R265). -/
def Verb.conflicts (v w : Verb) : Bool :=
  (v.opcode == 0xCB && w.opcode == 0xCB) || (v.usesCv && w.usesCv) || v.otherArray w

/-- Verbs of a queue in flight at once (R85). -/
def flightLimit : Queue → Nat
  | .m => 4
  | .v => 4
  | .s => 1
  | .d => 8

/-- An entry that waits may start behind those ahead of it. -/
def mayStart (q : Queue) (ahead : List QEntry) (e : QEntry) : Bool :=
  decide (ahead.length < flightLimit q) && (!e.verb.alone || ahead.isEmpty)
    && ahead.all fun x => !x.verb.blocks && !x.verb.conflicts e.verb

/-- The verb an operation's command is about: the nth of that opcode that has started and goes on, or past those the next to
start, with whether it starts now. -/
def pickVerb (q : Queue) (op nth : Nat) (es : List QEntry) : Option (QEntry × Bool) :=
  let ahead := es.takeWhile (·.phase != .waiting)
  match (ahead.filter fun e => e.phase == .started && e.verb.opcode == op)[nth]? with
  | some e => some (e, false)
  | none =>
    match es.drop ahead.length with
    | e :: _ => if e.verb.opcode == op && mayStart q ahead e then some (e, true) else none
    | [] => none

/-- The verb of an opcode that stands at the head of its queue, decoded, and may not start yet (R95, R103). -/
def headVerb (q : Queue) (op : Nat) (es : List QEntry) : Option QEntry :=
  match (decodedAmong q es).getLast? with
  | some e => if e.phase == .waiting && e.verb.opcode == op then some e else none
  | none => none

/-! ### Faults of queues (R104) -/

/-- The accumulator banks an operand field names. -/
def banksOf (field : Nat) : List Nat :=
  match parseOperand field with
  | .acc first count => (List.range count).map (· + first)
  | _ => []

/-- The contents of some accumulator banks become unspecified: free values (R134). -/
def State.scramble (s : State) (c k : Nat) (banks : List Nat) : State :=
  banks.foldl (fun s b =>
    let (v, s) := s.draw
    let ps := (List.range 1024).map fun p => (p, (List.range 8).map fun j => bits v (256 * p + 32 * j) 32)
    s.modCore c k fun x => { x with banks := x.banks.upd {} b fun y =>
      { y with positions := if y.kind = .fp64 then
          (List.range 1024).map fun p => (p, (List.range 4).map fun j => bits v (256 * p + 64 * j) 64) else ps } }) s

/-- An MMA that has started and not completed. -/
def QEntry.mmaInFlight (e : QEntry) : Bool := e.verb.opcode == 0x08 && e.taken == 1 && e.phase != .waiting

/-- The MMAs in flight of a core stop: the contents of their banks are unspecified (R134). -/
def State.stopMmas (s : State) (c k : Nat) : State :=
  s.scramble c k (((s.core c k).queues.m.filter (·.mmaInFlight)).flatMap fun e => banksOf e.verb.dst).eraseDups

/-- A queue faults: QFAULT, CORE_STATE, the control core's interrupt, and the event where CORE_CTL.EVENT is set, with the
address the fault names or zero. A further fault of the same queue, of a verb that was in flight, takes QFAULT's place: R104
does not say whether the first stands (DESIGN CHOICE, log entry 71). -/
def State.queueFault (s : State) (c k : Nat) (q : Queue) (word bank addr : Nat) (st : Status) : State :=
  let s := if q = .m then s.stopMmas c k else s
  let s := s.modCore c k fun x =>
    { x with qfault := x.qfault.set { status := st, word := word % 4096, bank := bank, valid := true } q,
             halted := x.halted.set true q, run := if x.run = .offline then .offline else .faulted }
  let s := s.modCluster c fun x => { x with irq := true }
  let x := s.core c k
  if x.event then
    s.event Cls.verb st (Obs.ofCore c k) (pidField (s.corePid c k))
      (queueNum q + 4 * (word % 4096) + 0x4000 * bank)
      addr
  else s

/-- A fault of a verb known by its number; one that ABORT has taken out of its queue faults nothing any more (R113). -/
def State.verbFault (s : State) (c k : Nat) (q : Queue) (id addr : Nat) (st : Status) : State :=
  match ((s.core c k).queues.get q).find? (·.id == id) with
  | some e => s.queueFault c k q e.word e.bank addr st
  | none => s

/-- An uncorrectable error of an on-chip memory is counted and reported (R262, R269). `memory` is the code of SRAM_LAST,
`unit` 0 to 11 a core. -/
def State.sramError (s : State) (c unit memory : Nat) : State :=
  (s.modCluster c fun x =>
    { x with sramUe := (x.sramUe + 1) % 2 ^ 32, sramMemory := memory, sramUnit := unit, sramLastUe := true }).event
      Cls.clu Code.ueSram (Obs.ofCluster c) (pidField (s.clusterPid c)) memory unit

/-- A correctable error of an on-chip memory is counted (R262, R269). -/
def State.sramCorrected (s : State) (c unit memory : Nat) : State :=
  s.modCluster c fun x => { x with sramCe := (x.sramCe + 1) % 2 ^ 32, sramMemory := memory, sramUnit := unit, sramLastUe := false }

/-- MEMFAULT_VA after an uncorrectable error of a memory whose words have no address in either space of the register: the manual
gives the status alone, so that the address is a free value (R268; log entry 72). -/
def State.noteSram (s : State) (c k : Nat) : State :=
  let (a, s) := s.drawBelow (2 ^ 52)
  let (b, s) := s.drawBelow 2
  s.modCore c k fun x => { x with stat := { x.stat with faultAddr := a, faultLocal := b == 1, faultStatus := Code.ueSram } }

/-! ### Abandoning a core's work (R113, R134, R262, R332) -/

/-- The engine cycles of a verb that ran are charged to the partition whose core set holds the core, by class; the manual
gives no count of them, which is a free value (R319). -/
def State.charge (s : State) (c k : Nat) (q : Queue) : State :=
  match s.corePid c k with
  | none => s
  | some p =>
    let (n, s) := s.draw
    s.modPsched p fun x => match q with
      | .m => { x with acctM := (x.acctM + n) % 2 ^ 64 }
      | .v => { x with acctV := (x.acctV + n) % 2 ^ 64 }
      | .d => { x with acctD := (x.acctD + n) % 2 ^ 64 }
      | .s => x

/-- A core's work is abandoned as by ABORT: dispatcher, verbs in flight, queues, address FIFO and signal counts (R113). What is
still to come for its verbs finds none of them. Verbs that had started are charged as they go (R319). -/
def State.abandon (s : State) (c k : Nat) (run : CoreRun) : State :=
  let ours (w : Writer) : Bool := match w with
    | .verb c' k' _ => c' == c && k' == k
    | _ => false
  let landing (id : Nat) : Bool := (s.core c k).ports.any fun (_, p) => p.landing == some id
  let s := { s with answers := s.answers.filter fun w => !(ours w.1) || landing w.2.1, recent := s.recent.filter fun r => !(ours r.writer) }
  let s := [Queue.m, .v, .d].foldl (fun s q =>
    if ((s.core c k).queues.get q).any fun e => decide (1 ≤ e.taken) then s.charge c k q else s) s
  (s.stopMmas c k).modCore c k fun x =>
    { x with run := run, queues := ⟨[], [], [], []⟩, afifo := [], signals := [], halted := ⟨false, false, false, false⟩,
             disp := { x.disp with fetching := false, stall := .none, stop := false, swap := none },
             ports := x.ports.map fun (n, p) => (n, { p with staged := [] }) }

/-- A core is taken OFFLINE: abandoned as by ABORT, its accumulator contents lost (R332). -/
def State.takeOffline (s : State) (c k : Nat) : State := (s.abandon c k .offline).scramble c k (List.range 8)

/-! ### Errors of on-chip memories (R262) -/

/-- An uncorrectable error in the data of a cached line: a clean line is dropped and filled anew, and a dirty one is poisoned. -/
def State.strikeCache (s : State) (c line : Nat) : State :=
  match (s.cluster c).cache.seek line with
  | none => s
  | some x =>
    if x.dirty = 0 then
      let s := if x.back = 0 then s.modCluster c fun y => { y with cache := y.cache.drop line } else s
      s.sramCorrected c 13 3
    else (s.modCluster c fun y => { y with cache := y.cache.put line { x with poisoned := true } }).sramError c 13 3

/-- Both copies of a cluster cache's tags are bad: every core of the cluster goes offline. -/
def State.strikeTags (s : State) (c : Nat) : State :=
  ((List.range 12).filter fun k => s.corePresent c k && (s.core c k).run != .offline).foldl (fun s k => s.takeOffline c k)
    (s.sramError c 13 4)

/-- Errors that a command meets: at the base dies, in the memories of its core, and in its cluster's cache (R262, R269). -/
def State.strikeCore (s : State) (c k : Nat) (u : Upset) : State :=
  let s := s.strike u
  let s := match u.localStore with
    | none => s
    | some w => (s.modCore c k fun y => { y with lsBad := insertLine (w / 8 * 8) y.lsBad }).sramError c k 0
  let s := (u.corrected.filter (· < 3)).foldl (fun s m => s.sramCorrected c k m) s
  let s := u.cacheData.foldl (fun s (line, bad) => if bad then s.strikeCache c line else s.sramCorrected c 13 3) s
  match u.cacheTags with
  | none => s
  | some false => s.sramCorrected c 13 4
  | some true => s.strikeTags c

/-- Accumulator banks set to a kind, every position zero (R124, R127, R133). -/
def State.setBanks (s : State) (c k : Nat) (banks : List Nat) (kind : AccKind) : State :=
  s.modCore c k fun x => { x with banks := banks.foldl (fun t b => t.put b { kind := kind }) x.banks }

/-! ### Forms of verbs: check 1 of R103 -/

/-- Kinds an operand field may hold, as a sum of these. -/
abbrev kNoun : Nat := 1
abbrev kPort : Nat := 2
abbrev kNone : Nat := 4
abbrev kAcc : Nat := 8
abbrev kCounter : Nat := 16

/-- The kind a field holds. -/
def Operand.kind : Operand → Nat
  | .noun _ => kNoun
  | .port _ _ => kPort
  | .none => kNone
  | .acc _ _ => kAcc
  | .counter _ => kCounter
  | .bad => 0

/-- What a verb's extension word may hold. -/
inductive ExtUse where
  | no
  | offsets
  | scales
  deriving DecidableEq, Repr

/-- A row of the table of R91. -/
structure Form where
  dst : Nat := kNone
  srca : Nat := kNone
  srcb : Nat := kNone
  srcc : Nat := kNone
  /-- MODE bits the row names -/
  mode : Nat := 0
  /-- IMM bits the row names -/
  imm : Nat := 0
  ext : ExtUse := .offsets
  scope : Bool := false
  order : Bool := false
  deriving DecidableEq, Repr

/-- An OFFS byte: its dimension is below 6, and where it is enabled its operand is a noun (R89, R90). -/
def offsOk (b operand : Nat) : Bool :=
  decide (bits b 4 3 < 6) && (decide (b < 128) || (parseOperand operand).kind == kNoun)

/-- Check 1 of R103 as far as a verb's row decides it. Where R91 says 'offsets only' or 'optional, no use', XA and XB hold 0xFFFF, and
a DST port has RELEASE clear, or the verb is invalid: the rule gives neither case another meaning (DESIGN CHOICE, log entry
73). -/
def Form.ok (f : Form) (q : Queue) (v : Verb) : Bool :=
  let takes (kinds x : Nat) : Bool := (parseOperand x).kind != 0 && (parseOperand x).kind &&& kinds != 0
  let dstRelease := match parseOperand v.dst with
    | .port _ r => r
    | _ => false
  let offs := offsOk v.offsDst v.dst && offsOk v.offsA v.srca && offsOk v.offsB v.srcb && offsOk v.offsC v.srcc
  !v.reserved && takes f.dst v.dst && takes f.srca v.srca && takes f.srcb v.srcb && takes f.srcc v.srcc
    && !dstRelease && v.mode &&& (127 - f.mode) == 0 && v.imm &&& (0xFFFFFFFF - f.imm) == 0
    && !(bit v.signal (queueNum q)) && (if f.scope then decide (v.scope ≤ 4) else v.scope == 0)
    && (f.order || v.order == 0)
    && (match f.ext with
        | .no => !v.ext
        | .offsets => v.xa == 0xFFFF && v.xb == 0xFFFF && v.ximm == 0 && offs
        | .scales => (takes (kNoun + kNone) v.xa) && (takes (kNoun + kNone) v.xb) && v.ximm == 0 && offs)

/-! ### Decode: nouns and ports -/

/-- What a verb's meaning works with. -/
structure Ctx where
  a : Issuer
  v : Verb
  deriving DecidableEq, Repr

/-- The core of the verb. -/
def Ctx.core (x : Ctx) : VM CoreSt := do pure ((← get).core x.a.c x.a.k)

/-- The partition record of the verb's core. -/
def Ctx.part (x : Ctx) : VM PartRec := do
  match (← get).gram.image.bind (·.part x.a.pid) with
  | some r => pure r
  | none => fail Code.nounInvalid

/-- A counter (R99). -/
def CoreSt.counter (x : CoreSt) (n : Nat) : Nat := x.counters.look 0 n

/-- What a verb reads of the counters and the predicates: as they stood when it reached the head of its queue (R90, R95, R99). -/
def QEntry.sees (e : QEntry) (x : CoreSt) : Tbl Nat × Nat := e.latched.getD (x.counters, x.preds)

/-- A counter as the verb reads it. -/
def Ctx.counter (x : Ctx) (n : Nat) : VM Nat := do
  let e := (← get).entry x.a
  pure (Tbl.look 0 (e.sees (← x.core)).1 n)

/-- Every decoded verb of a core keeps the counters and predicates it has read, before they change. -/
def State.latch (s : State) (c k : Nat) : State :=
  s.modCore c k fun x => x.eachDecoded fun e => if e.latched.isSome then e else { e with latched := some (x.counters, x.preds) }

/-- A counter takes a value modulo 2^32. -/
def State.putCounter (s : State) (c k n v : Nat) : State :=
  (s.latch c k).modCore c k fun y => { y with counters := y.counters.put n (v % 2 ^ 32) }

/-- The checks of R103 have been passed: a verb that may not start yet goes no further. -/
def decoded (x : Ctx) : VM Unit := if x.a.decode then throw .wait else pure ()

/-- A port's binding is another queue's: STREAM_MISMATCH, unless the verb may not start yet, since an earlier one may still bind it. -/
def notBound {α : Type} (x : Ctx) : VM α := if x.a.decode then throw .wait else fail Code.streamMismatch

/-- The condition holds, or the verb faults with VERB_INVALID. -/
def require (b : Bool) : VM Unit := if b then pure () else fail Code.verbInvalid

/-- The descriptor of a handle, from its entry in the noun table as it stood when the verb decoded it (R70, R75, R76). -/
def fetchNoun (x : Ctx) (h : Nat) : VM Noun := do
  let r ← x.part
  let kept := ((← get).entry x.a).nouns.seek h
  if let some n := kept then return n
  if h ≥ r.nouns then fail Code.nounInvalid
  else
    let pa := nounTablePa x.a.pid + 64 * h
    awaitStack pa
    let m ← modifyGet fun s => s.readLine x.a.station 0 (pa / 64)
    let b ← ofRead x.a (r.nounTable + 64 * h) m
    pure (parseNoun b)

/-- The offsets an OFFS byte gives a noun (R90). A dimension at or beyond its RANK makes the noun's use invalid: R90 gives no status
for it (DESIGN CHOICE, log entry 74). -/
def offsetsOf (x : Ctx) (byte : Nat) (n : Noun) : VM (List Int) := do
  if byte < 128 then pure []
  else
    let d := bits byte 4 3
    if d ≥ n.rank then fail Code.nounInvalid
    else pure (List.replicate d 0 ++ [signed 32 (← x.counter (byte % 16))])

/-- How a verb uses a noun, for the checks of R75. -/
structure NounUse where
  /-- as a write destination -/
  written : Bool := false
  /-- a compressed noun suits the use -/
  packed : Bool := false
  /-- base of a COMPRESS 2 noun -/
  base : Option Noun := none
  deriving DecidableEq, Repr

/-- A noun of a handle with its offsets, unchecked. -/
def fetchView (x : Ctx) (h offs : Nat) : VM View := do
  let n ← fetchNoun x h
  let o ← offsetsOf x offs n
  pure { noun := n, offs := o }

/-- The checks of R75 on a noun as it is used. -/
def checkView (x : Ctx) (v : View) (u : NounUse) : VM View := do
  let r ← x.part
  match v.check r.vabits u.written u.packed u.base with
  | some st => fail st
  | none => pure v

/-- A noun checked in full (check 2 of R103). -/
def useNoun (x : Ctx) (h offs : Nat) (u : NounUse) : VM View := do
  checkView x (← fetchView x h offs) u

/-- An operand that is read or written as elements: a noun, the head slot of a consumer port, or a tile of a producer
port. -/
structure Tensor where
  view : View
  /-- what the indices of a slot end in -/
  tail : List Int := []
  port : Option Nat := none
  release : Bool := false
  deriving DecidableEq, Repr

/-- Rank and extents of the operand, without the slot dimension. -/
def Tensor.rank (t : Tensor) : Nat := t.view.noun.rank - t.tail.length
def Tensor.exts (t : Tensor) : List Nat := t.view.noun.exts.take t.rank
def Tensor.ext (t : Tensor) (d : Nat) : Nat := if d < t.rank then t.view.noun.ext d else 1
def Tensor.fmt (t : Tensor) : Nat := t.view.noun.format
def Tensor.count (t : Tensor) : Nat := t.exts.foldl (· * ·) 1

/-- A source operand: a noun, or a port bound as a consumer for this queue (R92). -/
def useSource (x : Ctx) (field offs : Nat) (u : NounUse) : VM (Option Tensor) := do
  match parseOperand field with
  | .noun h => do
    let v ← useNoun x h offs u
    pure (some { view := v })
  | .port n r => do
    let p := (← x.core).port n
    if p.consumer && p.queue == x.a.q then
      pure (some { view := { noun := p.noun }, tail := [p.head], port := some n, release := r })
    else notBound x
  | _ => pure none

/-- A destination operand: a noun, or a port bound as a producer for this queue (R92). -/
def useDest (x : Ctx) (field offs : Nat) (u : NounUse) : VM (Option Tensor) := do
  match parseOperand field with
  | .noun h => do
    let v ← useNoun x h offs { u with written := true }
    pure (some { view := v })
  | .port n _ => do
    let p := (← x.core).port n
    if p.producer && p.queue == x.a.q then pure (some { view := { noun := p.noun }, port := some n })
    else notBound x
  | _ => pure none

/-- A verb that must have an operand has it. -/
def given {α : Type} : Option α → VM α
  | some x => pure x
  | none => fail Code.verbInvalid

/-- Elements of a source at some indices, its lines reached by a path. A port's head slot is awaited, and joins the slots
the verb gives back (R92). -/
def readVia (x : Ctx) (t : Tensor) (p : Path) (idx : List (List Int)) : VM (List Nat) := do
  match t.port with
  | none => readElems x.a t.view p idx
  | some n => do
    if ((← x.core).port n).arrived = 0 then throw .wait
    let xs ← readElems x.a t.view p (idx.map (· ++ t.tail))
    if t.release then
      change fun s => s.modEntry x.a fun e =>
        { e with releases := if e.releases.contains n then e.releases else e.releases ++ [n] }
    pure xs

/-- Elements of a source at some indices. -/
def readTensor (x : Ctx) (t : Tensor) (idx : List (List Int)) : VM (List Nat) := readVia x t t.view.noun.path idx

/-- The place of an index in dense logical order. -/
def linear : List Nat → List Int → Nat
  | e :: r, i :: t => i.toNat + e * linear r t
  | _, _ => 0

/-- The dense bytes of a tile whose elements are given (R78). -/
def tileOf (n : Noun) (xs : List (List Int × Nat)) : List Byte :=
  leBytes (n.count * n.w / 8) (xs.foldl (fun acc (i, raw) => acc + raw % 2 ^ n.w * 2 ^ (linear n.exts i * n.w)) 0)

/-- What a destination is to receive: lines through its noun, or one tile on its port (R92). -/
structure Plan where
  path : Path := {}
  lines : Tbl (Nat × Nat) := []
  tile : Option (Nat × List Byte) := none
  /-- its lines are written behind those of the others -/
  last : Bool := false
  deriving DecidableEq, Repr

/-- Elements planned for a destination: through the noun with its materialised pads where they are asked for, or as one tile on the
port (R92, R161). -/
def planVia (t : Tensor) (p : Path) (xs : List (List Int × Nat)) (pads : Bool) : Plan :=
  match t.port with
  | none => { path := p, lines := t.view.linesFor (xs ++ if pads then t.view.noun.padWrites else []) }
  | some n => { tile := some (n, tileOf t.view.noun xs) }

/-- A plan carried out. -/
def Plan.commit (x : Ctx) (w : Plan) : VM Unit := do
  putLines x.a w.path w.lines w.last
  match w.tile with
  | none => pure ()
  | some (n, tile) =>
    change fun s => s.modCore x.a.c x.a.k fun y => y.modPort n fun p => { p with staged := p.staged ++ [(x.a.id, tile)] }

/-- Several destinations written: nothing has been written to any of them when an access waits. -/
def commitAll (x : Ctx) (ws : List Plan) : VM Unit := do
  for w in ws do readyLines x.a w.path w.lines
  for w in ws do w.commit x

/-- Elements of a destination written or sent. -/
def writeVia (x : Ctx) (t : Tensor) (p : Path) (xs : List (List Int × Nat)) (pads : Bool) : VM Unit :=
  commitAll x [planVia t p xs pads]

/-- Elements of a destination, by its noun's own path. -/
def writeTensor (x : Ctx) (t : Tensor) (xs : List (List Int × Nat)) (pads : Bool) : VM Unit :=
  writeVia x t t.view.noun.path xs pads

/-! ### Starting a verb -/

/-- The predicate of a verb holds (R95). -/
def Verb.holds (v : Verb) (preds : Nat) : Bool := !v.predEn || (bit preds v.pred != v.predNeg)

/-- What a verb has still to write is written, as far as the command takes it (R173). -/
def writeRest (x : Ctx) : VM Unit := do
  let rest := ((← get).entry x.a).todo
  let now := match x.a.upset.part with
    | none => rest
    | some ls =>
      let now := rest.filter fun (w : LineWrite) => ls.contains w.line
      if rest.any fun w => !w.last && !(now.contains w) then now.filter fun w => !w.last else now
  for w in now do readyLines x.a w.path [(w.line, w.value, w.mask)]
  for w in now do
    writeEach x.a w.path [(w.line, w.value, w.mask)]
    change fun s => s.modEntry x.a fun e => { e with todo := e.todo.erase w }

/-- A request of a verb to a peer has not been answered. -/
def QEntry.unanswered (e : QEntry) : Bool := e.asked.any fun key => (e.got.seek key).isNone

/-- How far a verb has come once its body has ended: its own work is finished when nothing is left to write and every peer has
answered, and an MDRAIN with CLEAR then sets its banks to NONE (R127, R134). -/
def State.settleVerb (s : State) (a : Issuer) (finished : Bool) : State :=
  let e := s.entry a
  if finished && e.todo.isEmpty && !e.unanswered then (s.setBanks a.c a.k e.clear .none).modEntry a fun e => { e with phase := .done }
  else s.modEntry a fun e => { e with phase := .started, worked := finished }

/-- A verb's work on the state: its body, or what the body has left to write. A fault ends it in its queue's trap; a verb that waits
has started once it has done something. -/
def State.work (s : State) (a : Issuer) (e : QEntry) (body : Ctx → VM Bool) : State :=
  let x : Ctx := { a := a, v := e.verb }
  let run : VM Bool := if e.worked then do writeRest x; pure true else body x
  match run.run s with
  | (.ok done, s) => s.settleVerb a done
  | (.error .wait, s) => s.modEntry a fun e =>
    if e.asked.isEmpty && e.loaded.isEmpty && e.taken ≤ 1 then e else { e with phase := .started }
  | (.error (.fault st), s) => s.verbFault a.c a.k a.q e.id (s.core a.c a.k).trapAddr st

/-- A verb's command: the verb starts, or goes on, and does its work; or, at the head of its queue and not yet free to start, it is
checked (R103). A verb whose predicate does not hold is done at once (R95). `body` answers whether the verb has finished its
own work. -/
def State.issue (s : State) (c k : Nat) (q : Queue) (op : Nat) (u : Upset) (body : Ctx → VM Bool) : State :=
  let x := s.core c k
  let picked := match pickVerb q op u.nth (x.queues.get q) with
    | some (e, starts) => some (e, starts, false)
    | none => (headVerb q op (x.queues.get q)).map fun e => (e, true, true)
  if !(s.corePresent c k) || x.run = .offline || x.halted.get q then s
  else
    match picked with
    | none => s
    | some (e, starts, waits) =>
      let a : Issuer := { c := c, k := k, q := q, id := e.id, pid := pidField (s.corePid c k), upset := u, decode := waits }
      let s := s.modCore c k fun y => { y with trapAddr := 0 }
      if starts && s.clusterStopped c then s
      else if starts && !e.verb.holds (e.sees x).2 then s.modEntry a fun e => { e with phase := .done }
      else
        let s := s.strikeCore c k u
        let s := if u.nounCopy then s.modEntry a fun e => { e with nouns := [] } else s
        if (s.core c k).run = .offline then s
        else if u.parity then ((s.sramError c k 5).noteSram c k).queueFault c k q e.word e.bank 0 Code.ueSram
        else (s.modEntry a fun e => { e with taken := if starts && !waits then 1 else e.taken }).work a e body

/-! ### Completion (R85, R92, R96, R98) -/

/-- Something a verb wrote still waits at a base die. -/
def State.writesWait (s : State) (a : Issuer) : Bool :=
  let mine (op : WriteOp) : Bool := op.writer == a.writer && op.tag == a.id
  (s.stk.any fun (_, x) => x.held.any (fun h => mine h.2) || x.heldWaiting.any (fun h => mine h.2)
      || x.wakeQueue.any mine)
    || (s.xl.withdraws.any fun w => match w.2 with
        | none => false
        | some op => mine op)

/-- Something a verb wrote still waits at a base die, or its tile has not been taken by its consumer. -/
def State.outstanding (s : State) (a : Issuer) : Bool :=
  s.writesWait a || ((s.core a.c a.k).ports.any fun (_, p) => p.staged.any (·.1 == a.id) || p.unacked.contains a.id)

/-- One signal rises, or does not where its count is 255 (R96, R98): the count, and whether it overflowed. -/
def raiseSignal (acc : Tbl Nat × Bool) (i : Nat) : Tbl Nat × Bool :=
  if acc.1.look 0 i = 255 then (acc.1, true) else (acc.1.upd 0 i (· + 1), acc.2)

/-- A core whose dispatcher has stopped is draining, and quiescent once its queues are empty. -/
def CoreSt.settle (x : CoreSt) : CoreSt :=
  if (x.run = .running || x.run = .draining) && !x.disp.fetching then
    if x.queues.m.isEmpty && x.queues.v.isEmpty && x.queues.s.isEmpty && x.queues.d.isEmpty then
      { x with run := .quiescent }
    else { x with run := .draining }
  else x

/-- An instruction bank. -/
def CoreSt.bankOf (x : CoreSt) (b : Nat) : IBank := if b = 0 then x.ib0 else x.ib1

/-- The core with an instruction bank changed. -/
def CoreSt.modBank (x : CoreSt) (b : Nat) (f : IBank → IBank) : CoreSt :=
  if b = 0 then { x with ib0 := f x.ib0 } else { x with ib1 := f x.ib1 }

/-- The dispatcher goes on at an entry of a bank (R110, R111): at once, after the bank's load, or not at all. Where the bank is not
READY, QFAULT_S holds the entry and the bank that the dispatcher was to go on at, as R84 has it for a fetch position: R111 names
neither (DESIGN CHOICE, log entry 75). -/
def State.goTo (s : State) (c k bank entry : Nat) : State :=
  let x := s.core c k
  let at_ (stall : Stall) (s : State) : State := s.modCore c k fun x =>
    { x with disp := { x.disp with fetching := true, pos := entry, bank := bank, stall := stall,
                                   fetched := if stall = .none then bank else x.disp.fetched } }
  match (x.bankOf bank).state with
  | .ready => at_ .none s
  | .loading => at_ (.bankLoad bank entry) s
  | _ =>
    let s := s.modCore c k fun x =>
      { x with disp := { x.disp with fetching := false, stall := .none, pos := entry, bank := bank } }
    s.queueFault c k .s entry bank 0 Code.clauseInvalid

/-- A clause boundary (R110, R114). -/
def State.boundary (s : State) (c k : Nat) : State :=
  let x := s.core c k
  let d := x.disp
  if d.stop then
    s.modCore c k fun x =>
      { x with nextValid := false, disp := { d with fetching := false, stall := .none, stop := false, swap := none } }
  else
    match d.swap with
    | some entry =>
      (s.modCore c k fun x => { x with disp := { x.disp with swap := none, stall := .none } }).goTo c k
        (if d.bank = 0 then 1 else 0) entry
    | none =>
      if x.nextValid then
        (s.modCore c k fun x => { x with nextValid := false, disp := { x.disp with stall := .none } }).goTo c k
          x.nextBank x.nextEntry
      else s.modCore c k fun x => { x with disp := { d with fetching := false, stall := .none } }

/-- What an S verb's completion does to the dispatcher: SJMP, SWAP and END (R100, R110). -/
def State.scalarEffect (s : State) (c k : Nat) (e : QEntry) : State :=
  let held := e.taken == 1
  match e.verb.opcode with
  | 0x8D => s.modCore c k fun x =>
      { x with disp := { x.disp with stall := .none, pos := if held then e.verb.imm % 4096 else x.disp.pos } }
  | 0x8E => if held then s.modCore c k fun x => { x with disp := { x.disp with swap := some (e.verb.imm % 4096) } } else s
  | 0x8F => if held then s.boundary c k
            else s.modCore c k fun x => { x with disp := { x.disp with stall := .none } }
  | _ => s

/-- The old value of an atomic that a base die performed later goes to the verb's DST (R181). -/
def takeOld (x : Ctx) (old : Nat) : VM Unit :=
  match parseOperand x.v.dst with
  | .counter n => change fun s => s.putCounter x.a.c x.a.k n old
  | .noun h => do
    let t ← useNoun x h x.v.offsDst { written := true }
    writeElems x.a t t.noun.path (((List.range t.noun.rank).map fun _ => 0, old) :: t.noun.padWrites)
  | _ => pure ()

/-- The answers of base dies to a verb's writes are taken up: a failure, with the address written to, or the old value of its
atomic (R181, R268). -/
def takeAnswers (x : Ctx) : VM Unit := do
  let mine (w : Writer × Nat × Status × Nat) : Bool := w.1 == x.a.writer && w.2.1 == x.a.id
  let rs := (← get).answers.filter mine
  match rs.find? fun w => w.2.2.1 != Code.ok with
  | some w => vaFault x.a w.2.2.2 w.2.2.1
  | none =>
    match rs with
    | w :: _ => if x.v.opcode == 0xCD then takeOld x w.2.2.2
    | [] => pure ()
  change fun s => { s with answers := s.answers.filter fun w => !mine w }

/-- What R68 answers to the credits a verb returns as it completes (R68, R79, R92). -/
def State.creditNak (s : State) (c k : Nat) (e : QEntry) : Option Status :=
  e.releases.findSome? fun n =>
    let p := (s.core c k).port n
    if p.consumer && p.arrived != 0 then s.reach (pidField (s.corePid c k)) p.peer else none

/-- The front verb of a queue completes: its signals rise, its slots are given back, and the dispatcher follows. -/
def State.finish (s : State) (c k : Nat) (q : Queue) (e : QEntry) : State :=
  let x := s.core c k
  let targets := (bitsSet 4 e.verb.signal).map fun p => 4 * queueNum q + p
  let (sig, passed) := targets.foldl raiseSignal (x.signals, false)
  let s := s.modCore c k fun x => { x with signals := sig, queues := x.queues.set ((x.queues.get q).drop 1) q }
  let s := { s with recent := s.recent.filter fun r => !(r.writer == Writer.verb c k q && r.tag == e.id) }
  let s := e.releases.foldl (fun s n => s.releaseSlot c k n) s
  let s := if q = .s then s.scalarEffect c k e else s
  let s := if e.taken ≥ 1 then s.charge c k q else s
  let s := if passed then s.queueFault c k q e.word e.bank 0 Code.signalOverflow else s
  s.modCore c k CoreSt.settle

/-- The opcodes of R91. -/
def opcodes : List Nat :=
  [0x00, 0x01, 0x02, 0x03, 0x04, 0x08, 0x09, 0x0A, 0x40, 0x41, 0x42, 0x43, 0x44, 0x48, 0x49, 0x4A, 0x4B, 0x4C,
   0x80, 0x81, 0x82, 0x83, 0x84, 0x88, 0x89, 0x8A, 0x8B, 0x8C, 0x8D, 0x8E, 0x8F, 0x90,
   0xC0, 0xC1, 0xC2, 0xC3, 0xC4, 0xC8, 0xC9, 0xCA, 0xCB, 0xCC, 0xCD, 0xCE]

/-- VERB_COMPLETE: the front verb of a queue, its work finished and performed, completes (R85). A reserved opcode that has
come to the head faults there, or is skipped where its predicate does not hold (R95, R103). -/
def execVerbComplete (c k : Nat) (q : Queue) (s : State) : Host.Outcome State Fault Refusal :=
  let x := s.core c k
  .next <|
    if !(s.corePresent c k) || x.run = .offline || x.halted.get q then s
    else
      match x.queues.get q with
      | [] => s
      | e :: _ =>
        if e.phase == .waiting && !(opcodes.contains e.verb.opcode) then
          if e.verb.holds (e.sees x).2 then s.queueFault c k q e.word e.bank 0 Code.verbInvalid else s.finish c k q e
        else if e.phase != .done then s
        else
          let a : Issuer := { c := c, k := k, q := q, id := e.id, pid := pidField (s.corePid c k) }
          if s.outstanding a then s
          else
            match (takeAnswers { a := a, v := e.verb }).run (s.modCore c k fun y => { y with trapAddr := 0 }) with
            | (.ok _, s) =>
              match s.creditNak c k e with
              | some st => s.queueFault c k q e.word e.bank 0 st
              | none => s.finish c k q e
            | (.error .wait, s) => s
            | (.error (.fault st), s) => s.verbFault c k q e.id (s.core c k).trapAddr st

/-! ### The dispatcher (R84, R106, R110) -/

/-- Word i of a bank. -/
def IBank.word (b : IBank) (i : Nat) : List Byte := b.words.getD i []

/-- EXT of a word taken as the first of a verb. -/
def IBank.isExt (b : IBank) (i : Nat) : Bool := bit (leAt (b.word i) 0 4) 9

/-- Whether position `p` begins a verb, verbs being read one after another from `i`. -/
def IBank.begins (b : IBank) (p : Nat) : Nat → Nat → Bool
  | 0, _ => false
  | fuel + 1, i =>
    if i = p then true else if p < i then false else b.begins p fuel (if b.isExt i then i + 2 else i + 1)

/-- A fetch position at which a verb may be placed. -/
def IBank.placeable (b : IBank) (p : Nat) : Bool :=
  decide (p < b.words.length) && b.begins p (p + 1) 0 && (!(b.isExt p) || decide (p + 1 < b.words.length))

/-- The dispatcher stops placing. -/
def State.stopFetch (s : State) (c k : Nat) : State :=
  s.modCore c k fun x => { x with disp := { x.disp with fetching := false } }

/-- A BIND's name index is replaced by the station it names (R110): the verb, and whether the index lay beyond the table, or the
field holds more than an index (R91). -/
def nameIn (b : IBank) (v : Verb) : Verb × Bool :=
  if v.low = 2 && !(bit v.mode 1) then
    if v.imm < b.names.length then ({ v with imm := b.names.getD v.imm 0 }, false) else (v, true)
  else (v, false)

/-- A verb is placed in its queue. -/
def State.place (s : State) (c k : Nat) (v : Verb) (badName : Bool) : State :=
  s.modCore c k fun x =>
    let q := queueOf v.opcode
    let e : QEntry := { verb := v, word := x.disp.pos, bank := x.disp.bank, badName := badName, id := x.disp.nextId }
    let stall : Stall := if v.opcode = 0x8D then .jump else if v.opcode = 0x8F then .clauseEnd else .none
    { x with queues := x.queues.set (x.queues.get q ++ [e]) q,
             disp := { x.disp with pos := x.disp.pos + (if v.ext then 2 else 1), stall := stall,
                                   nextId := x.disp.nextId + 1 } }

/-- VERB_DISPATCH: the dispatcher fetches a word and places its verb (R84), or meets an error there (R106, R262). Where an EXT verb's
second word lies beyond WORDS, QFAULT_S.WORD holds the index of its first word, and the index 4,096 behind a full bank's last
word is held in the field's twelve bits as 0: R84 says 'that index' alone (DESIGN CHOICE, log entry 76). -/
def execVerbDispatch (c k : Nat) (u : FetchUpset) (s : State) : Host.Outcome State Fault Refusal :=
  let x := s.core c k
  let d := x.disp
  let b := x.bankOf d.bank
  .next <|
    if !(s.corePresent c k) || x.run = .offline || !d.fetching || s.clusterStopped c || d.stall != .none then s
    else if !(s.domainReady c) || !(s.domainReady (16 + c)) then
      if s.domainFailed c || s.domainFailed (16 + c) then
        let q := queueOf (parseVerb (b.word d.pos) (b.word (d.pos + 1))).opcode
        (((s.domainTold c).domainTold (16 + c)).stopFetch c k).queueFault c k q d.pos d.bank 0 Code.domainFault
      else (s.wakeDomain c).wakeDomain (16 + c)
    else if !(b.placeable d.pos) then (s.stopFetch c k).queueFault c k .s d.pos d.bank 0 Code.verbInvalid
    else
      let v := parseVerb (b.word d.pos) (b.word (d.pos + 1))
      match u with
      | .opcode => (((s.sramError c k 2).noteSram c k).stopFetch c k).queueFault c k .s d.pos d.bank 0 Code.ueSram
      | .word => (((s.sramError c k 2).noteSram c k).stopFetch c k).queueFault c k (queueOf v.opcode) d.pos d.bank 0 Code.ueSram
      | _ =>
        let s := if u == .corrected then s.sramCorrected c k 2 else s
        if (x.queues.get (queueOf v.opcode)).length ≥ 32 then s
        else
          let (v, bad) := nameIn b v
          s.place c k v bad

/-! ### The common verbs -/

/-- NOP does nothing (R91). -/
def nopBody (x : Ctx) : VM Bool := do
  require (({} : Form).ok x.a.q x.v)
  decoded x
  pure true

/-- NOP -/
def execNop (x : CoreRef) (q : Queue) (u : Upset) (s : State) : Host.Outcome State Fault Refusal :=
  .next (s.issue x.cluster x.core q (64 * queueNum q) u nopBody)

/-- The WAIT bytes of a JOIN, by queue. -/
def Verb.waits (v : Verb) : List Nat := (List.range 4).map fun i => bits v.imm (8 * i) 8

/-- JOIN waits for its counts and lowers them (R96). -/
def joinBody (x : Ctx) : VM Bool := do
  let p := queueNum x.a.q
  require (({ ext := .no, imm := 0xFFFFFFFF } : Form).ok x.a.q x.v && x.v.waits.getD p 0 == 0)
  decoded x
  let c ← x.core
  let count (q : Nat) : Nat := c.signals.look 0 (4 * q + p)
  if (List.range 4).all fun q => decide (x.v.waits.getD q 0 ≤ count q) then
    change fun s => s.modCore x.a.c x.a.k fun y =>
      { y with signals := (List.range 4).foldl (fun t q =>
          if x.v.waits.getD q 0 = 0 then t else t.upd 0 (4 * q + p) (· - x.v.waits.getD q 0)) y.signals }
    pure true
  else pure false

/-- JOIN -/
def execJoin (x : CoreRef) (q : Queue) (u : Upset) (s : State) : Host.Outcome State Fault Refusal :=
  .next (s.issue x.cluster x.core q (64 * queueNum q + 1) u joinBody)

/-- JOIN_TIMEOUT: a JOIN that waits and whose limit is set faults its queue; the counts stay (R98). -/
def execJoinTimeout (c k : Nat) (q : Queue) (s : State) : Host.Outcome State Fault Refusal :=
  let x := s.core c k
  .next <|
    if !(s.corePresent c k) || x.halted.get q || x.joinLimit = 0 then s
    else
      match x.queues.get q with
      | e :: _ => if e.phase == .started && e.verb.isJoin then s.queueFault c k q e.word e.bank 0 Code.joinTimeout else s
      | [] => s

/-- The shape of a BIND's noun (R78). -/
def bindShapeOk (consumer : Bool) (peer : Nat) (n : Noun) : Bool :=
  let slots := n.ext (n.rank - 1)
  if consumer then decide (1 ≤ slots) && decide (slots ≤ 64) && tileSizeOk (n.count / slots * n.w)
  else tileSizeOk (n.count * n.w) && (match station peer with
    | .unit _ _ 0 => n.count * n.w == 1024
    | _ => true)

/-- BIND binds a port (R77, R79): a producer takes up the credits of its peer that lie there, a consumer grants one credit a slot, a
bank-side intake grants a producer two (R225), and the serving controller's result intake one (log entry 21). Credits that lie at a
port when it is bound as a consumer are dropped: R79 speaks of a producer's BIND alone (DESIGN CHOICE, log entry 77). -/
def bindBody (x : Ctx) : VM Bool := do
  let consumer := bit x.v.mode 0
  let peer := x.v.imm % 65536
  let e := (← get).entry x.a
  require (({ dst := kPort, srca := kNoun, mode := 3, imm := 0xFFFF, ext := .no } : Form).ok x.a.q x.v
    && !e.badName)
  match parseOperand x.v.dst, parseOperand x.v.srca with
  | .port n _, .noun h => do
    let v ← useNoun x h 0 { written := consumer }
    require (bindShapeOk consumer peer v.noun)
    decoded x
    let s ← get
    let p := (s.core x.a.c x.a.k).port n
    if p.producer || p.consumer then fail Code.streamMismatch
    match s.reach x.a.pid peer with
    | some st => fail st
    | none => pure ()
    let self := coreStation x.a.c x.a.k + n
    match station peer with
    | .flow f m => if !(s.flow f m).stream || (s.flow f m).local_ != self then fail Code.streamMismatch
    | _ => pure ()
    match consumer, station peer with
    | false, .unit f m 0 =>
      if (s.chan f m).intakeBound.length ≥ 64 then fail Code.intakeLimit
      change fun s => (s.modChan f m fun c => { c with intakeBound := c.intakeBound ++ [self] }).sendCredits x.a.pid peer self 2
    | false, .serving _ => change fun s => s.sendCredit x.a.pid peer self
    | _, _ => pure ()
    let fresh : Port := { producer := !consumer, consumer := consumer, peer := peer, noun := v.noun, queue := x.a.q,
                          credits := if consumer then [] else p.credits.filter (·.1 == peer) }
    change fun s => s.modCore x.a.c x.a.k fun y => y.modPort n fun _ => fresh
    if consumer then change fun s => s.sendCredits x.a.pid self peer fresh.slots
    pure true
  | _, _ => fail Code.verbInvalid

/-- BIND -/
def execBind (x : CoreRef) (q : Queue) (u : Upset) (s : State) : Host.Outcome State Fault Refusal :=
  .next (s.issue x.cluster x.core q (64 * queueNum q + 2) u bindBody)

/-- A tile is on its way to a station. -/
def State.tileTo (s : State) (target : Nat) : Bool :=
  s.transit.any fun t => match t with
    | .tile _ y _ => y == target
    | _ => false

/-- UNBIND takes effect once the port holds no tile in flight (R82): a consumer revokes its credits first, a producer keeps
its own. Only the queue that the binding names may unbind the port (R92). -/
def unbindBody (x : Ctx) : VM Bool := do
  require (({ dst := kPort, ext := .no } : Form).ok x.a.q x.v)
  decoded x
  match parseOperand x.v.dst with
  | .port n _ => do
    let s ← get
    let p := (s.core x.a.c x.a.k).port n
    if (p.consumer || p.producer) && p.queue != x.a.q then fail Code.streamMismatch
    let self := coreStation x.a.c x.a.k + n
    let set (f : Port → Port) : VM Unit := change fun s => s.modCore x.a.c x.a.k fun y => y.modPort n f
    if p.consumer then
      let first := (s.entry x.a).phase != .started
      if first then
        match station p.peer with
        | .flow _ _ => pure ()
        | .xomon _ => pure ()
        | _ =>
          set fun p => { p with revoking := true }
          change fun s => { s with transit := s.transit ++ [.revoke self p.peer] }
      let s ← get
      let p := (s.core x.a.c x.a.k).port n
      if p.revoking || p.landing.isSome || s.tileTo self then pure false
      else
        set fun _ => {}
        pure true
    else if p.producer then
      if p.staged.isEmpty && p.unacked.isEmpty then
        set fun p => { credits := p.credits }
        match station p.peer with
        | .unit f m 0 => change fun s => s.modChan f m fun c => { c with intakeBound := c.intakeBound.erase self }
        | _ => pure ()
        pure true
      else pure false
    else pure true
  | _ => fail Code.verbInvalid

/-- UNBIND -/
def execUnbind (x : CoreRef) (q : Queue) (u : Upset) (s : State) : Host.Outcome State Fault Refusal :=
  .next (s.issue x.cluster x.core q (64 * queueNum q + 3) u unbindBody)

/-- Sequence numbers compared modulo 2^32: `a` is at or past `b`. -/
def psnReached (a b : Nat) : Bool := decide ((a + 2 ^ 32 - b % 2 ^ 32) % 2 ^ 32 < 2 ^ 31)

/-- Every write put on flows has been acknowledged by its peer (R180); `sent` holds the PSN after the last one of each. -/
def State.sentDone (s : State) (sent : Tbl Nat) : Bool :=
  sent.all fun (i, psn) => psnReached (s.flow (i / 1024) (i % 1024)).peerDone psn

/-- A flow that carried writes has failed before the peer had performed them: the status its waiters fault with (R372, R373). -/
def State.sentFailed (s : State) (sent : Tbl Nat) : Option (Nat × Status) :=
  (sent.find? fun (i, psn) =>
    let fl := s.flow (i / 1024) (i % 1024)
    !(psnReached fl.peerDone psn) && fl.state != .open_).map fun (i, _) =>
      let fl := s.flow (i / 1024) (i % 1024)
      (i, if fl.state = .error then fl.err else Code.flowFailed)

/-- A wait for the peers' acknowledgements of a core's writes: whether it has ended; it faults with a failed flow. -/
def awaitPeersDone (x : Ctx) : VM Bool := do
  let s ← get
  match s.sentFailed (s.core x.a.c x.a.k).sent with
  | some (i, st) =>
    change fun s => s.modCore x.a.c x.a.k fun y => { y with sent := y.sent.drop i }
    fail st
  | none => pure (s.sentDone (s.core x.a.c x.a.k).sent)

/-- FENCE completes once every write ordered before it has been performed for its scope (R180). -/
def fenceBody (x : Ctx) : VM Bool := do
  require (({ ext := .no, scope := true } : Form).ok x.a.q x.v)
  decoded x
  if x.v.scope = 4 then awaitPeersDone x else pure true

/-- FENCE -/
def execFence (x : CoreRef) (q : Queue) (u : Upset) (s : State) : Host.Outcome State Fault Refusal :=
  .next (s.issue x.cluster x.core q (64 * queueNum q + 4) u fenceBody)

end Sys2Proof.Machine
end

