-- ==== Sys2Proof/Machine/Scalar.lean ====
section
/-!
DEFINITION. The scalar engine: counters, predicates, branches, clause boundaries and STRAP (R99, R100, R105, R110, R148).
What SJMP, SWAP and END do to the dispatcher happens when they complete (`State.scalarEffect`).
-/

namespace Sys2Proof.Machine

/-- The counter an operand field names. -/
def counterOf (field : Nat) : Option Nat :=
  match parseOperand field with
  | .counter n => some n
  | _ => none

/-- The counter an operand field names takes a value modulo 2^32. -/
def setCounter (x : Ctx) (field v : Nat) : VM Unit :=
  match counterOf field with
  | some n => change fun s => s.putCounter x.a.c x.a.k n v
  | none => fail Code.verbInvalid

/-- The value of the counter an operand field names. -/
def getCounter (x : Ctx) (field : Nat) : VM Nat := do
  match counterOf field with
  | some n => x.counter n
  | none => fail Code.verbInvalid

/-- A row of R91 with a counter as DST and nothing else. -/
def counterForm (imm : Nat) : Form := { dst := kCounter, imm := imm, ext := .no }

/-- SSET -/
def ssetBody (x : Ctx) : VM Bool := do
  require ((counterForm 0xFFFFFFFF).ok x.a.q x.v)
  decoded x
  setCounter x x.v.dst x.v.imm
  pure true

/-- SSET -/
def execSset (x : CoreRef) (u : Upset) (s : State) : Host.Outcome State Fault Refusal := .next (s.issue x.cluster x.core .s 0x88 u ssetBody)

/-- SINC -/
def sincBody (x : Ctx) : VM Bool := do
  require ((counterForm 0).ok x.a.q x.v)
  decoded x
  setCounter x x.v.dst ((← getCounter x x.v.dst) + 1)
  pure true

/-- SINC -/
def execSinc (x : CoreRef) (u : Upset) (s : State) : Host.Outcome State Fault Refusal := .next (s.issue x.cluster x.core .s 0x89 u sincBody)

/-- SADD -/
def saddBody (x : Ctx) : VM Bool := do
  require ((counterForm 0xFFFFFFFF).ok x.a.q x.v)
  decoded x
  setCounter x x.v.dst ((← getCounter x x.v.dst) + x.v.imm)
  pure true

/-- SADD -/
def execSadd (x : CoreRef) (u : Upset) (s : State) : Host.Outcome State Fault Refusal := .next (s.issue x.cluster x.core .s 0x8A u saddBody)

/-- The noun a field that holds a noun names, for a verb that takes no compressed one: that it is none is check 4 of R103, behind
check 2 of every noun (R281). -/
def flatNoun (x : Ctx) (field offs : Nat) (u : NounUse) : VM View :=
  match parseOperand field with
  | .noun h => useNoun x h offs { u with packed := true }
  | _ => fail Code.verbInvalid

/-- The index at a place in logical order. -/
def unlinear : List Nat → Nat → List Int
  | [], _ => []
  | e :: r, i => Int.ofNat (i % e) :: unlinear r (i / e)

/-- SLOAD reads one 32-bit element at a linear index (R99). An index at or beyond the noun's element count makes the verb invalid: R99
gives it no outcome (DESIGN CHOICE, log entry 78). -/
def sloadBody (x : Ctx) : VM Bool := do
  require (({ dst := kCounter, srca := kNoun, imm := 0xFFFFFFFF } : Form).ok x.a.q x.v)
  let v ← flatNoun x x.v.srca x.v.offsA {}
  require (v.noun.compress == 0 && v.noun.layout == 0 && (v.noun.format == fmtINT32 || v.noun.format == fmtUINT32) && decide (x.v.imm < v.noun.count))
  decoded x
  let xs ← readElems x.a v v.noun.path [unlinear v.noun.exts x.v.imm]
  setCounter x x.v.dst (xs.headD 0)
  pure true

/-- SLOAD -/
def execSload (c k : Nat) (u : Upset) (s : State) : Host.Outcome State Fault Refusal :=
  .next (s.issue c k .s 0x8B u sloadBody)

/-- SCMP -/
def scmpBody (x : Ctx) : VM Bool := do
  let rel := bits x.v.mode 0 3
  require (({ srca := kCounter, srcb := kCounter + kNone, mode := 0x7F, imm := 0xFFFFFFFF, ext := .no } : Form).ok
    x.a.q x.v && decide (rel ≤ 5))
  decoded x
  let a ← getCounter x x.v.srca
  let b ← match counterOf x.v.srcb with
    | some n => x.counter n
    | none => pure x.v.imm
  change fun s => (s.latch x.a.c x.a.k).modCore x.a.c x.a.k fun y =>
    { y with preds := putBit y.preds (bits x.v.mode 4 3) (compare rel (bit x.v.mode 3) a b) }
  pure true

/-- SCMP -/
def execScmp (x : CoreRef) (u : Upset) (s : State) : Host.Outcome State Fault Refusal := .next (s.issue x.cluster x.core .s 0x8C u scmpBody)

/-- SJMP and SWAP name a word index. -/
def jumpForm : Form := { imm := 0xFFF, ext := .no }

/-- SJMP: its target becomes the fetch position as it completes (R100). -/
def sjmpBody (x : Ctx) : VM Bool := do
  require (jumpForm.ok x.a.q x.v)
  decoded x
  pure true

/-- SJMP -/
def execSjmp (x : CoreRef) (u : Upset) (s : State) : Host.Outcome State Fault Refusal := .next (s.issue x.cluster x.core .s 0x8D u sjmpBody)

/-- SWAP: the switch is pending once it completes (R110). -/
def swapBody (x : Ctx) : VM Bool := do
  require (jumpForm.ok x.a.q x.v)
  decoded x
  pure true

/-- SWAP -/
def execSwap (x : CoreRef) (u : Upset) (s : State) : Host.Outcome State Fault Refusal := .next (s.issue x.cluster x.core .s 0x8E u swapBody)

/-- END: a clause boundary as it completes (R110). -/
def endBody (x : Ctx) : VM Bool := do
  require (({ ext := .no } : Form).ok x.a.q x.v)
  decoded x
  pure true

/-- END -/
def execEndVerb (x : CoreRef) (u : Upset) (s : State) : Host.Outcome State Fault Refusal := .next (s.issue x.cluster x.core .s 0x8F u endBody)

/-- STRAP waits while another is pending; then it writes its code and interrupts the control core (R105). -/
def strapBody (x : Ctx) : VM Bool := do
  require (({ imm := 0xFFFFFFFF, ext := .no } : Form).ok x.a.q x.v)
  decoded x
  let s ← get
  let core := s.core x.a.c x.a.k
  if core.strapPend then pure false
  else
    let e := s.entry x.a
    change fun s => s.modCore x.a.c x.a.k fun y => { y with strapCode := x.v.imm, strapPend := true }
    change fun s => s.modCluster x.a.c fun y => { y with irq := true }
    if core.event then
      change fun s => s.event Cls.verb Code.ok (Obs.ofCore x.a.c x.a.k) x.a.pid x.v.imm (e.word % 4096 + 4096 * e.bank)
    pure true

/-- STRAP -/
def execStrap (x : CoreRef) (u : Upset) (s : State) : Host.Outcome State Fault Refusal := .next (s.issue x.cluster x.core .s 0x90 u strapBody)

end Sys2Proof.Machine
end

