-- ==== Sys2Proof/Machine/Dma.lean ====
section
/-!
DEFINITION. The DMA engine: DCOPY with its conversions, check values and codec, DGATHER, DSCATTER, DAK2, DFLUSH, DATOM
and DCVCFG (R93, R94, R102, R163, R174, R176, R177, R181, R263 to R266, R271 to R282).
-/

namespace Sys2Proof.Machine

/-! ### Helpers -/

/-- The dense bytes of elements in logical order. -/
def packElems (w : Nat) (xs : List Nat) : List Byte :=
  leBytes (ceilDiv (xs.length * w) 8) (leNatBits w xs)
where
  /-- elements of w bits laid one above another -/
  leNatBits (w : Nat) : List Nat → Nat
    | [] => 0
    | x :: r => x % 2 ^ w + 2 ^ w * leNatBits w r

/-- The elements dense bytes hold. -/
def unpackElems (w n : Nat) (b : List Byte) : List Nat :=
  let v := leNat b
  (List.range n).map fun i => bits v (w * i) w

/-- The path of a verb's accesses through a noun, ordered at the base die where its ORDER and SCOPE say so (R176). -/
def orderedPath (x : Ctx) (n : Noun) (write : Bool) : Path :=
  { n.path with ordered := x.v.ordered (b2n (!write)) && decide (2 ≤ x.v.scope),
                order := if write && x.v.ordered 0 then .release else .ordered }

/-- A release of SYSTEM scope waits for the peers' acknowledgements (R177). -/
def awaitPeers (x : Ctx) : VM Unit := do
  if x.v.ordered 0 && x.v.scope == 4 then
    if !(← awaitPeersDone x) then throw .wait

/-- A verb whose command writes all its lines at once. -/
def Ctx.whole (x : Ctx) : Ctx := { x with a := { x.a with upset := { x.a.upset with part := none } } }

/-- MEMFAULT_VA names an address, and the verb faults with CV_MISMATCH (R282). -/
def damaged {α : Type} (x : Ctx) (addr : Nat) (local_ : Bool) : VM α := memFault x.a addr local_ Code.cvMismatch

/-! ### DCOPY: check values (R264 to R266) -/

/-- An operand a check-value copy may have. -/
def cvOperand (n : Noun) : Bool := n.layout == 0 && !n.hasPad && n.compress == 0 && n.w % 8 == 0

/-- Trailer bytes: the check value and its fill up to the element width of the noun that holds them. -/
def trailerBytes (width w : Nat) : Nat := ceilDiv (ceilDiv width 8) (w / 8) * (w / 8)

/-- A tensor's size in bytes. -/
def Tensor.bytes (t : Tensor) : Nat := t.count * t.view.noun.w / 8

/-- DCOPY with CV_APPEND or CV_CHECK. -/
def cvCopy (x : Ctx) (d a : Tensor) (append : Bool) : VM Unit := do
  let cfg := (← x.core).cv
  let trailer := trailerBytes cfg.width (if append then d.view.noun.w else a.view.noun.w)
  require (cvOperand d.view.noun && cvOperand a.view.noun
    && (if append then d.bytes == a.bytes + trailer else a.bytes == d.bytes + trailer))
  decoded x
  awaitPeers x
  let raws ← readVia x a (orderedPath x a.view.noun false) (indices a.exts)
  let src := packElems a.view.noun.w raws
  let put (x : Ctx) (b : List Byte) : VM Unit :=
    writeVia x d (orderedPath x d.view.noun true)
      ((indices d.exts).zip (unpackElems d.view.noun.w d.count b)) true
  let note (v : Nat) (got : Option Nat) (ok : Bool) : VM Unit := change fun s => s.modCore x.a.c x.a.k fun y =>
    { y with stat := y.stat.noteCheck v got ok }
  let size := ceilDiv cfg.width 8
  if append then
    let v := checkValue cfg src
    put x (src ++ leBytes size v ++ List.replicate (trailer - size) 0)
    note v none true
  else
    let data := src.take d.bytes
    let rest := src.drop d.bytes
    let v := checkValue cfg data
    let got := leNat (rest.take size)
    let ok := v == got && (rest.drop size).all (· == 0)
    put (if ok then x else x.whole) data
    note v (some got) ok
    if !ok then fail Code.cvMismatch

/-! ### DCOPY: the codec (R271 to R282) -/

/-- A DCOPY that uses the codec waits for every earlier one (R281). -/
def awaitCodec (x : Ctx) : VM Unit := do
  change fun s => s.modEntry x.a fun e => { e with codec := true }
  let q := (← x.core).queues.d
  if (q.takeWhile (·.id != x.a.id)).any (·.codec) then throw .wait

/-- The elements that share no line with any of the others: what stands where a copy halts between them (R104). -/
def wholeLines (d : Tensor) (done rest : List (List Int × Nat)) : List (List Int × Nat) :=
  let lines := linesOf 1024 (rest.flatMap fun (i, _) => d.view.pieces i)
  done.filter fun (i, _) => (linesOf 1024 (d.view.pieces i)).all fun l => !lines.contains l

/-- Writes what has been decoded before a damaged block, and faults with the address of the block's header (R282). -/
def haltAt {α : Type} (x : Ctx) (d : Tensor) (done rest : List (List Int × Nat)) (addr : Nat) (local_ : Bool) :
    VM α := do
  if d.port.isNone then
    writeElems x.whole.a d.view (orderedPath x d.view.noun true) (wholeLines d done rest)
  damaged x addr local_

/-- A block's header and payload read at an address, the payload as far as `room` bytes hold it. -/
def readBlock (x : Ctx) (n : Noun) (addr room : Nat) : VM (BlockHeader × List Byte) := do
  let p := orderedPath x n false
  let h ← readBytes x.a p addr 16
  let hdr := parseHeader h
  let b ← if hdr.len ≤ room then readBytes x.a p (addr + 16) hdr.len else pure []
  pure (hdr, b)

/-- The slots of a COMPRESS 1 noun decoded from block `b` on: the bytes, and the address of the block that is damaged. -/
def readSlots (x : Ctx) (n : Noun) (w total : Nat) : Nat → Nat → VM (List Byte × Option Nat)
  | 0, _ => pure ([], none)
  | m + 1, b => do
    let addr := n.base + 4160 * b
    let (h, p) ← readBlock x n addr 4096
    match decodeSlot w total b h p with
    | none => pure ([], some addr)
    | some data => do
      let (rest, bad) ← readSlots x n w total m (b + 1)
      pure (data ++ rest, bad)

/-- A DCOPY that decodes the activation form. -/
def decodeOne (x : Ctx) (d : Tensor) (a : View) : VM Unit := do
  let n := a.noun
  let w := n.w / 8
  require (d.fmt == n.format && (if d.port.isSome then d.count == n.count else d.exts == n.exts))
  decoded x
  awaitPeers x
  awaitCodec x
  let (data, bad) ← readSlots x n w n.bytes (ceilDiv n.bytes 4096) 0
  let elems := unpackElems n.w (data.length / w) data
  let idx := indices d.exts
  match bad with
  | none => writeVia x d (orderedPath x d.view.noun true) (idx.zip elems) true
  | some addr =>
    haltAt x d (idx.zip elems) ((idx.drop elems.length).map fun i => (i, 0)) addr (n.space == 1)

/-- A DCOPY that encodes the activation form. -/
def encodeOne (x : Ctx) (d : View) (a : Tensor) : VM Unit := do
  let n := d.noun
  let w := n.w / 8
  require (a.fmt == n.format && (if a.port.isSome then a.count == n.count else a.exts == n.exts))
  decoded x
  awaitPeers x
  awaitCodec x
  let raws ← readVia x a (orderedPath x a.view.noun false) (indices a.exts)
  let data := elemBytes w raws
  commitAll x ((List.range (ceilDiv data.length 4096)).map fun b =>
    { path := orderedPath x n true,
      lines := bytesLines (n.base + 4160 * b) (encodeSlot w (slice data (4096 * b) (blockLength data.length b))) })

/-- The differences a COMPRESS 2 noun holds for the blocks from `b` on, and the address of a block that is damaged. -/
def readDeltas (x : Ctx) (n base : Noun) (m : MapHeader) (map : List Byte) (valid : Tbl Unit) :
    Nat → Nat → VM (Tbl Nat × Option (Nat × Nat))
  | 0, _ => pure ([], none)
  | k + 1, b => do
    let entry := leAt map (4 * b) 4
    let rest (acc : Tbl Nat) : VM (Tbl Nat × Option (Nat × Nat)) := do
      let (t, bad) ← readDeltas x n base m map valid k (b + 1)
      pure (acc ++ t, bad)
    let addr := recordAddr n base entry
    if entry = 0 then rest []
    else if !(m.leads entry) then pure ([], some (b, addr))
    else
      let (h, p) ← readBlock x n addr (recordsAt n base + m.used - (addr + 16))
      match if addr + 16 + h.len ≤ recordsAt n base + m.used then
              decodeRecord n base b (fun t => (valid.seek (b * base.blockSlots + t)).isSome) h p
            else none with
      | none => pure ([], some (b, addr))
      | some ds => rest (ds.map fun (t, v) => (b * base.blockSlots + t, v))

/-- base + difference, rounded once into a format (R280). -/
def addDelta (n base : Noun) (fmt raw : Nat) (delta : Option Nat) : Nat :=
  match delta with
  | none => if fmt = base.format then raw else (roundInto fmt .ne (valueOf base.format raw)).raw
  | some d => (roundInto fmt .ne ((valueOf base.format raw).add (valueOf n.format d))).raw

/-- A DCOPY that decodes the delta form. -/
def decodeTwo (x : Ctx) (d : Tensor) (a base : View) : VM Unit := do
  let n := a.noun
  let b := base.noun
  require (!fmtIsMx d.fmt && d.fmt != fmtE8M0 && (if d.port.isSome then d.count == n.count else d.exts == n.exts))
  decoded x
  awaitPeers x
  awaitCodec x
  let p := orderedPath x n false
  let idx := indices n.exts
  let valid : Tbl Unit := (idx.filterMap b.slotOf).foldl (fun t i => t.put i ()) []
  let m := parseMap (← readBytes x.a p n.base 64)
  let raws ← readElems x.a base (orderedPath x b false) idx
  let out := indices d.exts
  if !(m.fits b) then haltAt x d [] (out.map fun i => (i, 0)) n.base (n.space == 1)
  else
    let map ← readBytes x.a p (n.base + 64) (4 * b.baseBlocks)
    let (ds, bad) ← readDeltas x n b m map valid b.baseBlocks 0
    let xs := (idx.zip (out.zip raws)).map fun (i, o, r) =>
      (b.slotOf i, o, addDelta n b d.fmt r ((b.slotOf i).bind ds.seek))
    match bad with
    | none => writeVia x d (orderedPath x d.view.noun true) (xs.map fun (_, o, r) => (o, r)) true
    | some (blk, addr) =>
      let early (t : Option Nat) : Bool := match t with
        | some t => decide (t / b.blockSlots < blk)
        | none => true
      let done := xs.filter fun (t, _) => early t
      let rest := xs.filter fun (t, _) => !(early t)
      haltAt x d (done.map fun (_, o, r) => (o, r)) (rest.map fun (_, o, r) => (o, r)) addr (n.space == 1)

/-- The records of the blocks from `b` on as far as they fit: bytes, map entries, and whether all fitted (R280). -/
def packRecords (n base : Noun) (ds : Tbl Nat) (capacity : Nat) :
    Nat → Nat → List Byte → List Byte → List Byte × List Byte × Bool
  | 0, _, recs, map => (recs, map, true)
  | k + 1, b, recs, map =>
    let mine := (ds.filter fun (t, _) => t / base.blockSlots == b).map fun (t, v) => (t % base.blockSlots, v)
    if mine.isEmpty then packRecords n base ds capacity k (b + 1) recs (map ++ leBytes 4 0)
    else
      let r := padRecord (encodeRecord n base b mine)
      if recs.length + r.length > capacity then (recs, map, false)
      else packRecords n base ds capacity k (b + 1) (recs ++ r) (map ++ leBytes 4 (1 + recs.length / 64))

/-- A DCOPY that encodes the delta form of A against a base: records, map and, last, the map header (R280). An element of the base that
lies in no block stays unmarked (log entry 79). -/
def encodeTwo (x : Ctx) (d base : View) (a : Tensor) : VM Unit := do
  let n := d.noun
  let b := base.noun
  require (!fmtIsMx a.fmt && a.fmt != fmtE8M0 && (if a.port.isSome then a.count == n.count else a.exts == n.exts))
  decoded x
  awaitPeers x
  awaitCodec x
  let idx := indices n.exts
  let ra ← readVia x a (orderedPath x a.view.noun false) (indices a.exts)
  let rb ← readElems x.a base (orderedPath x b false) idx
  let m := parseMap (← readBytes x.a (orderedPath x n false) n.base 64)
  let ds : Tbl Nat := (idx.zip (ra.zip rb)).foldl (fun t (i, u, v) =>
    let raw := (roundInto n.format .ne ((valueOf a.fmt u).sub (valueOf b.format v))).raw
    match b.slotOf i with
    | some j => if (valueOf n.format raw).isZero then t else t.put j raw
    | none => t) []
  let (recs, map, ok) := packRecords n b ds m.capacity b.baseBlocks 0 [] []
  let header : MapHeader :=
    { blocks := b.baseBlocks, capacity := m.capacity, used := recs.length, baseVa := b.base, clean := true }
  let plan (addr : Nat) (bs : List Byte) : Plan := { path := orderedPath x n true, lines := bytesLines addr bs }
  let body := [plan (recordsAt n b) recs, plan (n.base + 64) map]
  if ok then commitAll x (body ++ [{ plan n.base header.bytes with last := true }])
  else
    commitAll x.whole body
    fail Code.nounBounds

/-! ### DCOPY (R163) -/

/-- The row of R91 of DCOPY. -/
def dcopyForm (v : Verb) : Form :=
  { dst := kNoun + kPort, srca := kNoun + kPort, srcb := kNoun + kNone, mode := 3, order := true,
    scope := v.order != 0 }

/-- The operands of a DCOPY: destination, source, and the base of the delta form where one is named. -/
def dcopyOperands (x : Ctx) : VM (Tensor × Tensor × Option Tensor) := do
  let base ← match parseOperand x.v.srcb with
    | .noun h => tryCatch (do pure (some (← fetchNoun x h))) fun e => match e with
      | .wait => throw .wait
      | .fault _ => pure none
    | _ => pure none
  let use : NounUse := { packed := true, base := base }
  let d ← given (← useDest x x.v.dst x.v.offsDst use)
  let a ← given (← useSource x x.v.srca x.v.offsA use)
  pure (d, a, ← useSource x x.v.srcb x.v.offsB {})

/-- What a DCOPY does with its operands: a check-value copy, the codec, or a plain copy. -/
def dcopyWork (x : Ctx) (d a : Tensor) (b : Option Tensor) : VM Unit := do
  let dc := if d.port.isSome then 0 else d.view.noun.compress
  let ac := if a.port.isSome then 0 else a.view.noun.compress
  require ((dc == 0 || ac == 0) && (b.isSome == (dc == 2 || ac == 2)))
  if x.v.usesCv then cvCopy x d a (bit x.v.mode 0)
  else if ac = 1 then decodeOne x d a.view
  else if dc = 1 then encodeOne x d.view a
  else if ac = 2 then decodeTwo x d a.view (← given b).view
  else if dc = 2 then encodeTwo x d.view (← given b).view a
  else
    require (a.fmt == d.fmt && (if a.port.isSome || d.port.isSome then a.count == d.count else a.exts == d.exts))
    decoded x
    awaitPeers x
    let raws ← readVia x a (orderedPath x a.view.noun false) (indices a.exts)
    writeVia x d (orderedPath x d.view.noun true) ((indices d.exts).zip raws) true

/-- DCOPY -/
def dcopyBody (x : Ctx) : VM Bool := do
  require ((dcopyForm x.v).ok x.a.q x.v && x.v.mode != 3)
  let (d, a, b) ← dcopyOperands x
  dcopyWork x d a b
  pure true

/-- DCOPY -/
def execDcopy (c k : Nat) (u : Upset) (s : State) : Host.Outcome State Fault Refusal :=
  .next (s.issue c k .d 0xC8 u dcopyBody)

/-! ### DGATHER (R93) -/

/-- The value of an index element: signed for INT32. -/
def indexValue (fmt raw : Nat) : Int := if fmt = fmtINT32 then signed 32 raw else (raw % 2 ^ 32 : Nat)

/-- An index noun's elements. -/
def readIndices (x : Ctx) (v : View) : VM (List Int) := do
  let raws ← readElems x.a v v.noun.path (indices v.noun.exts)
  pure (raws.map (indexValue v.noun.format))

/-- A format an index noun may have. -/
def indexFormat (f : Nat) : Bool := f == fmtINT32 || f == fmtUINT32

/-- An operand that is a flat noun or a port. -/
def flatSource (x : Ctx) (field offs : Nat) : VM Tensor := do
  match parseOperand field with
  | .noun h => do
    let v ← useNoun x h offs { packed := true }
    pure { view := v }
  | _ => given (← useSource x field offs {})

/-- None of some nouns is compressed (R281). -/
def allFlat (ns : List Noun) : Bool := ns.all fun n => n.compress == 0

/-- The layouts of the table and of the index of a gather or a scatter (R151). -/
def tableLayouts (table index : Noun) (dim : Nat) : Bool :=
  table.layout != 3 && (table.layout != 4 || decide (dim ≥ 1)) && index.layout == 0

/-- The destination of a DGATHER: a flat noun, or a producer port. -/
def gatherDest (x : Ctx) : VM Tensor := do
  match parseOperand x.v.dst with
  | .noun h => do
    let v ← useNoun x h x.v.offsDst { written := true, packed := true }
    pure { view := v }
  | _ => given (← useDest x x.v.dst x.v.offsDst {})

/-- DGATHER -/
def dgatherBody (x : Ctx) : VM Bool := do
  let dim := bits x.v.mode 0 3
  let clamp := bit x.v.mode 3
  require (({ dst := kNoun + kPort, srca := kNoun, srcb := kNoun, mode := 0x0F } : Form).ok x.a.q x.v)
  let d ← gatherDest x
  let a ← flatNoun x x.v.srca x.v.offsA {}
  let i ← flatNoun x x.v.srcb x.v.offsB {}
  let ext := a.noun.ext dim
  require (allFlat [d.view.noun, a.noun, i.noun] && tableLayouts a.noun i.noun dim && decide (dim < a.noun.rank)
    && indexFormat i.noun.format && d.fmt == a.noun.format
    && d.exts == a.noun.exts.set dim i.noun.count)
  decoded x
  let at_ ← readIndices x i
  let good (j : Int) : Bool := decide (0 ≤ j) && decide (j < ext)
  if !clamp && !(at_.all good) then fail Code.indexRange
  let out := indices d.exts
  let source (o : List Int) : Int := at_.getD (o.getD dim 0).toNat 0
  let real := out.filter fun o => good (source o)
  let raws ← readElems x.a a a.noun.path (real.map fun o => o.set dim (source o))
  let pad := (padRaw a.noun.format a.noun.padval).getD 0
  let absent := (out.filter fun o => !good (source o)).map fun o => (o, pad)
  writeTensor x d (real.zip raws ++ absent) true
  pure true

/-- DGATHER -/
def execDgather (c k : Nat) (u : Upset) (s : State) : Host.Outcome State Fault Refusal :=
  .next (s.issue c k .d 0xC9 u dgatherBody)

/-! ### Atomics (R181) -/

/-- An atomic's code for `atomicResult`, its operand and its comparand. -/
structure AtomicOp where
  code : Nat
  x : Nat
  cmp : Nat
  deriving DecidableEq, Repr

/-- The bytes an atomic writes, as a mask of its line. -/
def atomicMask (size addr : Nat) : Nat := (2 ^ size - 1) * 2 ^ (addr % 128)

/-- What an atomic at a place finds there, once another atomic it is not atomic with has been counted (R182); it is then the last one
there. -/
def contend (a : Issuer) (spot : Spot) (scope now : Nat) : VM Nat := do
  let old ← modifyGet fun s => s.contended spot a.writer scope now
  change fun s => s.noteAtomic spot a.writer scope a.id now
  pure old

/-- An atomic in a core's local store. -/
def localAtomic (a : Issuer) (c k off scope : Nat) (o : AtomicOp) : VM (Option Nat) := do
  let size := atomicSize o.code
  let b ← localRead a c k off size
  let old ← contend a (.localStore (12 * c + k) off) scope (leNat b)
  change fun s => s.noteWrote a (Target.window c k off).key (atomicMask size off)
  change fun s => s.localWrite c k off size (leBytes size (atomicResult o.code old o.x o.cmp)) (2 ^ size - 1)
  pure (some old)

/-- The key an atomic on a peer's memory is known by. -/
def peerAtomicKey (f n addr : Nat) : Nat := 2 ^ 80 + peerKey f n addr

/-- The scope an issuer's named scope acts as (R29). -/
def Issuer.scope (a : Issuer) (scope : Nat) : Nat :=
  match writerParty a.writer with
  | some p => p.effective scope
  | none => scope

/-- An atomic at a byte address of a space, at the point its scope selects: its old value, or nothing where a base die
or a peer answers later. -/
def atomicAt (a : Issuer) (scope space addr : Nat) (o : AtomicOp) : VM (Option Nat) := do
  let size := atomicSize o.code
  let scope := a.scope scope
  if space = 1 then localAtomic a a.c a.k addr scope o
  else
    let within := addr % 128
    match ← walk a (addr - within) true with
    | .window c k off => localAtomic a c k (off + within) scope o
    | .dram pa => do
      change fun s => (s.unreserve a.c (pa / 128)).noteWrote a (Target.dram pa).key (atomicMask size addr)
      if 2 ≤ scope then do
        change fun s => s.writeBackLine a.c (pa / 128) a.writer a.id true
        let p := pa + within
        let r ← modifyGet fun s => s.writeBase
          { writer := a.writer, line := p / 64, atomic := some (o.code, p % 64, o.x, o.cmp), tag := a.id, scope := scope, va := addr }
        match r with
        | none => pure none
        | some (st, old) => if st = Code.ok then pure (some old) else vaFault a addr st
      else do
        let r ← modifyGet fun s => s.cacheRead a.c a.station (pa / 128) 3 true
        let b ← ofRead a addr r
        let old ← contend a (.cache a.c (pa + within)) scope (leAt b within size)
        change fun s => s.storeCached a.c (pa / 128) ((s.cluster a.c).cache.look {} (pa / 128))
          (overlay b within (leBytes size (atomicResult o.code old o.x o.cmp))) (atomicMask size addr)
        pure (some old)
    | .companion base => do
      let p := base + within
      let b ← compLine a p
      let old ← contend a (.companion p) scope (leAt b (p % 64) size)
      change fun s => s.noteWrote a (Target.companion p).key (atomicMask size p)
      change fun s => s.compWrite p (overlay b (p % 64) (leBytes size (atomicResult o.code old o.x o.cmp)))
        ((2 ^ size - 1) * 2 ^ (p % 64)) .ordered
      pure (some old)
    | .peer f n base => do
      let s ← get
      match s.flowUsable f n a.pid with
      | some st => fail st
      | none =>
        let op := o.code % 16
        if o.code ≥ 32 || (op == 8 && !(bit (s.flow f n).feat 0)) then fail Code.verbInvalid
        else
          let key := peerAtomicKey f n (base + within)
          let next := ((s.flow f n).nextPsn + 1) % 2 ^ 32
          change fun s => s.flowSend f n
            { typ := 5, len := 8, addr := base + within, op := o.code % 32, last := true,
              payload := leBytes 4 o.x ++ leBytes 4 o.cmp } { writer := a.writer, tag := a.id, key := key }
          change fun s => s.modIssuer a fun x => { x with sent := x.sent.put (1024 * f + n) next }
          change fun s => s.modEntry a fun e => { e with asked := e.asked ++ [key] }
          pure none

/-- A 64-byte line of device memory is free for a step that reads and writes it at once: no claim holds a write there, and the
companion, asked for its copy, has given it up. -/
def lineFree (a : Issuer) (line : Nat) : VM Unit := do
  let s ← get
  match s.claimant a.writer (line / 1024) with
  | some id =>
    change fun s => s.noteOverlap id
    throw .wait
  | none =>
    if s.companionHolds a.writer line then
      if !(s.xl.withdraws.any fun w => w.1 == line) then change fun s => s.withdraw line none
      throw .wait

/-- The path of an atomic through a noun. -/
def atomicPath (a : Issuer) (scope : Nat) (n : Noun) : Path :=
  { space := n.space, alloc := true, ordered := decide (2 ≤ a.scope scope) }

/-- An element that fills no whole bytes in one place is ready to be added to as one step. -/
def elementReady (a : Issuer) (scope : Nat) (v : View) (i : List Int) : VM Unit := do
  let p := atomicPath a scope v.noun
  for l in linesOf 1024 (v.pieces i) do
    match ← writeTarget a p l with
    | .dram pa =>
      if p.ordered then
        lineFree a (pa / 64)
        lineFree a (pa / 64 + 1)
        change fun s => s.writeBackLine a.c (pa / 128) a.writer a.id true
        if (← get).writingBack a.c (pa / 128) then throw .wait
    | .peer _ _ _ => fail Code.verbInvalid
    | _ => pure ()

/-- A contribution added to such an element, as one step (R93, R151). -/
def elementAtomic (a : Issuer) (scope : Nat) (v : View) (i : List Int) (raw : Nat) : VM Unit := do
  let p := atomicPath a scope v.noun
  let ps := v.pieces i
  let t ← readEach { a with upset := { a.upset with reads := none } } p (fun _ => 3) (linesOf 1024 ps)
  let first := (ps.headD (0, 0)).1.toNat
  let target ← writeTarget a p (first / 1024)
  let old ← contend a (.element target.key (first % 1024)) (a.scope scope) (assemble 1024 t v.noun.w ps)
  writeEach a p (v.linesFor [(i, elementAdd v.noun.format old raw)])

/-! ### DSCATTER (R93) -/

/-- The row of R91 of DSCATTER. -/
def dscatterForm (v : Verb) : Form :=
  { dst := kNoun, srca := kNoun + kPort, srcb := kNoun, mode := 0x1F, scope := bit v.mode 4 }

/-- The atomic that adds one element in its format. -/
def addOp (fmt raw : Nat) : AtomicOp :=
  if fmt = fmtINT32 || fmt = fmtUINT32 then ⟨0, raw, 0⟩
  else if fmt = fmtFP32 then ⟨8, raw, 0⟩
  else ⟨32 * fmt, raw, 0⟩

/-- The moves of a DSCATTER performed one after another: each element stored, or added by an atomic once every place is ready;
materialised pads are written with them (R93, R162). -/
def scatterMoves (x : Ctx) (d : View) (moves : List (List Int × Nat)) (add : Bool) : VM Unit := do
  let pads := d.linesFor d.noun.padWrites
  if !add then writeTensor x { view := d } moves true
  else
    let whole := d.noun.w % 8 == 0 && d.noun.layout != 4
    let place (i : List Int) : Nat := ((d.pieces i).headD (0, 0)).1.toNat / 8
    for (i, _) in moves do
      if !whole then elementReady x.a x.v.scope d i
      else if d.noun.space != 1 then
        let _ ← walk x.a (place i / 128 * 128) true
    readyLines x.a d.noun.path pads
    for (i, r) in moves do
      if whole then
        let _ ← atomicAt x.a x.v.scope d.noun.space (place i) (addOp d.noun.format r)
      else elementAtomic x.a x.v.scope d i r
    putLines x.a d.noun.path pads

/-- DSCATTER -/
def dscatterBody (x : Ctx) : VM Bool := do
  let dim := bits x.v.mode 0 3
  let clamp := bit x.v.mode 3
  let add := bit x.v.mode 4
  require ((dscatterForm x.v).ok x.a.q x.v)
  let d ← flatNoun x x.v.dst x.v.offsDst { written := true }
  let a ← flatSource x x.v.srca x.v.offsA
  let i ← flatNoun x x.v.srcb x.v.offsB {}
  let ext := d.noun.ext dim
  require (allFlat [d.noun, a.view.noun, i.noun] && tableLayouts d.noun i.noun dim && decide (dim < d.noun.rank)
    && indexFormat i.noun.format && d.noun.format == a.fmt
    && a.exts == d.noun.exts.set dim i.noun.count)
  decoded x
  let at_ ← readIndices x i
  let good (j : Int) : Bool := decide (0 ≤ j) && decide (j < ext)
  if !clamp && !(at_.all good) then fail Code.indexRange
  let src := indices a.exts
  let raws ← readTensor x a src
  let target (o : List Int) : Int := at_.getD (o.getD dim 0).toNat 0
  let moves := ((src.zip raws).filter fun (o, _) => good (target o)).map fun (o, r) => (o.set dim (target o), r)
  let moves ← modifyGet fun s => State.shuffle moves.length moves s
  scatterMoves x d moves add
  pure true

/-- DSCATTER -/
def execDscatter (c k : Nat) (u : Upset) (s : State) : Host.Outcome State Fault Refusal :=
  .next (s.issue c k .d 0xCA u dscatterBody)

/-! ### DAK2 (R101, R102) -/

/-- The entries of the address FIFO taken one after another while there are any: one block for each. -/
def dak2Loop (x : Ctx) (v : View) (first size : Nat) (out : Bool) (count : Nat) : Nat → VM Bool
  | 0 => do pure (decide (count ≤ ((← get).entry x.a).taken - 1))
  | fuel + 1 => do
    let s ← get
    let taken := (s.entry x.a).taken - 1
    if taken ≥ count then pure true
    else
      match (s.core x.a.c x.a.k).afifo with
      | [] => pure false
      | e :: _ =>
        let pop : VM Unit := do
          change fun s => s.modCore x.a.c x.a.k fun y => { y with afifo := y.afifo.drop 1 }
          change fun s => s.modEntry x.a fun q => { q with taken := q.taken + 1, loaded := [] }
        if bits e 52 12 != 0 || e % size != 0 then
          pop
          change fun s => s.modCore x.a.c x.a.k fun y => { y with trapAddr := e }
          fail Code.ak2Address
        else
          let here : Path := { space := 1 }
          let there : Path := { space := 0, alloc := decide (v.noun.scope ≤ 1) }
          let at_ := first + taken * size
          if out then do
            let b ← readBytes x.a here at_ size
            writeBytes x.a there e b
          else do
            let b ← readBytes x.a there e size
            writeBytes x.a here at_ b
          pop
          dak2Loop x v first size out count fuel

/-- DAK2 -/
def dak2Body (x : Ctx) : VM Bool := do
  let n := bits x.v.mode 0 4
  let out := bit x.v.mode 4
  let count := x.v.imm
  require (({ srca := kNoun, mode := 0x1F, imm := 0xFFFF, ext := .no } : Form).ok x.a.q x.v && decide (n ≤ 6)
    && decide (1 ≤ count))
  let v ← flatNoun x x.v.srca 0 { written := !out }
  require (allFlat [v.noun] && v.noun.space == 1)
  decoded x
  let size : Nat := 64 * 2 ^ n
  let (lo, hi) := v.footprint none
  if lo + count * size > hi + 1 then fail Code.nounBounds
  else dak2Loop x v lo.toNat size out count 65

/-- DAK2 -/
def execDak2 (c k : Nat) (u : Upset) (s : State) : Host.Outcome State Fault Refusal :=
  .next (s.issue c k .d 0xCB u dak2Body)

/-! ### DFLUSH (R174) -/

/-- The device physical lines of a range of a virtual space that lie in device memory. -/
def dramLines (a : Issuer) : List Nat → VM (List Nat)
  | [] => pure []
  | l :: r => do
    let t ← walk a (128 * l) false
    let rest ← dramLines a r
    match t with
    | .dram pa => pure (pa / 128 :: rest)
    | _ => pure rest

/-- DFLUSH goes on until no write-back of a line of its footprint is on its way, whoever began it (R174). -/
def dflushBody (x : Ctx) : VM Bool := do
  require (({ srca := kNoun, mode := 1 } : Form).ok x.a.q x.v)
  let v ← flatNoun x x.v.srca x.v.offsA {}
  require (allFlat [v.noun])
  decoded x
  if v.noun.space = 0 then
    let (lo, hi) := v.footprint none
    let first := lo.toNat / 128
    let lines ← dramLines x.a ((List.range (hi.toNat / 128 - first + 1)).map (· + first))
    for l in lines do
      change fun s => s.writeBackLine x.a.c l x.a.writer x.a.id (bit x.v.mode 0)
    let s ← get
    pure (!(lines.any fun l => s.writingBack x.a.c l))
  else pure true

/-- DFLUSH -/
def execDflush (c k : Nat) (u : Upset) (s : State) : Host.Outcome State Fault Refusal :=
  .next (s.issue c k .d 0xCC u dflushBody)

/-! ### DATOM (R181) -/

/-- The row of R91 of DATOM. -/
def datomForm : Form :=
  { dst := kCounter + kNoun + kNone, srca := kNoun, srcb := kCounter + kNone, srcc := kCounter + kNone, mode := 0x0F,
    imm := 0xFFFFFFFF, scope := true, order := true }

/-- A noun that holds one naturally aligned 32-bit element. -/
def oneWord (v : View) : Bool :=
  v.noun.rank == 1 && v.noun.exts == [1] && v.noun.w == 32 && v.noun.layout == 0
    && ((v.pieces [0]).headD (1, 0)).1 % 32 == 0

/-- A DATOM that starts: its operands, and the atomic at the point its scope selects, with the old value where it is known at
once. -/
def datomStart (x : Ctx) : VM (Option Nat) := do
  let op := bits x.v.mode 0 4
  require (datomForm.ok x.a.q x.v && decide (op ≤ 8) && ((parseOperand x.v.srcc).kind == kCounter) == (op == 4))
  let d ← match parseOperand x.v.dst with
    | .noun h => do
      let v ← useNoun x h x.v.offsDst { written := true, packed := true }
      pure (some v)
    | _ => pure none
  let a ← flatNoun x x.v.srca x.v.offsA { written := true }
  let f := a.noun.format
  require (allFlat (a.noun :: (d.map View.noun).toList) && oneWord a && (if op = 8 then f == fmtFP32 else f == fmtINT32 || f == fmtUINT32)
    && (match d with
        | none => true
        | some v => v.noun.layout == 0 && v.noun.count == 1 && v.noun.w == 32))
  decoded x
  awaitPeers x
  let value ← match counterOf x.v.srcb with
    | some n => x.counter n
    | none => pure x.v.imm
  let cmp ← match counterOf x.v.srcc with
    | some n => x.counter n
    | none => pure 0
  -- the place of the old value is found before the atomic is performed
  match d with
  | some v => if v.noun.space = 0 then
      let _ ← walk x.a ((((v.pieces [0]).headD (0, 0)).1.toNat / 8) / 128 * 128) true
  | none => pure ()
  atomicAt x.a x.v.scope a.noun.space (((a.pieces [0]).headD (0, 0)).1.toNat / 8)
    { code := op + (if f = fmtUINT32 then 16 else 0), x := value, cmp := cmp }

/-- DATOM -/
def datomBody (x : Ctx) : VM Bool := do
  let e := (← get).entry x.a
  match e.old with
  | some old =>
    takeOld x old
    pure true
  | none =>
    if !e.asked.isEmpty then pure false
    else
      match ← datomStart x with
      | some old =>
        takeOld x old
        pure true
      | none => pure ((← get).entry x.a).asked.isEmpty

/-- DATOM -/
def execDatom (c k : Nat) (u : Upset) (s : State) : Host.Outcome State Fault Refusal :=
  .next (s.issue c k .d 0xCD u datomBody)

/-! ### DCVCFG (R94, R263) -/

/-- A configuration read from 32 bytes; none where R94 or R263 is broken. -/
def parseCv (b : List Byte) : Option CvConfig :=
  let w := leAt b 24 1
  let fl := leAt b 25 1
  let c : CvConfig := { poly := leAt b 0 8, init := leAt b 8 8, xorout := leAt b 16 8, width := w, reflectIn := bit fl 0,
                        reflectOut := bit fl 1 }
  if 1 ≤ w && w ≤ 64 && fl < 4 && leAt b 26 6 == 0 && c.poly < 2 ^ w && c.init < 2 ^ w && c.xorout < 2 ^ w then some c
  else none

/-- DCVCFG -/
def dcvcfgBody (x : Ctx) : VM Bool := do
  require (({ srca := kNoun, ext := .no } : Form).ok x.a.q x.v)
  let v ← flatNoun x x.v.srca 0 {}
  require (allFlat [v.noun] && v.noun.count * v.noun.w == 256)
  decoded x
  let raws ← readElems x.a v v.noun.path (indices v.noun.exts)
  let c ← given (parseCv (packElems v.noun.w raws))
  change fun s => s.modCore x.a.c x.a.k fun y => { y with cv := c }
  pure true

/-- DCVCFG -/
def execDcvcfg (c k : Nat) (u : Upset) (s : State) : Host.Outcome State Fault Refusal :=
  .next (s.issue c k .d 0xCE u dcvcfgBody)

end Sys2Proof.Machine
end

