-- ==== Sys2Proof/Machine/Images.lean ====
section
/-!
DEFINITION. Digests, key identifiers and the signature rules that grammar, clause and firmware images share (R35, R36,
R401, R402).
-/

namespace Sys2Proof.Machine

/-- The 64-byte SHAKE256 digest of a byte string. -/
def digest (b : List Byte) : List Byte := slice (Config.shake256 b) 0 64

/-- A key identifier: the first 8 bytes of the digest of the public key. -/
def keyId (key : List Byte) : Nat := leAt (digest (slice key 0 57)) 0 8

/-- The signed part of an image, its digest, and its trailer (R35). -/
def signedPart (image : List Byte) : List Byte := image.take (image.length - 128)
def imageDigest (image : List Byte) : List Byte := digest (signedPart image)
def trailer (image : List Byte) : List Byte := slice (image.drop (image.length - 128)) 0 128

/-- A trailer's zero bytes are zero, and its signature over a digest is good under a key it names. -/
def trailerGood (t dig key : List Byte) : Bool :=
  leAt t 114 6 == 0 && leAt t 120 8 == keyId key && Config.ed448Good (slice key 0 57) dig (slice t 0 114)

/-- The Woath image keys in the running firmware's table (R401). -/
def imageKeys (firmware : List Byte) : List (List Byte) :=
  (List.range (leAt firmware 0x0D 1)).map fun i => slice firmware (0x40 + 64 * i) 57

/-- The signer rules of R36 on a grammar or clause image, with the owner key that counts for it. -/
def signatureGood (firmware : List Byte) (owner : Option (List Byte)) (keyBad : Bool) (signer : Nat)
    (image : List Byte) : Bool :=
  let t := trailer image
  let d := imageDigest image
  !keyBad && (match owner with
    | none => signer == 0 && (imageKeys firmware).any (trailerGood t d)
    | some k => signer == 1 && trailerGood t d k)

/-- The checks of R402 on a firmware image: the first status that fails. -/
def firmwareStatus (floor revoked : Nat) (b : List Byte) : Option Status :=
  let len := leAt b 8 4
  let keys := leAt b 0x0D 1
  let off := leAt b 0x10 4
  let code := leAt b 0x14 4
  let reserved := leAt b 0x0F 1 == 0 && bits (leAt b 0x0E 1) 4 4 == 0 && leAt b 0x24 28 == 0
    && (List.range keys).all fun i => leAt b (0x40 + 64 * i + 57) 7 == 0
  let image := b.take len
  if !(slice b 0 4 == [0x41, 0x4B, 0x46, 0x57] && leAt b 4 2 == 3 && len % 64 == 0 && decide (192 ≤ len)
      && decide (len ≤ 0xB0000) && decide (len ≤ b.length) && off % 64 == 0 && decide (0x40 ≤ off)
      && decide (code ≤ 655360) && decide (off + code ≤ len) && decide (1 ≤ keys) && decide (keys ≤ 4) && reserved) then
    some Code.fwFormat
  else
    let t := trailer image
    match (List.range 4).find? fun i => !(bit revoked i) && leAt t 120 8 == keyId (Config.romKey i) with
    | none => some Code.sigFail
    | some i =>
      if !(trailerGood t (imageDigest image) (Config.romKey i)) then some Code.sigFail
      else if leAt b 0x0C 1 < floor then some Code.rollback
      else if bit (leAt b 0x0E 1) i then some Code.fwFormat
      else none

/-- The bytes a slot holds as an image: its LENGTH bytes. -/
def imageOf (slot : List Byte) : List Byte := slot.take (leAt slot 8 4)

end Sys2Proof.Machine
end

