-- ==== Sys2Proof/Machine/CoreCtl.lean ====
section
/-!
DEFINITION. Commands to a core from its registers: START, STOP, ABORT, clause loads, STRAP_PEND and the address FIFO
(R101, R105, R107 to R109, R112 to R114).
-/

namespace Sys2Proof.Machine

/-- The management-window offset of a register of a core (R112). -/
def coreOffset (c k off : Nat) : Nat := 0x800000 + c * 0x20000 + k * 0x1000 + off

/-- A write to a core register that reaches nothing: an absent core (R112), or no image yet (R31). -/
def State.coreRefused (s : State) (c k off : Nat) : Option State :=
  if !(s.corePresent c k) then some (s.recordAccess Code.badAccess (coreOffset c k off))
  else if s.gram.image.isNone then some (s.recordAccess Code.noImage (coreOffset c k off))
  else none

/-- CORE_STATE.LAST_CMD_STATUS. -/
def State.coreStatus (s : State) (c k : Nat) (st : Status) : State :=
  s.modCore c k fun x => { x with lastCmd := st }

/-- START (R113): on a quiescent core, held by a core set in force, whose bank is READY. -/
def State.coreStart (s : State) (c k bank entry : Nat) : State :=
  let x := s.core c k
  if x.run != .quiescent then s.coreStatus c k Code.coreBusy
  else if (s.corePid c k).isNone then s.coreStatus c k Code.stationForeign
  else if (x.bankOf bank).state != .ready then s.coreStatus c k Code.clauseInvalid
  else (s.clockRuns c k).modCore c k fun x =>
    { x with run := .running, lastCmd := Code.ok, counters := [], preds := 0, halted := ⟨false, false, false, false⟩,
             cv := if x.cvUsed then x.cv else {}, cvUsed := true,
             disp := { x.disp with fetching := true, pos := entry, bank := bank, fetched := bank, stall := .none,
                                   stop := false, swap := none } }

/-- CORE_START -/
def execCoreStart (c k bank entry : Nat) (s : State) : Host.Outcome State Fault Refusal :=
  .next ((s.coreRefused c k 4).getD (s.coreStart c k (bank % 2) (entry % 4096)))

/-- STOP (R114). -/
def State.coreStop (s : State) (c k : Nat) : State :=
  s.modCore c k fun x =>
    { x with lastCmd := Code.ok, disp := { x.disp with stop := x.disp.fetching && x.run != .offline } }

/-- CORE_STOP -/
def execCoreStop (c k : Nat) (s : State) : Host.Outcome State Fault Refusal :=
  .next ((s.coreRefused c k 4).getD (s.coreStop c k))

/-- ABORT (R113). -/
def State.coreAbort (s : State) (c k : Nat) : State :=
  (s.abandon c k (if (s.core c k).run = .offline then .offline else .quiescent)).coreStatus c k Code.ok

/-- CORE_ABORT -/
def execCoreAbort (c k : Nat) (s : State) : Host.Outcome State Fault Refusal :=
  .next ((s.coreRefused c k 4).getD (s.coreAbort c k))

/-! ### Clause loads (R107 to R109) -/

/-- A LOAD written to IBb_STAT (R108). -/
def State.bankLoad (s : State) (c k bank : Nat) : State :=
  let x := s.core c k
  let b := x.bankOf bank
  let refuse (st : Status) : State := s.modCore c k fun x => x.modBank bank fun b => { b with status := st }
  if b.state = .loading then s.coreStatus c k Code.loadBusy
  else if (s.clusterPid c).isNone then refuse Code.stationForeign
  else if x.disp.fetched = bank && (x.run == .running || x.run == .draining || x.run == .faulted) then refuse Code.busyFetch
  else s.modCore c k fun x => x.modBank bank fun b =>
    { b with state := .loading, words := [], names := [], jobSrc := b.src, jobLen := b.len }

/-- IB_LOAD -/
def execIbLoad (c k bank : Nat) (s : State) : Host.Outcome State Fault Refusal :=
  .next ((s.coreRefused c k (if bank % 2 = 0 then 0x34 else 0x44)).getD (s.bankLoad c k (bank % 2)))

/-- What a clause load comes to: a status with the name entry it concerns, or the bank's words and resolved names. -/
inductive ClauseResult where
  | failed (st : Status) (name : Nat)
  | ready (words : List (List Byte)) (names : List Nat)
  deriving DecidableEq, Repr

/-- Check 2 of R108 on a clause image. -/
def clauseFormed (grade fw : Nat) (len : Nat) (b : List Byte) : Bool :=
  let words := leAt b 0x0C 2
  let names := leAt b 0x0E 2
  let body := 64 + 16 * words + 24 * names
  let total := 8 * ceilDiv body 8 + 128
  slice b 0 4 == [0x41, 0x4B, 0x43, 0x4C] && leAt b 4 2 == 3 && leAt b 7 1 == 0 && leAt b 8 4 == len
    && decide (1 ≤ words) && decide (words ≤ 4096) && decide (names ≤ 256) && total == len
    && leAt b 0x11 1 == 0 && leAt b 0x1C 36 == 0 && leAt b body (8 * ceilDiv body 8 - body) == 0
    && bit (leAt b 0x10 1) grade && decide (leAt b 0x10 1 < 8) && decide (leAt b 0x12 2 ≤ fw)

/-- The station a name is bound to in a partition's name space (R66). -/
def Image.resolve (i : Image) (p : Nat) (name : List Byte) : Option Nat :=
  (i.stats.find? fun r => r.pid == p && r.name == name).map (·.station)

/-- Names resolved in order; the first that does not resolve ends the load. -/
def resolveAll (i : Image) (p : Nat) : Nat → List (List Byte) → Except Nat (List Nat)
  | _, [] => .ok []
  | n, x :: r =>
    match i.resolve p x with
    | none => .error n
    | some st =>
      match resolveAll i p (n + 1) r with
      | .ok xs => .ok (st :: xs)
      | .error e => .error e

/-- A digest accepted joins the list of R109 and the clause log of R407 while they have room. -/
def Sec.acceptClause (x : Sec) (d : List Byte) : Sec :=
  if x.clauseList.contains d then x
  else { x with clauseList := if x.clauseList.length < 1024 then x.clauseList ++ [d] else x.clauseList,
                clauseLog := if x.clauseList.length < 1024 && x.clauseLog.length < 1024 then x.clauseLog ++ [d]
                             else x.clauseLog }

/-- Checks 2 to 4 of R108 on the bytes read: the outcome, and the digest accepted. -/
def State.judgeClause (s : State) (c len : Nat) (b : List Byte) : ClauseResult × Option (List Byte) :=
  let words := leAt b 0x0C 2
  let names := leAt b 0x0E 2
  if !(clauseFormed s.fuses.grade s.mgmt.fwVersion len b) then (.failed Code.clauseInvalid 0, none)
  else
    let d := imageDigest b
    if !(s.sec.clauseList.contains d)
        && !(signatureGood s.mgmt.firmware s.flash.ownerKey s.flash.keyBad (leAt b 6 1) b) then
      (.failed Code.sigFail 0, none)
    else
      let table := (List.range names).map fun i => slice b (64 + 16 * words + 24 * i) 24
      match s.gram.image, s.clusterPid c with
      | some i, some p =>
        match resolveAll i p 0 table with
        | .error n => (.failed Code.stationAbsent n, some d)
        | .ok ns => (.ready ((List.range words).map fun i => slice b (64 + 16 * i) 16) ns, some d)
      | _, _ => (.failed Code.stationAbsent 0, some d)

/-- The largest clause image: header, 4,096 words, 256 names, padding and trailer. -/
abbrev clauseLimit : Nat := 64 + 65536 + 6144 + 128

/-- The image of a load read from the owning partition's space: its bytes, or the status the read met; no answer while
an access waits. -/
def State.readClause (s : State) (c k src len : Nat) : Except Halt (List Byte) × State :=
  let a : Issuer := { c := c, k := k, q := .s, id := 0, pid := pidField (s.clusterPid c), direct := true }
  let before := (s.core c k).stat
  let (r, s) := (readBytes a {} src (min len clauseLimit)).run s
  (r, s.modCore c k fun x => { x with stat := before })

/-- The load of a bank ends (R108); a dispatcher that waits for it goes on (R111). -/
def State.endLoad (s : State) (c k bank : Nat) (r : ClauseResult) : State :=
  let s := s.modCore c k fun x => x.modBank bank fun b =>
    match r with
    | .failed st n => { b with state := .failed, status := st, name := n % 256 }
    | .ready ws ns => { b with state := .ready, status := Code.ok, name := 0, words := ws, names := ns }
  match (s.core c k).disp.stall with
  | .bankLoad b e => if b = bank then s.goTo c k b e else s
  | _ => s

/-- CLAUSE_LOAD_DONE -/
def execClauseLoadDone (c k bank : Nat) (u : Upset) (s : State) : Host.Outcome State Fault Refusal :=
  let bank := bank % 2
  let b := (s.core c k).bankOf bank
  .next <|
    if !(s.corePresent c k) || b.state != .loading then s
    else
      match (s.strike u).readClause c k b.jobSrc b.jobLen with
      | (.error .wait, s) => s
      | (.error (.fault st), s) => s.endLoad c k bank (.failed st 0)
      | (.ok bytes, s) =>
        let (r, d) := s.judgeClause c b.jobLen bytes
        let s := match d with
          | none => s
          | some d => { s with sec := s.sec.acceptClause d }
        s.endLoad c k bank r

/-! ### STRAP_PEND and the address FIFO -/

/-- STRAP_PEND_CLEAR -/
def execStrapPendClear (c k : Nat) (s : State) : Host.Outcome State Fault Refusal :=
  .next ((s.coreRefused c k 0x24).getD (s.modCore c k fun x => { x with strapPend := false }))

/-- A push into a core's address FIFO (R101, R102): a full FIFO keeps the store waiting, so that nothing has happened
yet; a core taken offline discards it; only the cluster's control core pushes. -/
def State.afifoPush (s : State) (by_ : Master) (c k entry : Nat) : State :=
  if by_ != .controlCore c then s.recordAccess Code.badValue (coreOffset c k 0x50)
  else s.modCore c k fun x =>
    if x.run = .offline || x.afifo.length ≥ 64 then x else { x with afifo := x.afifo ++ [entry % 2 ^ 64] }

/-- AFIFO_PUSH -/
def execAfifoPush (by_ : Master) (c k entry : Nat) (s : State) : Host.Outcome State Fault Refusal :=
  .next ((s.coreRefused c k 0x50).getD (s.afifoPush by_ c k entry))

end Sys2Proof.Machine
end

