-- ==== Sys2Proof/Machine/Functions.lean ====
section
/-!
DEFINITION. The functions of the vector lanes that the manual bounds and does not fix (R138, R140): each is computed here
far beyond lane precision, and a free value picks one of the lane values that the bound allows.
-/

namespace Sys2Proof.Machine

/-! ### Fixed point of 400 fraction bits -/

/-- One. -/
def fxOne : Int := 2 ^ 400

/-- The product. -/
def fxMul (a b : Int) : Int := a * b / fxOne

/-- The quotient. -/
def fxDiv (a b : Int) : Int := a * fxOne / b

/-- A finite value in fixed point, rounded down beyond 400 fraction bits. -/
def Num.toFx : Num → Int
  | .fin s m e =>
    let x : Int := if e + 400 ≥ 0 then (m * 2 ^ (e + 400).toNat : Nat) else (m / 2 ^ (-(e + 400)).toNat : Nat)
    if s then -x else x
  | _ => 0

/-- The value of a fixed-point number. -/
def ofFx (x : Int) : Num := .fin (decide (x < 0)) x.natAbs (-400)

/-- The sum of a power series: `term` steps from one term to the next. -/
def fxSeries (term : Nat → Int → Int) (first : Int) (n : Nat) : Int :=
  ((List.range n).foldl (fun (acc : Int × Int) i => let t := term i acc.2; (acc.1 + t, t)) (first, first)).1

/-- Σ ±1 / ((2i + 1) n^(2i + 1)): the arctangent of 1/n, or its hyperbolic twin. -/
def fxAtanInv (n : Int) (alternate : Bool) : Int :=
  ((List.range 140).foldl (fun (acc : Int × Int) (i : Nat) =>
    let t := acc.2 / (2 * i + 1 : Nat)
    (if alternate && i % 2 == 1 then acc.1 - t else acc.1 + t, acc.2 / (n * n))) (0, fxOne / n)).1

/-- ln 2 and π. -/
def fxLn2 : Int := 2 * fxAtanInv 3 false
def fxPi : Int := 16 * fxAtanInv 5 true - 4 * fxAtanInv 239 true

/-! ### The exact functions, to about 2^−90 -/

/-- e^x of a finite x; far arguments give a power of two beyond every format. -/
def expNum (x : Num) : Num :=
  if (Num.fin false 1 12).lt x then .fin false 1 8192
  else if x.lt (.fin true 1 12) then .fin false 1 (-8192)
  else
    let v := x.toFx
    let n := v / fxLn2
    let r := v - n * fxLn2
    match ofFx (fxSeries (fun i t => fxMul t r / ((i + 1 : Nat) : Int)) fxOne 120) with
    | .fin s m e => .fin s m (e + n)
    | y => y

/-- The natural logarithm of a finite positive x. -/
def lnNum (x : Num) : Num :=
  match x with
  | .fin false m e =>
    -- m' in [1, 2), brought to [3/4, 3/2)
    let k : Int := e + bitLength m - 1
    let y := (Num.fin false m (e - k)).toFx
    let (y, k) := if 2 * y ≥ 3 * fxOne then (y / 2, k + 1) else (y, k)
    let z := fxDiv (y - fxOne) (y + fxOne)
    let zz := fxMul z z
    let s := ((List.range 200).foldl (fun (acc : Int × Int) (i : Nat) =>
      (acc.1 + acc.2 / (2 * i + 1 : Nat), fxMul acc.2 zz)) (0, z)).1
    ofFx (2 * s + k * fxLn2)
  | y => y

/-- sin and cos of a finite x. -/
def sinCos (x : Num) : Num × Num :=
  let v := x.toFx
  let r := v - v / (2 * fxPi) * (2 * fxPi)
  let rr := fxMul r r
  let s := fxSeries (fun i t => -(fxMul t rr / (((2 * i + 2) * (2 * i + 3) : Nat) : Int))) r 90
  let c := fxSeries (fun i t => -(fxMul t rr / (((2 * i + 1) * (2 * i + 2) : Nat) : Int))) fxOne 90
  (ofFx s, ofFx c)

/-- 1 / (1 + e^−x). -/
def sigmoidNum (x : Num) : Num := (Num.ofInt 1).div ((Num.ofInt 1).add (expNum x.neg))

/-- tanh x. -/
def tanhNum (x : Num) : Num :=
  if (Num.fin false 1 11).lt x.abs then .fin x.sign (2 ^ 200 - 1) (-200)
  else
    let y := expNum (x.add x)
    (y.sub (Num.ofInt 1)).div (y.add (Num.ofInt 1))

/-- erf x. -/
def erfNum (x : Num) : Num :=
  if (Num.ofInt 10).lt x.abs then .fin x.sign (2 ^ 140 - 1) (-140)
  else
    let v := x.toFx
    let vv := fxMul v v
    let s := ((List.range 600).foldl (fun (acc : Int × Int) (i : Nat) =>
      (acc.1 + acc.2 / (2 * i + 1 : Nat), -(fxMul acc.2 vv / ((i + 1 : Nat) : Int)))) (0, v)).1
    ((ofFx (2 * s)).div (Num.sqrt (ofFx fxPi)))

/-- The tanh form of GELU: x / (1 + e^−2u), u = √(2/π) (x + 0.044715 x³). -/
def geluNum (x : Num) : Num :=
  let k := (ofFx (2 * fxOne)).div (ofFx fxPi) |>.sqrt
  let u := k.mul (x.add (((Num.ofInt 44715).div (Num.ofInt 1000000)).mul (x.mul (x.mul x))))
  x.mul (sigmoidNum (u.add u))

/-! ### Picking a lane value that a bound allows -/

/-- The place of a bit pattern of a floating-point format in the order of its values, the two zeros apart. -/
def FloatFmt.toIndex (f : FloatFmt) (raw : Nat) : Int :=
  let m : Int := (raw % 2 ^ (f.eb + f.mb) : Nat)
  if bit raw (f.eb + f.mb) then -m - 1 else m

/-- The bit pattern at a place. -/
def FloatFmt.ofIndex (f : FloatFmt) (i : Int) : Nat :=
  if i < 0 then 2 ^ (f.eb + f.mb) + (-i - 1).toNat else i.toNat

/-- A value a relative 2^−70 below or above, outward or inward. -/
def Num.scaleBy (x : Num) (up : Bool) : Num := x.mul (.fin false (if up then 2 ^ 70 + 1 else 2 ^ 70 - 1) (-70))

/-- The place of the value with the opposite sign. -/
def mirror (i : Int) : Int := -i - 1

/-- The place a signed count of units from +0, the two zeros between. -/
def placeOf_ (j : Int) : Int := if j < 0 then j - 1 else j

/-- The places of the first and the last lane value within `k` units in the last place of a value known to a relative
2^−70; beyond the largest finite value stands infinity (R137, R140). -/
def FloatFmt.ulpRange (f : FloatFmt) (k : Nat) (x : Num) : Int × Int :=
  match x with
  | .fin neg _ _ =>
    let low (y : Num) : Int := match y with
      | .fin _ m e => f.magnitude .tz m e
      | _ => 0
    let top : Int := f.maxBits + 1
    let first := placeOf_ (min (low (x.scaleBy false) - (k - 1 : Nat)) top)
    let last := min (low (x.scaleBy true) + k) top
    if neg then (mirror last, mirror first) else (first, last)
  | _ =>
    let i := f.toIndex (f.round .ne x).raw
    (i, i)

/-- The place of the greatest lane value at or below a value. -/
def FloatFmt.floorPlace (f : FloatFmt) (x : Num) : Int :=
  match x with
  | .fin neg m e =>
    let mag := f.magnitude .tz m e
    if neg then
      let exact := !(x.lt (f.value mag).neg)
      mirror (min (if exact then mag else mag + 1) (f.maxBits + 1) : Nat)
    else (min mag f.maxBits : Nat)
  | _ => f.toIndex (f.round .ne x).raw

/-- The places of the lane values within an absolute bound of a value, its ends rounded inward. -/
def FloatFmt.absRange (f : FloatFmt) (bound x : Num) : Int × Int :=
  (mirror (f.floorPlace (x.sub bound).neg), f.floorPlace (x.add bound))

/-- A lane value at a place between two, as the next free value picks it. -/
def State.pickIndex (s : State) (f : FloatFmt) (r : Int × Int) : Num × State :=
  let (d, s) := s.drawBelow (r.2 - r.1 + 1).toNat
  (f.value (f.ofIndex (r.1 + d)), s)

/-- A lane value within `k` units in the last place. -/
def State.nearUlp (s : State) (fmt k : Nat) (x : Num) : Num × State :=
  s.pickIndex (floatFmt fmt) ((floatFmt fmt).ulpRange k x)

/-- A lane value within `k` units in the last place or within an absolute bound, where that is larger. -/
def State.nearEither (s : State) (fmt k : Nat) (bound x : Num) : Num × State :=
  let f := floatFmt fmt
  let a := f.ulpRange k x
  let b := f.absRange bound x
  s.pickIndex f (min a.1 b.1, max a.2 b.2)

/-- A lane value of any kind: what a function gives where the manual states no result. -/
def State.anyLane (s : State) (fmt : Nat) : Num × State :=
  let (d, s) := s.drawBelow (2 ^ fmtBits fmt)
  (valueOf fmt d, s)

/-- The functions of one operand that R140 bounds, by their FUNC codes of R138, in the lanes of format `fmt`. -/
def State.bounded (s : State) (fmt func : Nat) (a : Num) : Num × State :=
  let one := Num.ofInt 1
  let zero (neg : Bool) : Num := .fin neg 0 0
  match func, a with
  | _, .nan => (.nan, s)
  | 0x11, .inf n => (zero n, s)
  | 0x11, .fin n 0 _ => (.inf n, s)
  | 0x11, a => s.nearUlp fmt 1 (one.div a)
  | 0x13, .fin n 0 _ => (.inf n, s)
  | 0x13, .inf n => (if n then .nan else zero false, s)
  | 0x13, .fin true _ _ => (.nan, s)
  | 0x13, a => s.nearUlp fmt 1 (one.div a.sqrt)
  | 0x18, .inf n => (if n then zero false else .inf false, s)
  | 0x18, a => s.nearUlp fmt 1 (expNum a)
  | 0x19, .inf n => (if n then zero false else .inf false, s)
  | 0x19, a => s.nearUlp fmt 1 (expNum (a.mul (ofFx fxLn2)))
  | 0x1A, .inf n => (if n then .nan else .inf false, s)
  | 0x1A, .fin _ 0 _ => (.inf true, s)
  | 0x1A, .fin true _ _ => (.nan, s)
  | 0x1A, a => s.nearUlp fmt 1 (lnNum a)
  | 0x1B, .inf n => (if n then .nan else .inf false, s)
  | 0x1B, .fin _ 0 _ => (.inf true, s)
  | 0x1B, .fin true _ _ => (.nan, s)
  | 0x1B, a => s.nearUlp fmt 1 ((lnNum a).div (ofFx fxLn2))
  | 0x1C, .inf n => (.fin n 1 0, s)
  | 0x1C, .fin n 0 _ => (zero n, s)
  | 0x1C, a => s.nearUlp fmt 2 (tanhNum a)
  | 0x1D, .inf n => (if n then zero false else one, s)
  | 0x1D, a => s.nearUlp fmt 2 (sigmoidNum a)
  | 0x1E, .inf n => if n then s.anyLane fmt else (.inf false, s)
  | 0x1E, .fin n 0 _ => (zero n, s)
  | 0x1E, a => s.nearEither fmt 3 (.fin false 1 (-22)) (a.mul (sigmoidNum a))
  | 0x1F, .inf n => if n then s.anyLane fmt else (.inf false, s)
  | 0x1F, .fin n 0 _ => (zero n, s)
  | 0x1F, a => s.nearEither fmt 3 (.fin false 1 (-22)) (geluNum a)
  | 0x20, .inf n => (.fin n 1 0, s)
  | 0x20, .fin n 0 _ => (zero n, s)
  | 0x20, a => s.nearUlp fmt 2 (erfNum a)
  | 0x21, .inf _ => (.nan, s)
  | 0x21, .fin n 0 _ => (zero n, s)
  | 0x21, a =>
    let y := (sinCos a).1
    if (Num.fin false 1 16).lt a.abs then s.pickIndex (floatFmt fmt) ((floatFmt fmt).absRange (.fin false 1 (-20)) y)
    else s.nearUlp fmt 2 y
  | 0x22, .inf _ => (.nan, s)
  | 0x22, a =>
    let y := (sinCos a).2
    if (Num.fin false 1 16).lt a.abs then s.pickIndex (floatFmt fmt) ((floatFmt fmt).absRange (.fin false 1 (-20)) y)
    else s.nearUlp fmt 2 y
  | _, a => (a, s)

end Sys2Proof.Machine
end

