-- ==== Sys2Proof/Machine/Vector.lean ====
section
/-!
DEFINITION. The vector engine: VMAP, VRED, VSMAX, VNORM and VSAMPLE (R136 to R147).
-/

namespace Sys2Proof.Machine

/-! ### Lanes (R136, R137) -/

/-- The lane format: FP64 when an operand has it. -/
def laneFormat (fmts : List Nat) : Nat := if fmts.contains fmtFP64 then fmtFP64 else fmtFP32

/-- An element converted to the lane format. -/
def laneValue (lane fmt raw : Nat) : Num :=
  let v := valueOf fmt raw
  if fmtIsInt fmt && lane = fmtFP32 then roundTo fmtFP32 v else v

/-- A function with free values over a list. -/
def State.mapList {α β : Type} (f : α → State → β × State) : List α → State → List β × State
  | [], s => ([], s)
  | x :: r, s =>
    let (y, s) := f x s
    let (ys, s) := State.mapList f r s
    (y :: ys, s)

/-- The larger or the smaller, +0 above −0; NaN if either is NaN (R138). -/
def Num.pick (larger : Bool) (a b : Num) : Num :=
  if a.isNan || b.isNan then .nan
  else if a.lt b then (if larger then b else a)
  else if b.lt a then (if larger then a else b)
  else if a.sign then (if larger then b else a) else (if larger then a else b)

/-- Formats a vector operand may have outside MXQ and MXDQ. -/
def vectorFormat (f : Nat) : Bool := !fmtIsMx f && f != fmtE8M0

/-- The layouts a V verb accepts (R151). -/
def vectorLayouts (ts : List Tensor) : Bool := ts.all fun t => t.view.noun.layout != 3

/-- A V verb has written elements of a format. -/
def noteVector (x : Ctx) (fmt : Nat) (out : List Nat) (clipped sampleNan : Bool) : VM Unit :=
  change fun s => s.modCore x.a.c x.a.k fun y => { y with stat := y.stat.noteVector fmt out clipped sampleNan }

/-! ### VMAP (R137 to R141) -/

/-- How many sources a FUNC code takes, and whether it runs on FP64 lanes; none for a code the table does not list. -/
def funcSources (func : Nat) : Option (Nat × Bool) :=
  if func ≤ 1 then some (1, true)
  else if func ≤ 4 then some (2, true)
  else if func = 5 then some (3, true)
  else if func ≤ 7 then some (2, true)
  else if func ≤ 9 then some (1, true)
  else if func ≤ 0x0B then some (2, true)
  else if func ≤ 0x0D then some (1, true)
  else if func = 0x0E then some (3, true)
  else if func ≤ 0x10 then some (2, true)
  else if func ≤ 0x13 then some (1, true)
  else if func = 0x14 then some (2, true)
  else if 0x18 ≤ func && func ≤ 0x1B then some (1, true)
  else if 0x1C ≤ func && func ≤ 0x22 then some (1, false)
  else if 0x30 ≤ func && func ≤ 0x34 then some (2, false)
  else if func = 0x38 then some (1, false)
  else if func = 0x39 || func = 0x3A then some (2, false)
  else if func = 0x40 then some (0, false)
  else none

/-- The lane result of a FUNC code on lane values and the scalar s. -/
def State.lane (s : State) (fmt func : Nat) (a b c sc : Num) : Num × State :=
  match func with
  | 0x02 => (a.add b, s)
  | 0x03 => (a.sub b, s)
  | 0x04 => (a.mul b, s)
  | 0x05 => ((a.mul b).add c, s)
  | 0x06 => (Num.pick true a b, s)
  | 0x07 => (Num.pick false a b, s)
  | 0x08 => (a.add sc, s)
  | 0x09 => (a.mul sc, s)
  | 0x0A => ((a.mul sc).add b, s)
  | 0x0B => s.nearUlp fmt 2 (a.add (sc.mul (b.sub a)))
  | 0x0C => (a.abs, s)
  | 0x0D => (a.neg, s)
  | 0x0E => (if c.isZero then b else a, s)
  | 0x0F => (Num.ofInt (if b.lt a then 1 else 0), s)
  | 0x10 => (a.div b, s)
  | 0x12 => (a.sqrt, s)
  | 0x14 => s.nearUlp fmt 2 (a.div (b.sqrt.add sc))
  | 0x38 => (a.mul sc, s)
  | f => s.bounded fmt f a

/-- The integer functions on 32-bit patterns; signedness as A's format has it. -/
def integerFunc (func : Nat) (signed_ : Bool) (a b : Nat) : Nat :=
  let x : Int := if signed_ then signed 32 a else (a : Int)
  let y : Int := if signed_ then signed 32 b else (b : Int)
  match func with
  | 0x30 => (a + b) % 2 ^ 32
  | 0x31 => (a + 2 ^ 32 - b % 2 ^ 32) % 2 ^ 32
  | 0x32 => a * b % 2 ^ 32
  | 0x33 => if x < y then b else a
  | _ => if y < x then b else a

/-- The draw of URAND for a linear index and a seed (R141), as a value. -/
def urand (i seed : Nat) : Num :=
  let w := 2 ^ 64
  let z := (seed * 2 ^ 32 + i + 0x9E3779B97F4A7C15) % w
  let z := (z ^^^ (z / 2 ^ 30)) * 0xBF58476D1CE4E5B9 % w
  let z := (z ^^^ (z / 2 ^ 27)) * 0x94D049BB133111EB % w
  let z := z ^^^ (z / 2 ^ 31)
  .fin false (z / 2 ^ 40) (-24)

/-- The exponent of the largest normal value of an MX element format. -/
def mxEmax (fmt : Nat) : Int :=
  match (floatFmt fmt).value (floatFmt fmt).maxBits with
  | .fin _ m e => e + bitLength m - 1
  | _ => 0

/-- A block of MXQ: its scale, and its elements rounded (R139). -/
def mxBlock (fmt : Nat) (xs : List Num) : Nat × List Rounded :=
  if xs.any fun x => x.isNan || x.isInf then (255, xs.map fun _ => ⟨0, false⟩)
  else
    let top := xs.filterMap fun x => match x with
      | .fin _ m e => if m = 0 then none else some (e + bitLength m - 1)
      | _ => none
    let scale : Int := match top.max? with
      | none => 0
      | some t => clampInt 0 254 (t - mxEmax fmt + 127)
    (scale.toNat, xs.map fun x => roundInto fmt .sat (x.mul (.fin false 1 (127 - scale))))

/-- The index of a source for an index of DST: extents of 1 are broadcast (R137). -/
def Tensor.broadcast (t : Tensor) (i : List Int) : List Int :=
  (List.range t.rank).map fun d => if t.ext d = 1 then 0 else i.getD d 0

/-- A second or third source fits DST: same rank, and each extent the same or 1. -/
def Tensor.fits (t d : Tensor) : Bool :=
  t.rank == d.rank && (List.range d.rank).all fun k => t.ext k == d.ext k || t.ext k == 1

/-- Extents of a scale noun along an operand of a shape: one scale for each 32 along dimension 0. -/
def scaleShape (exts : List Nat) : List Nat :=
  match exts with
  | e :: r => e / 32 :: r
  | [] => []

/-- The blocks of 32 along dimension 0 of a shape, as the index of each block. -/
def blocksOf (exts : List Nat) : List (List Int) := indices (scaleShape exts)

/-- The indices of a block. -/
def blockIndices (b : List Int) : List (List Int) :=
  (List.range 32).map fun (j : Nat) => match b with
    | h :: r => (32 * h + (j : Int)) :: r
    | [] => []

/-- The row of R91 of VMAP. -/
def vmapForm : Form :=
  { dst := kNoun + kPort, srca := kNoun + kPort + kNone, srcb := kNoun + kPort + kNone, srcc := kNoun + kPort + kNone,
    mode := 0x7F, imm := 0xFFFFFFFF }

/-- MXQ: elements into DST, scales into SRCB (R139). A scale of 0xFF is a NaN that the verb writes (R121, R147). -/
def mxqBody (x : Ctx) (d a : Tensor) (scale : View) : VM Unit := do
  require (fmtIsMx d.fmt && vectorFormat a.fmt && a.fmt != fmtFP64 && a.exts == d.exts && d.exts.headD 0 % 32 == 0
    && scale.noun.format == fmtE8M0 && scale.noun.layout == 0 && scale.noun.exts == scaleShape d.exts)
  decoded x
  let blocks := blocksOf d.exts
  let raws ← readTensor x a (blocks.flatMap blockIndices)
  let done := (List.range blocks.length).map fun i =>
    mxBlock d.fmt (((raws.drop (32 * i)).take 32).map (laneValue fmtFP32 a.fmt))
  let out := (blocks.zip done).flatMap fun (b, r) => (blockIndices b).zip (r.2.map (·.raw))
  commitAll x [planVia d d.view.noun.path out true,
               { path := scale.noun.path, lines := scale.linesFor (blocks.zip (done.map (·.1))) }]
  noteVector x d.fmt (out.map (·.2)) (done.any fun r => r.2.any (·.clipped)) false
  noteVector x fmtE8M0 (done.map (·.1)) false false

/-- MXDQ: elements of A under their scales in SRCB (R121). -/
def mxdqBody (x : Ctx) (d a : Tensor) (scale : View) : VM Unit := do
  require (fmtIsMx a.fmt && vectorFormat d.fmt && d.fmt != fmtFP64 && a.exts == d.exts && d.exts.headD 0 % 32 == 0
    && scale.noun.format == fmtE8M0 && scale.noun.layout == 0 && scale.noun.exts == scaleShape d.exts)
  decoded x
  let idx := indices d.exts
  let raws ← readTensor x a idx
  let scales ← readElems x.a scale scale.noun.path (idx.map fun i => match i with
    | h :: r => h / 32 :: r
    | [] => [])
  let out := (raws.zip scales).map fun (r, e) =>
    (roundInto d.fmt .ne ((valueOf a.fmt r).mul (valueOf fmtE8M0 e))).raw
  writeTensor x d (idx.zip out) true
  noteVector x d.fmt out false false

/-- Integer functions (R138). -/
def integerBody (x : Ctx) (func : Nat) (d a b : Tensor) : VM Unit := do
  let int (f : Nat) : Bool := f == fmtINT32 || f == fmtUINT32
  require (int d.fmt && int a.fmt && int b.fmt && a.exts == d.exts && b.fits d)
  decoded x
  let idx := indices d.exts
  let ra ← readTensor x a idx
  let rb ← readTensor x b (idx.map b.broadcast)
  let out := (ra.zip rb).map fun (u, v) => integerFunc func (a.fmt == fmtINT32) u v
  writeTensor x d (idx.zip out) true
  noteVector x d.fmt out false false

/-- URAND (R141). -/
def urandBody (x : Ctx) (d : Tensor) : VM Unit := do
  require (vectorFormat d.fmt && d.fmt != fmtFP64)
  decoded x
  let idx := indices d.exts
  let out := idx.map fun i =>
    let at_ : Int := (List.range d.rank).foldr (fun k acc => (i.getD k 0 + d.view.off k) + d.ext k * acc) 0
    (roundInto d.fmt .ne (urand (unsigned 64 at_) x.v.imm)).raw
  writeTensor x d (idx.zip out) true
  noteVector x d.fmt out false false

/-- The remaining functions, on lane values. -/
def laneBody (x : Ctx) (func : Nat) (d a : Tensor) (b c : Option Tensor) : VM Unit := do
  let others := [b, c].filterMap id
  let fmts := d.fmt :: a.fmt :: others.map Tensor.fmt
  let lane := laneFormat fmts
  require (fmts.all vectorFormat && a.exts == d.exts && others.all (·.fits d)
    && (lane != fmtFP64 || (match funcSources func with
        | some (_, ok) => ok
        | none => false))
    && (func != 0x38 || [fmtINT4, fmtINT8, fmtINT32].contains d.fmt))
  decoded x
  let idx := indices d.exts
  let values (t : Option Tensor) : VM (List Num) := match t with
    | none => pure (idx.map fun _ => .nan)
    | some t => do
      let raws ← readTensor x t (idx.map t.broadcast)
      pure (raws.map (laneValue lane t.fmt))
  let va ← values (some a)
  let vb ← values b
  let vc ← values c
  let sc := valueOf fmtFP32 x.v.imm
  let ys ← modifyGet fun s =>
    State.mapList (fun (t : Num × Num × Num) s => s.lane lane func t.1 t.2.1 t.2.2 sc) (va.zip (vb.zip vc)) s
  let out := ys.map (roundInto d.fmt (if func = 0x01 then .sat else .ne))
  writeTensor x d (idx.zip (out.map (·.raw))) true
  noteVector x d.fmt (out.map (·.raw)) ((func = 0x01 || func = 0x38) && out.any (·.clipped)) false

/-- VMAP -/
def vmapBody (x : Ctx) : VM Bool := do
  let func := x.v.mode
  let kind (f : Nat) : Bool := (parseOperand f).kind == kNone
  match funcSources func with
  | none => fail Code.verbInvalid
  | some (n, _) =>
    let mx := func == 0x39 || func == 0x3A
    require (vmapForm.ok x.a.q x.v && kind x.v.srca == decide (n < 1) && kind x.v.srcb == decide (n < 2)
      && kind x.v.srcc == decide (n < 3) && (!mx || (parseOperand x.v.srcb).kind == kNoun))
    let d ← given (← useDest x x.v.dst x.v.offsDst {})
    let a ← useSource x x.v.srca x.v.offsA {}
    let b ← useSource x x.v.srcb x.v.offsB { written := func == 0x39 }
    let c ← useSource x x.v.srcc x.v.offsC {}
    require (vectorLayouts (d :: [a, b, c].filterMap id))
    if func = 0x40 then urandBody x d
    else
      let a ← given a
      if func = 0x39 then mxqBody x d a (← given b).view
      else if func = 0x3A then mxdqBody x d a (← given b).view
      else if 0x30 ≤ func && func ≤ 0x34 then integerBody x func d a (← given b)
      else laneBody x func d a b c
    pure true

/-- VMAP -/
def execVmap (c k : Nat) (u : Upset) (s : State) : Host.Outcome State Fault Refusal :=
  .next (s.issue c k .v 0x48 u vmapBody)

/-! ### VRED (R142) -/

/-- The place of the largest or smallest element of a row: the first NaN where there is one, else the lowest index among
equal values. -/
def argExtreme (larger : Bool) (xs : List Num) : Nat :=
  match xs.findIdx? Num.isNan with
  | some i => i
  | none =>
    ((List.range xs.length).foldl (fun best i =>
      let a := xs.getD best .nan
      let b := xs.getD i .nan
      if (if larger then a.lt b else b.lt a) then i else best) 0)

/-- The sum in a lane format in an order the free values choose; each addend is added with one rounding. -/
def State.sumLane (s : State) (lane : Nat) (xs : List Num) : Num × State :=
  State.combineAny (fun a b => roundTo lane (a.add b)) (.fin false 0 0) xs.length xs s

/-- The sum of squares: whether a square is rounded before it is added or fused with the addition is left open too. -/
def State.sumSquares (s : State) (lane : Nat) (xs : List Num) : Num × State :=
  let (qs, s) := State.mapList (fun (x : Num) s =>
    let (b, s) := s.drawBelow 2
    (if b = 0 then x.mul x else roundTo lane (x.mul x), s)) xs s
  let (v, s) := s.sumLane lane qs
  (roundTo lane v, s)

/-- One reduced element: its bit pattern in DST. -/
def State.reduceRow (s : State) (op lane fmt : Nat) (xs : List Num) : Nat × State :=
  let out (v : Num) (s : State) : Nat × State := ((roundInto fmt .ne v).raw, s)
  match op with
  | 0 => let (v, s) := s.sumLane lane xs; out v s
  | 1 => out (xs.foldl (Num.pick true) (xs.headD .nan)) s
  | 2 => out (xs.foldl (Num.pick false) (xs.headD .nan)) s
  | 3 => (argExtreme true xs, s)
  | 4 => (argExtreme false xs, s)
  | _ => let (v, s) := s.sumSquares lane xs; out v s

/-- The row of R91 of VRED. -/
def vredForm : Form := { dst := kNoun + kPort, srca := kNoun + kPort, mode := 0x3F }

/-- An index with its place along a dimension replaced. -/
def setAt (i : List Int) (d : Nat) (x : Int) : List Int := i.set d x

/-- VRED -/
def vredBody (x : Ctx) : VM Bool := do
  let op := bits x.v.mode 0 3
  let dim := bits x.v.mode 3 3
  require (vredForm.ok x.a.q x.v && decide (op ≤ 5))
  let d ← given (← useDest x x.v.dst x.v.offsDst {})
  let a ← given (← useSource x x.v.srca x.v.offsA {})
  require (vectorLayouts [d, a] && decide (dim < a.rank) && d.exts == a.exts.set dim 1 && vectorFormat a.fmt && vectorFormat d.fmt
    && ((op != 3 && op != 4) || d.fmt == fmtUINT32))
  decoded x
  let lane := laneFormat [a.fmt, d.fmt]
  let n := a.ext dim
  let idx := indices d.exts
  let raws ← readTensor x a (idx.flatMap fun i => (List.range n).map fun (j : Nat) => setAt i dim (j : Int))
  let rows := (List.range idx.length).map fun i => ((raws.drop (n * i)).take n).map (laneValue lane a.fmt)
  let out ← modifyGet fun s => State.mapList (fun xs s => s.reduceRow op lane d.fmt xs) rows s
  writeTensor x d (idx.zip out) true
  noteVector x d.fmt out false false
  pure true

/-- VRED -/
def execVred (c k : Nat) (u : Upset) (s : State) : Host.Outcome State Fault Refusal :=
  .next (s.issue c k .v 0x49 u vredBody)

/-! ### VSMAX (R143) -/

/-- e^(x − m) on the lanes. -/
def State.expDiff (s : State) (m x : Num) : Num × State := s.bounded fmtFP32 0x18 (roundTo fmtFP32 (x.sub m))

/-- A row of softmax over its unmasked elements: the quotients, the maximum and the sum. -/
def State.softmaxRow (s : State) (xs : List (Option Num)) : (List Num × Num × Num) × State :=
  let live := xs.filterMap id
  if live.isEmpty then ((xs.map fun _ => .fin false 0 0, .inf true, .fin false 0 0), s)
  else
    let m := live.foldl (Num.pick true) (live.headD .nan)
    let (es, s) := State.mapList (fun x s => s.expDiff m x) live s
    let (sum, s) := s.sumLane fmtFP32 es
    let qs := es.map fun e => e.div sum
    let place := xs.foldl (fun (acc : List Num × List Num) x => match x, acc.2 with
      | none, r => (acc.1 ++ [.fin false 0 0], r)
      | some _, q :: r => (acc.1 ++ [q], r)
      | some _, [] => acc) ([], qs)
    ((place.1, m, sum), s)

/-- The row of R91 of VSMAX. -/
def vsmaxForm : Form :=
  { dst := kNoun + kPort, srca := kNoun + kPort, srcc := kNoun + kNone, mode := 1, imm := 0xFFFFFFFF }

/-- VSMAX -/
def vsmaxBody (x : Ctx) : VM Bool := do
  let causal := bit x.v.mode 0
  require (vsmaxForm.ok x.a.q x.v && (causal || x.v.imm == 0))
  let d ← given (← useDest x x.v.dst x.v.offsDst {})
  let a ← given (← useSource x x.v.srca x.v.offsA {})
  let st ← useSource x x.v.srcc x.v.offsC { written := true }
  let cols := a.ext 0
  let rows := a.ext 1
  require (vectorLayouts (d :: a :: [st].filterMap id)
    && a.rank == 2 && d.exts == a.exts && vectorFormat a.fmt && vectorFormat d.fmt && a.fmt != fmtFP64 && d.fmt != fmtFP64
    && (match st with
        | none => true
        | some t => t.fmt == fmtFP32 && t.exts == [2, rows]))
  decoded x
  let diag := signed 32 x.v.imm
  let idx := indices a.exts
  let raws ← readTensor x a idx
  let masked (i : List Int) : Bool := causal && decide (i.getD 0 0 > i.getD 1 0 + diag)
  let vals := (idx.zip raws).map fun (i, r) => if masked i then none else some (laneValue fmtFP32 a.fmt r)
  let res ← modifyGet fun s =>
    State.mapList (fun (r : Nat) s => s.softmaxRow ((vals.drop (cols * r)).take cols)) (List.range rows) s
  let out := res.flatMap fun r => r.1.map fun v => (roundInto d.fmt .ne v).raw
  let raw (v : Num) : Nat := (roundInto fmtFP32 .ne v).raw
  let stats := (List.range rows).flatMap fun (i : Nat) =>
    let r := res.getD i ([], .nan, .nan)
    [([0, Int.ofNat i], raw r.2.1), ([1, Int.ofNat i], raw r.2.2)]
  commitAll x (planVia d d.view.noun.path (idx.zip out) true ::
    (match st with
    | none => []
    | some t => [planVia t t.view.noun.path stats true]))
  noteVector x d.fmt out false false
  if st.isSome then noteVector x fmtFP32 (stats.map (·.2)) false false
  pure true

/-- VSMAX -/
def execVsmax (c k : Nat) (u : Upset) (s : State) : Host.Outcome State Fault Refusal :=
  .next (s.issue c k .v 0x4A u vsmaxBody)

/-! ### VNORM (R144) -/

/-- A row normalised: MODE 0 by its root mean square, MODE 1 by its mean and variance. -/
def State.normRow (s : State) (layer : Bool) (eps : Num) (xs : List Num) : List Num × State :=
  let r (v : Num) : Num := roundTo fmtFP32 v
  let n := Num.ofInt xs.length
  let (t, s) := if layer then s.sumLane fmtFP32 xs else (.fin false 0 0, s)
  let mu := r (t.div n)
  let cs := if layer then xs.map fun x => r (x.sub mu) else xs
  let (q, s) := s.sumSquares fmtFP32 cs
  let root := r (r ((r (q.div n)).add eps)).sqrt
  (cs.map fun x => r (x.div root), s)

/-- The row of R91 of VNORM. -/
def vnormForm : Form :=
  { dst := kNoun + kPort, srca := kNoun + kPort, srcb := kNoun, srcc := kNoun + kNone, mode := 3, imm := 0xFFFFFFFF }

/-- VNORM -/
def vnormBody (x : Ctx) : VM Bool := do
  require (vnormForm.ok x.a.q x.v && decide (x.v.mode ≤ 1))
  let d ← given (← useDest x x.v.dst x.v.offsDst {})
  let a ← given (← useSource x x.v.srca x.v.offsA {})
  let g ← given (← useSource x x.v.srcb x.v.offsB {})
  let b ← useSource x x.v.srcc x.v.offsC {}
  let cols := a.ext 0
  let rows := if a.rank = 2 then a.ext 1 else 1
  let params := g :: [b].filterMap id
  let fmts := d.fmt :: a.fmt :: params.map Tensor.fmt
  require (vectorLayouts (d :: a :: params) && decide (a.rank ≤ 2) && d.exts == a.exts && fmts.all vectorFormat && !fmts.contains fmtFP64
    && params.all fun t => t.exts == [cols])
  decoded x
  let idx := indices a.exts
  let raws ← readTensor x a idx
  let line := (List.range cols).map fun (i : Nat) => [Int.ofNat i]
  let values (t : Tensor) : VM (List Num) := do
    let rs ← readTensor x t line
    pure (rs.map (laneValue fmtFP32 t.fmt))
  let gain ← values g
  let bias ← match b with
    | none => pure (line.map fun _ => none)
    | some t => do
      let vs ← values t
      pure (vs.map some)
  let eps := valueOf fmtFP32 x.v.imm
  let vals := raws.map (laneValue fmtFP32 a.fmt)
  let res ← modifyGet fun s =>
    State.mapList (fun (r : Nat) s => s.normRow (x.v.mode = 1) eps ((vals.drop (cols * r)).take cols)) (List.range rows) s
  let out := res.flatMap fun ys => (ys.zip (gain.zip bias)).map fun (y, g, b) =>
    (roundInto d.fmt .ne (match b with
      | none => y.mul g
      | some b => (roundTo fmtFP32 (y.mul g)).add b)).raw
  writeTensor x d (idx.zip out) true
  noteVector x d.fmt out false false
  pure true

/-- VNORM -/
def execVnorm (c k : Nat) (u : Upset) (s : State) : Host.Outcome State Fault Refusal :=
  .next (s.issue c k .v 0x4B u vnormBody)

/-! ### VSAMPLE (R145) -/

/-- Indices of a row by descending value, ties by lower index. -/
def descending (xs : List Num) : List Nat :=
  sortBy (fun i j => !((xs.getD i .nan).lt (xs.getD j .nan))) (List.range xs.length)

/-- A draw of a row: NaN or outside [0, 1) counts as 0, and is reported. -/
def drawOf (raw : Nat) : Num × Bool :=
  let u := valueOf fmtFP32 raw
  if u.isNan || u.lt (.fin false 0 0) || !(u.lt (Num.ofInt 1)) then (.fin false 0 0, true) else (u, false)

/-- The first index whose running sum reaches the target; none where rounding leaves every sum below it. -/
def firstReaching (target : Num) : List (Nat × Num) → Num → Option Nat
  | [], _ => none
  | (i, p) :: r, acc =>
    let acc := roundTo fmtFP32 (acc.add p)
    if acc.lt target then firstReaching target r acc else some i

/-- One row sampled: the index it writes, and whether a NaN or an invalid draw was met. -/
def State.sampleRow (s : State) (k : Nat) (xs : List Num) (draw : Nat) : (Nat × Bool) × State :=
  let (u, bad) := drawOf draw
  if xs.any Num.isNan then ((0xFFFFFFFF, true), s)
  else
    let order := descending xs
    let kept := if k = 0 || k ≥ xs.length then order else order.take k
    let top := xs.getD (kept.headD 0) .nan
    let (ps, s) := State.mapList (fun i s => s.expDiff top (xs.getD i .nan)) kept s
    if ps.any Num.isNan then ((0xFFFFFFFF, true), s)
    else
      let (sum, s) := s.sumLane fmtFP32 ps
      match firstReaching (roundTo fmtFP32 (u.mul sum)) (kept.zip ps) (.fin false 0 0) with
      | some i => ((i, bad), s)
      | none =>
        let (j, s) := s.drawBelow kept.length
        ((kept.getD j 0, bad), s)

/-- The row of R91 of VSAMPLE. -/
def vsampleForm : Form := { dst := kNoun, srca := kNoun, srcb := kNoun + kNone, mode := 1, imm := 0xFFFF }

/-- VSAMPLE -/
def vsampleBody (x : Ctx) : VM Bool := do
  let arg := bit x.v.mode 0
  require (vsampleForm.ok x.a.q x.v && ((parseOperand x.v.srcb).kind == kNone) == arg)
  let d ← given (← useDest x x.v.dst x.v.offsDst {})
  let a ← given (← useSource x x.v.srca x.v.offsA {})
  let u ← useSource x x.v.srcb x.v.offsB {}
  let cols := a.ext 0
  let rows := a.ext 1
  require (vectorLayouts (d :: a :: [u].filterMap id) && a.rank == 2 && d.fmt == fmtUINT32 && d.count == rows && vectorFormat a.fmt && a.fmt != fmtFP64
    && (match u with
        | none => true
        | some t => t.fmt == fmtFP32 && t.count == rows))
  decoded x
  let raws ← readTensor x a (indices a.exts)
  let vals := raws.map (laneValue fmtFP32 a.fmt)
  let draws ← match u with
    | none => pure ((List.range rows).map fun _ => 0)
    | some t => readTensor x t (indices t.exts)
  let res ← modifyGet fun s => State.mapList (fun (r : Nat) s =>
    let row := (vals.drop (cols * r)).take cols
    if arg then (if row.any Num.isNan then (0xFFFFFFFF, true) else (argExtreme true row, false), s)
    else s.sampleRow x.v.imm row (draws.getD r 0)) (List.range rows) s
  writeTensor x d ((indices d.exts).zip (res.map (·.1))) true
  noteVector x d.fmt (res.map (·.1)) false (res.any (·.2))
  pure true

/-- VSAMPLE -/
def execVsample (c k : Nat) (u : Upset) (s : State) : Host.Outcome State Fault Refusal :=
  .next (s.issue c k .v 0x4C u vsampleBody)

end Sys2Proof.Machine
end

