-- ==== Sys2Proof/Machine/Bsu.lean ====
section
/-!
DEFINITION. Bank-side units: descriptors and their checks, admission, slices, results and summaries (R217 to R243).
-/

namespace Sys2Proof.Machine

/-! ### Descriptors and summaries (R223, R224) -/

/-- Numbers of `w` bytes each. -/
def leList (w n : Nat) (b : List Byte) (off : Nat) : List Nat := (List.range n).map fun i => leAt b (off + w * i) w

/-- A sequence descriptor read. -/
def parseSeq (b : List Byte) : SeqDesc :=
  { tag := leAt b 0 4, op := leAt b 4 1, mode := leAt b 5 1, spread := leAt b 6 1, flags := leAt b 7 1,
    stk := leAt b 8 2, vectors := leAt b 0x0A 1, clean := leAt b 0x0B 5 == 0 && leAt b 0x60 32 == 0,
    nouns := leList 2 8 b 0x10, summary := leAt b 0x20 8, ypeer := leList 2 8 b 0x28, xpeer := leList 2 8 b 0x38,
    coef := leList 4 6 b 0x48 }

/-- FLAGS of a descriptor. -/
def SeqDesc.delta (d : SeqDesc) : Bool := bit d.flags 0
def SeqDesc.accum (d : SeqDesc) : Bool := bit d.flags 1
def SeqDesc.ystream (d : SeqDesc) : Bool := bit d.flags 2
def SeqDesc.xstream (d : SeqDesc) : Bool := bit d.flags 3
def SeqDesc.event (d : SeqDesc) : Bool := bit d.flags 4

/-- The operations of R217. -/
abbrev opRowdot : Nat := 1
abbrev opRowsum : Nat := 2
abbrev opReduce : Nat := 3
abbrev opGather : Nat := 4
abbrev opScatterAdd : Nat := 5
abbrev opCombine : Nat := 6
abbrev opCancel : Nat := 0x0F
def seqOps : List Nat := [opRowdot, opRowsum, opReduce, opGather, opScatterAdd, opCombine, opCancel]

/-- Check 1 of R226 on a descriptor with its bytes. -/
def SeqDesc.ok (d : SeqDesc) (raw : List Byte) : Bool :=
  if d.op = opCancel then (raw.drop 5).all (· == 0)
  else
    seqOps.contains d.op && d.clean
      && (if d.op = opReduce then decide (d.mode < 4) else if d.op = opCombine then decide (d.mode < 3) else d.mode == 0)
      && decide (d.spread ≤ 2) && decide (d.flags < 32)
      && (if d.spread = 2 then decide (d.stk < 4096) else d.stk == 0)
      && (if d.op = opRowdot || d.op = opRowsum then decide (1 ≤ d.vectors) && decide (d.vectors ≤ 8) else d.vectors == 0)
      && (!d.delta || decide (d.op ≤ 4)) && (d.ystream || d.ypeer.all (· == 0)) && (d.xstream || d.xpeer.all (· == 0))
      && (d.op == opCombine || d.coef.all (· == 0)) && d.summary % 64 == 0

/-- The number of vectors a sequence's results run over. -/
def SeqDesc.lanes (d : SeqDesc) : Nat := max d.vectors 1

/-- The summary of R224. -/
def Seq.summaryBytes (q : Seq) (st : Status) (lead : Nat) : List Byte :=
  let flags := b2n q.overlap + 2 * b2n q.full + 4 * b2n q.doubled + 8 * b2n q.shareCut + 16 * b2n q.cut + 0x8000
  let stk := q.readers.foldl (fun a g => putBit a (g / 32) true) 0
  leBytes 4 q.desc.tag ++ leBytes 1 st ++ leBytes 1 q.desc.op ++ leBytes 2 flags ++ leBytes 2 stk
    ++ leBytes 2 q.readers.length ++ leBytes 4 q.held ++ leBytes 8 q.linesRead ++ leBytes 8 q.linesWritten
    ++ leBytes 8 q.cycles ++ leBytes 8 q.faultVa ++ leBytes 4 q.slices ++ leBytes 4 q.pauses ++ leBytes 4 lead
    ++ leBytes 4 0

/-! ### Accesses of a sequence -/

/-- Why a sequence does not go on. -/
inductive SeqHalt where
  /-- a failure at a device virtual address -/
  | fault (st : Status) (va : Nat)
  | wait
  deriving DecidableEq, Repr

/-- A computation of a sequence on the state. -/
abbrev SM := ExceptT SeqHalt (StateM State)

/-- The base die that accesses, as its lead or working unit, and the partition it works for. -/
structure BankReader where
  station : Nat
  pid : Nat
  deriving DecidableEq, Repr

/-- The sequence fails. -/
def sqFail {α : Type} (st : Status) (va : Nat) : SM α := throw (.fault st va)

/-- A change of the state. -/
def sqChange (f : State → State) : SM Unit := modify f

/-- A stack whose port domain is off makes the access wait (R192). -/
def bankAwait (pa : Nat) : SM Unit := do
  let s ← get
  match s.locate pa with
  | .cell g _ =>
    if (s.stack (g / 32)).asleep then
      sqChange fun s => s.modStack (g / 32) fun x => { x with wakeWaits := true }
      throw .wait
  | .absent _ => pure ()

/-- The physical address of an access, which waits for the stack that holds a table entry (R192). A sequence works on device memory
in the stacks: an address that leads elsewhere has no translation for it (log entry 20). -/
def bankWalk (r : BankReader) (va : Nat) (write : Bool) : SM Nat := do
  match ← modifyGet fun s => s.translate r.station r.pid va write with
  | .ok (.dram pa) => pure pa
  | .ok _ => sqFail Code.transFault va
  | .error (.fault st) => sqFail st va
  | .error .wait => throw .wait

/-- A 64-byte line at a device virtual address, by line number. -/
def bankLine (r : BankReader) (line : Nat) : SM (List Byte) := do
  let pa ← bankWalk r (64 * line) false
  match ← modifyGet fun s => s.readLine r.station 1 (pa / 64) with
  | .data b => pure b
  | .fault st => sqFail st (64 * line)
  | .wait => throw .wait

/-- Lines read once each, as numbers. -/
def bankLines (r : BankReader) : List Nat → SM (Tbl Nat)
  | [] => pure []
  | l :: rest => do
    let b ← bankLine r l
    let t ← bankLines r rest
    pure (Tbl.put l (leNat b) t)

/-- Bytes of a device virtual range, and how many lines hold them. -/
def bankBytes (r : BankReader) (va n : Nat) : SM (List Byte × Nat) := do
  if n = 0 then pure ([], 0)
  else
    let lines := (List.range ((va + n - 1) / 64 - va / 64 + 1)).map (· + va / 64)
    let t ← bankLines r lines
    pure ((List.range n).map fun i => BitVec.ofNat 8 (takeBits 512 t (8 * (va + i) : Nat) 8), lines.length)

/-- Elements of a noun without padding, and how many lines were read for them (R222). -/
def bankElems (r : BankReader) (n : Noun) (idx : List (List Int)) : SM (List Nat × Nat) := do
  let v : View := { noun := n }
  let lines := linesOf 512 (idx.flatMap v.readPieces)
  let t ← bankLines r lines
  pure (idx.map fun i => assemble 512 t n.w (v.readPieces i), lines.length)

/-- A withdrawal of the companion's copy of a line is asked for, once (R342). -/
def State.askWithdraw (s : State) (line : Nat) : State :=
  if s.xl.withdraws.any fun w => w.1 == line then s else s.withdraw line none

/-- Lines a sequence is about to write are ready: their stacks are awake and the companion holds no copy. -/
def bankReady (r : BankReader) (id : Nat) : List Nat → SM Unit
  | [] => pure ()
  | l :: rest => do
    let pa ← bankWalk r (64 * l) true
    bankAwait pa
    if (← get).companionHolds (.sequence id) (pa / 64) then
      sqChange fun s => s.askWithdraw (pa / 64)
      throw .wait
    bankReady r id rest

/-- Marked bits of lines written, bytes covered in part merged first; each line written counts (R224). -/
def bankWrite (r : BankReader) (id : Nat) : Tbl (Nat × Nat) → SM Unit
  | [] => pure ()
  | (l, (val, m)) :: rest => do
    let pa ← bankWalk r (64 * l) true
    let touched := (List.range 64).foldl (fun acc i => if bits m (8 * i) 8 = 0 then acc else putBit acc i true) 0
    let part := (List.range 64).any fun i => bits m (8 * i) 8 != 0 && bits m (8 * i) 8 != 255
    let old ← if part then bankLine r l else pure (List.replicate 64 0)
    let merged := (leNat old &&& (2 ^ 512 - 1 - m)) ||| val
    match ← modifyGet fun s => s.writeBase
        { writer := .sequence id, line := pa / 64, bytes := leBytes 64 merged, mask := touched } with
    | some (st, _) => if st != Code.ok then sqFail st (64 * l)
    | none => pure ()
    sqChange fun s => s.modSeq id fun q => { q with linesWritten := q.linesWritten + 1 }
    bankWrite r id rest

/-- Elements to write, by lines. -/
def seqGather (n : Noun) (xs : List (List Int × Nat)) : Tbl (Nat × Nat) :=
  let v : View := { noun := n }
  xs.foldl (fun acc (i, raw) =>
    (split (v.pieces i) raw).foldl (fun acc (x, w, b) => gatherBits 512 acc x w b) acc) []

/-- Elements written into a noun, once every line is ready. -/
def bankStore (r : BankReader) (id : Nat) (n : Noun) (xs : List (List Int × Nat)) : SM Unit := do
  let t := seqGather n xs
  bankReady r id t.keys
  bankWrite r id t

/-! ### Nouns and checks (R218, R226) -/

/-- The descriptor of a handle (check 1 of R75). -/
def bankNoun (r : BankReader) (p : PartRec) (h : Nat) : SM Noun := do
  if h ≥ p.nouns then sqFail Code.nounInvalid 0
  let pa := nounTablePa r.pid + 64 * h
  match ← modifyGet fun s => s.readLine r.station 1 (pa / 64) with
  | .data b => pure (parseNoun b)
  | .fault st => sqFail st (p.nounTable + 64 * h)
  | .wait => throw .wait

/-- Checks 1, 3 and 4 of R75 on a noun of a sequence. -/
def seqNounCheck (vabits : Nat) (written : Bool) (base : Option Noun) (n : Noun) : Option Status :=
  let v : View := { noun := n }
  let (lo, hi) := v.footprint base
  let limit : Int := if n.space = 1 then 0x200000 else 2 ^ vabits - 0x200000
  if !v.wellMade then some Code.nounInvalid
  else if lo < 0 || hi ≥ limit then some Code.nounBounds
  else if written && n.readonly then some Code.nounAccess
  else none

/-- Places in NOUNS: 0 W or T0, 1 X or T1, 2 Y, 3 S, 4 I, 5 D, 6 T2, 7 T3. What an operation must name, what it may name
besides, and what it writes. -/
def SeqDesc.required (d : SeqDesc) : List Nat :=
  (match d.op with
   | 1 => [0, 1, 2]
   | 2 => [0, 1, 2]
   | 3 => [0, 2]
   | 4 => [0, 2, 4]
   | 5 => [0, 1, 4]
   | _ => if d.mode = 0 then [0, 1] else if d.mode = 1 then [0, 1, 6] else [0, 1, 6, 7])
  ++ (if d.delta then [5] else [])
def SeqDesc.optional (d : SeqDesc) : List Nat := if d.op = opRowdot || d.op = opRowsum then [3] else []
def SeqDesc.written (d : SeqDesc) : List Nat :=
  match d.op with
  | 5 => [0]
  | 6 => if d.mode = 0 then [0] else if d.mode = 1 then [0, 6] else [0, 6, 7]
  | _ => if d.ystream then [] else [2]

/-- The nouns of a descriptor read and checked in field order (check 3 of R226). -/
def seqNouns (r : BankReader) (p : PartRec) (d : SeqDesc) (w : Option Noun) : List (Nat × Nat) → SM (List (Option Noun))
  | [] => pure []
  | (i, h) :: rest => do
    if h = 0xFFFF then
      let t ← seqNouns r p d w rest
      pure (none :: t)
    else
      let n ← bankNoun r p h
      let w := if i = 0 then some n else w
      match seqNounCheck p.vabits (d.written.contains i) (if i = 5 then w else none) n with
      | some st => sqFail st 0
      | none =>
        let t ← seqNouns r p d w rest
        pure (some n :: t)

/-- Formats of R218: weights, vectors and tables, indices. -/
def weightFormat (f : Nat) : Bool := [fmtE4M3, fmtE5M2, fmtINT8, fmtINT4, fmtBF16].contains f
def tableFormat (f : Nat) : Bool := f == fmtFP32 || f == fmtBF16

/-- Result values of a sequence: outputs and vectors. -/
def SeqDesc.outputs (d : SeqDesc) (w : Noun) : Nat :=
  if d.op = opRowdot || (d.op = opReduce && d.mode < 2) then w.ext 1 else w.ext 0

/-- The rules of R218, and of R231 for streams (check 4 of R226). -/
def seqShapeOk (d : SeqDesc) (ns : List (Option Noun)) : Bool :=
  let n (i : Nat) : Noun := (ns.getD i none).getD {}
  let named := (List.range 8).filter fun i => (ns.getD i none).isSome
  let w := n 0
  let v := d.vectors
  let exts (i : Nat) (e : List Nat) : Bool := (n i).exts == e
  let plain (i : Nat) : Bool :=
    let x := n i
    x.space == 0 && !x.hasPad && (x.layout == 0 || x.layout == 4) && x.compress == (if i = 5 then 2 else 0)
  let rows (i : Nat) : Bool :=
    let x := n i
    x.base % 64 == 0 && ((List.range x.rank).all fun k => k == 0 || (x.str k * x.w) % 512 == 0)
  let stream := d.ystream || d.xstream
  let indexed : Bool := (n 4).rank == 1 && decide ((n 4).ext 0 ≤ 131072)
    && ((n 4).format == fmtINT32 || (n 4).format == fmtUINT32)
  let tileOk : Bool := (n 2).rank == 1 && (n 2).format == fmtFP32 && tileSizeOk (32 * (n 2).ext 0)
    && d.outputs w % (n 2).ext 0 == 0
  let y (e : List Nat) : Bool := if d.ystream then tileOk else exts 2 e && (n 2).format == fmtFP32
  d.required.all named.contains && named.all (fun i => d.required.contains i || d.optional.contains i)
    && named.all plain && ([0, 2, 6, 7] ++ (if d.op = opCombine then [1] else [])).all (fun i => !named.contains i || rows i)
    && (!stream || d.spread == 0) && (!d.xstream || d.op == opRowdot || d.op == opRowsum)
    && (!d.ystream || decide (d.op ≤ 3)) && (!d.delta || baseFits (n 5) w)
    && (match d.op with
      | 1 => w.rank == 2 && weightFormat w.format && tableFormat (n 1).format && exts 1 [w.ext 0, v] && y [w.ext 1, v]
              && (!named.contains 3 || (exts 3 [w.ext 1] && (n 3).format == fmtFP32))
      | 2 => w.rank == 2 && weightFormat w.format && tableFormat (n 1).format && exts 1 [w.ext 1, v] && y [w.ext 0, v]
              && (!named.contains 3 || (exts 3 [w.ext 1] && (n 3).format == fmtFP32))
      | 3 => w.rank == 2 && (weightFormat w.format || w.format == fmtFP32) && y [d.outputs w]
      | 4 => w.rank == 2 && (weightFormat w.format || w.format == fmtFP32) && indexed && exts 2 [w.ext 0, (n 4).ext 0]
              && ((n 2).format == w.format || (d.delta && tableFormat (n 2).format))
      | 5 => w.rank == 2 && tableFormat w.format && indexed && tableFormat (n 1).format
              && exts 1 [w.ext 0, (n 4).ext 0]
      | _ => named.all fun i => tableFormat (n i).format && (n i).rank == w.rank && (n i).exts == w.exts)

/-- Check 5 of R226. -/
def seqFits (d : SeqDesc) (ns : List (Option Noun)) : Bool :=
  let n (i : Nat) : Noun := (ns.getD i none).getD {}
  (d.op == opCombine || decide ((n 1).bytes ≤ 0x80000)) && decide ((n 4).bytes ≤ 0x80000)
    && (decide (3 < d.op) || decide (d.outputs (n 0) * d.lanes ≤ 262144))

/-- Check 2 of R226: the stacks and the peers. -/
def State.seqStations (s : State) (pid : Nat) (d : SeqDesc) : Option Status :=
  let stk := if d.spread = 2 then bitsSet 12 d.stk else []
  let peers := (if d.ystream then d.ypeer.take d.lanes else []) ++ (if d.xstream then d.xpeer.take d.lanes else [])
  let bad (n : Nat) : Option Status :=
    if !(s.stackPresent n) then some Code.stationAbsent
    else if !(bit (s.bsuMask pid) n) then some Code.stationForeign
    else none
  match stk.findSome? bad with
  | some st => some st
  | none => peers.findSome? (s.reach pid)

/-- The checks of R226 in order: the nouns of a descriptor that passes. -/
def seqCheck (r : BankReader) (d : SeqDesc) (raw : List Byte) : SM (List (Option Noun)) := do
  if !(d.ok raw) then sqFail Code.seqInvalid 0
  if d.op = opCancel then return []
  let s ← get
  match s.seqStations r.pid d with
  | some st => sqFail st 0
  | none => pure ()
  match s.gram.image.bind (·.part r.pid) with
  | none => sqFail Code.nounInvalid 0
  | some p =>
    let ns ← seqNouns r p d none ((List.range 8).zip d.nouns)
    if !(seqShapeOk d ns) then sqFail Code.seqOperand 0
    if !(seqFits d ns) then sqFail Code.seqCapacity 0
    pure ns

/-! ### The end of a sequence (R186, R224, R225) -/

/-- A noun of a sequence, by its place. -/
def Seq.noun (q : Seq) (i : Nat) : Noun := (q.nouns.getD i none).getD {}
def Seq.names (q : Seq) (i : Nat) : Bool := (q.nouns.getD i none).isSome

/-- The lead of a sequence. -/
def Seq.lead (q : Seq) : BankReader := { station := unitStation q.leadStack q.leadChannel, pid := q.pid }
def Seq.leadChan (q : Seq) : Nat := 32 * q.leadStack + q.leadChannel

/-- The intake's credit for a descriptor of a partition goes back to its producer; the serving controller needs none. -/
def State.intakeCredit (s : State) (pid n ch src : Nat) : State :=
  if src < 0x10000 then s.sendCredit pid (unitStation n ch) src else s

/-- Where a summary is written, none where it cannot be. -/
def summaryTarget (q : Seq) : SM (Option Nat) := do
  if q.desc.summary % 64 != 0 then pure none
  else
    tryCatch (do pure (some (← bankWalk q.lead q.desc.summary true))) fun e => match e with
      | .wait => throw .wait
      | .fault _ _ => pure none

/-- The serving controller hears of the end of a sequence it issued: a failure abandons the group's step, as one of its
model's damage where the group's model or draft model is DAMAGED (R306, R307). -/
def State.noteServing (s : State) (q : Seq) (st : Status) : State :=
  if q.issuer < 0x10000 then s
  else
    let hurt (e : Nat) : Bool := decide (e < 64) && (s.mcEntry e).state == .damaged
    let note (g : Group) : Group :=
      if g.pid != q.pid || !g.tags.contains q.desc.tag then g
      else
        let damage := (st == Code.ueData || st == Code.poisoned)
          && (hurt g.model || g.members.any fun i => hurt (s.srv.table.look {} i).draft)
        { g with tags := g.tags.erase q.desc.tag,
                 abandoned := if st = Code.ok then g.abandoned else some (g.abandoned.getD (st, damage)) }
    { s with srv := { s.srv with groups := s.srv.groups.map fun (n, g) => (n, note g) } }

/-- The summary of a sequence is written as a release, or an event stands for it; the partition is charged (R224, R319). -/
def State.writeSummary (s : State) (id : Nat) (q : Seq) (target : Option Nat) : State :=
  let st := q.failure.getD Code.ok
  let (lead, s) := s.drawBelow (2 ^ 32)
  let tell (s : State) : State := s.event Cls.bsu st (Obs.ofUnit q.leadStack q.leadChannel) q.pid q.desc.tag 0
  let s := match target with
    | some pa => s.submit { writer := .sequence id, line := pa / 64, bytes := q.summaryBytes st lead, mask := fullMask }
    | none => tell s
  let s := (s.modPsched q.pid fun x => { x with acctB := (x.acctB + q.cycles) % 2 ^ 64 }).noteServing q st
  if q.desc.event then tell s else s

/-- A unit's port. -/
def State.modUnitPort (s : State) (n ch p : Nat) (f : Port → Port) : State :=
  s.modChan n ch fun c => { c with ports := c.ports.upd {} p f }

/-- The lead's ports of a sequence are given up: a credit granted and not used is revoked. -/
def State.unbindLead (s : State) (q : Seq) : State :=
  let n := q.leadStack
  let ch := q.leadChannel
  let self := unitStation n ch
  let s := if !q.desc.xstream then s
    else (List.range q.desc.lanes).foldl (fun s j =>
      let peer := q.desc.xpeer.getD j 0
      let s := s.modUnitPort n ch (1 + j) fun _ => {}
      match station peer with
      | .flow _ _ => s
      | _ => if q.xvec.any (·.1 == j) then s else { s with transit := s.transit ++ [.revoke (self + 1 + j) peer] }) s
  if !q.desc.ystream then s
  else (List.range q.desc.lanes).foldl (fun s j => s.modUnitPort n ch (9 + j) fun p => { credits := p.credits }) s

/-- A write that the end of a sequence released still waits for a withdrawal or for its stack. -/
def State.releasing (s : State) (id : Nat) : Bool :=
  let mine (op : WriteOp) : Bool := op.released == some id
  (s.xl.withdraws.any fun w => w.2.any mine) || s.stk.any fun (_, x) => x.wakeQueue.any mine

/-- The last of step 6: once every released write that no other claim holds on has been performed, the summary is written and the
sequence is gone (R186). -/
def State.closeSeq (s : State) (id : Nat) : State :=
  match s.seqs.seek id with
  | none => s
  | some q =>
    match (summaryTarget q).run s with
    | (.error _, s) => s
    | (.ok t, s) => if s.releasing id then s else { s with seqs := s.seqs.drop id }.writeSummary id q t

/-- A sequence ends, with OK or with its first failure: one that was never admitted gives its credit back, an admitted one its ports;
the claim ends, the held writes are released, and the summary follows as soon as it may (R186, R225, R229 step 6). -/
def State.endSeq (s : State) (id : Nat) (st : Status) (va : Nat) (cut : Bool) : State :=
  let q := s.seq id
  let s := if q.phase == .waiting then s.intakeCredit q.pid q.leadStack q.leadChannel q.issuer else s.unbindLead q
  let s := s.modSeq id fun q =>
    { q with phase := .closing, failure := if st = Code.ok then none else some st, faultVa := va, cut := cut }
  (s.releaseClaim id).closeSeq id

/-! ### Intakes (R225, R226, R232) -/

/-- The partition a producer's descriptors belong to. -/
def State.senderPid (s : State) (src : Nat) : Option Nat :=
  if 0x10000 ≤ src then some (src - 0x10000)
  else match station src with
    | .core c k _ => s.corePid c k
    | .control c _ => s.clusterPid c
    | .cache c _ => s.clusterPid c
    | _ => none

/-- Every sequence of a partition carrying a tag, of those that occupy stack n, is stopped (R232): one that waits is
dropped, one admitted stops at each unit's next slice boundary, and skips what is left of step 5. -/
def State.cancelTag (s : State) (n pid tag : Nat) : State :=
  s.seqs.foldl (fun s (id, q) =>
    if q.pid != pid || q.desc.tag != tag || !(q.stks.contains n || q.leadStack == n) then s
    else match q.phase with
      | .waiting => s.endSeq id Code.seqCancelled 0 false
      | .closing => s
      | _ => s.modSeq id fun q => { q with failure := some (q.failure.getD Code.seqCancelled) }) s

/-- A descriptor is taken from the front of an intake by the command of its operation; one of a reserved operation by any.
Checked, it waits for admission; refused, it ends; a CANCEL acts. -/
def State.takeDescriptor (s : State) (n ch op : Nat) (u : Upset) : State :=
  match (s.chan n ch).intake with
  | [] => s
  | (src, raw) :: rest =>
    let d := parseSeq raw
    let pop (s : State) : State := s.modChan n ch fun c => { c with intake := rest }
    if d.op != op && seqOps.contains d.op then s
    else if !(s.domainReady (44 + n)) && !(s.domainFailed (44 + n)) then s.wakeDomain (44 + n)
    else
      let failed := !(s.domainReady (44 + n))
      let s := s.domainTold (44 + n)
      match s.senderPid src with
      | none => pop s
      | some pid =>
        let id := s.nextSeq
        let q : Seq := { desc := d, pid := pid, leadStack := n, leadChannel := ch, issuer := src, stks := [n] }
        match (do let ns ← if failed then pure (Except.error (Code.domainFault, 0)) else
                    (tryCatch (do pure (Except.ok (← seqCheck q.lead d raw))) fun e => match e with
                    | .wait => throw .wait
                    | .fault st va => pure (Except.error (st, va)))
                  pure ns : SM (Except (Status × Nat) (List (Option Noun)))).run (s.strike u) with
        | (.error _, s) => s
        | (.ok (.error (st, va)), s) =>
          if d.op = opCancel then
            ((pop s).intakeCredit pid n ch src).event Cls.bsu st (Obs.ofUnit n ch) pid d.tag 0
          else { pop s with seqs := s.seqs.put id q, nextSeq := id + 1 }.endSeq id st va false
        | (.ok (.ok ns), s) =>
          let s := pop s
          if d.op = opCancel then (s.intakeCredit pid n ch src).cancelTag n pid d.tag
          else { s with seqs := s.seqs.put id { q with nouns := ns }, nextSeq := id + 1 }

/-- ROWDOT -/
def execRowdot (n ch : Nat) (u : Upset) (s : State) : Host.Outcome State Fault Refusal :=
  .next (s.takeDescriptor n ch opRowdot u)

/-- ROWSUM -/
def execRowsum (n ch : Nat) (u : Upset) (s : State) : Host.Outcome State Fault Refusal :=
  .next (s.takeDescriptor n ch opRowsum u)

/-- REDUCE -/
def execReduce (n ch : Nat) (u : Upset) (s : State) : Host.Outcome State Fault Refusal :=
  .next (s.takeDescriptor n ch opReduce u)

/-- GATHER -/
def execGather (n ch : Nat) (u : Upset) (s : State) : Host.Outcome State Fault Refusal :=
  .next (s.takeDescriptor n ch opGather u)

/-- SCATTER_ADD -/
def execScatterAdd (n ch : Nat) (u : Upset) (s : State) : Host.Outcome State Fault Refusal :=
  .next (s.takeDescriptor n ch opScatterAdd u)

/-- COMBINE -/
def execCombine (n ch : Nat) (u : Upset) (s : State) : Host.Outcome State Fault Refusal :=
  .next (s.takeDescriptor n ch opCombine u)

/-- CANCEL -/
def execCancel (n ch : Nat) (s : State) : Host.Outcome State Fault Refusal :=
  .next (s.takeDescriptor n ch opCancel {})

/-! ### Footprints and units (R227, R239) -/

/-- The channels of a stack that are present, by global number. -/
def State.channelsOf (s : State) (n : Nat) : List Nat :=
  ((List.range 32).filter (s.chanPresent n)).map (· + 32 * n)

/-- The units that work on a sequence. -/
def State.workingUnits (s : State) (q : Seq) : List Nat :=
  match q.desc.spread with
  | 0 => [q.leadChan]
  | 1 => s.channelsOf q.leadStack
  | _ => (bitsSet 12 q.desc.stk).flatMap s.channelsOf

/-- What the walk of a sequence's footprints has found: the 64 KiB pages by number, the blocks read and written, the
stacks that hold them. -/
structure Footprints where
  pages : Tbl Nat := []
  reads : List Nat := []
  writes : List Nat := []
  stks : List Nat := []
  /-- the index noun's elements, where the walk had to read them -/
  rows : Option (List Nat) := none
  deriving DecidableEq, Repr

/-- Granules of a byte range walked in ascending order. -/
def walkRange (r : BankReader) (write : Bool) (step : Nat) : Nat → Nat → Nat → Footprints → SM Footprints
  | 0, _, _, f => pure f
  | k + 1, va, last, f => do
    if va > last then pure f
    else
      let pa ← bankWalk r va write
      let s ← get
      let stk := match s.locate pa with
        | .cell g _ => insertLine (g / 32) f.stks
        | .absent _ => f.stks
      let f : Footprints := { f with pages := f.pages.put (va / 0x10000) (pa / 0x10000), stks := stk }
      let f := if write then { f with writes := insertLine (pa / 0x10000) f.writes }
               else { f with reads := insertLine (pa / 0x10000) f.reads }
      walkRange r write step k ((va / step + 1) * step) last f

/-- The footprints of a sequence's nouns, a streamed X or Y left out (R231, R239). -/
def walkNouns (r : BankReader) (q : Seq) (step : Nat) : List Nat → Footprints → SM Footprints
  | [], f => pure f
  | i :: rest, f => do
    if !(q.names i) || (i == 1 && q.desc.xstream) || (i == 2 && q.desc.ystream) then walkNouns r q step rest f
    else
      let n := q.noun i
      let base := if i = 5 then some (q.noun 0) else none
      let (lo, hi) := View.footprint { noun := n } base
      let span (lo hi : Nat) : Nat := (hi - lo) / step + 2
      let f ← walkRange r (q.desc.written.contains i) step (span lo.toNat hi.toNat) lo.toNat hi.toNat f
      walkNouns r q step rest f

/-- The line a unit reads an element by: that of its first piece. -/
def homeLine (n : Noun) (i : List Int) : Nat :=
  match View.pieces { noun := n } i with
  | (x, _) :: _ => x.toNat / 512
  | [] => 0

/-- The lines of W, or of a gathered row, in ascending order. -/
def homeLines (n : Noun) (idx : List (List Int)) : List Nat :=
  idx.foldl (fun acc i => insertLine (homeLine n i) acc) []

/-- The indices of a row of W. -/
def rowIndices (n : Noun) (row : Int) : List (List Int) := (List.range (n.ext 0)).map fun (k : Nat) => [(k : Int), row]

/-- What the units of a sequence have to read, `rows` the index noun's values. -/
def Seq.items (q : Seq) (rows : List Int) : List Nat :=
  let w := q.noun 0
  if q.desc.op = opGather || q.desc.op = opScatterAdd then
    ((List.range rows.length).zip rows).flatMap fun (j, row) =>
      (homeLines w (rowIndices w row)).map (· + j * 2 ^ 48)
  else homeLines w w.logical

/-- The elements of an item of a unit's work, `rows` the index noun's values. -/
def Seq.itemElems (q : Seq) (rows : List Int) (item : Nat) : List (List Int) :=
  let w := q.noun 0
  let all := if q.desc.op = opGather || q.desc.op = opScatterAdd then rowIndices w (rows.getD (item / 2 ^ 48) 0) else w.logical
  all.filter fun i => homeLine w i == item % 2 ^ 48

/-- The index noun's values as rows. -/
def Seq.rows (q : Seq) (raws : List Nat) : List Int :=
  raws.map fun x => if (q.noun 4).format = fmtINT32 then signed 32 x else (x : Int)

/-- Items shared out to the units whose channel holds their line. -/
def State.shareItems (s : State) (f : Footprints) (units : List Nat) (items : List Nat) : Tbl (List Nat) :=
  let owner (item : Nat) : Option Nat :=
    let va := 64 * (item % 2 ^ 48)
    match f.pages.seek (va / 0x10000) with
    | none => none
    | some p => match s.locate (p * 0x10000 + va % 0x10000) with
      | .cell g _ => if units.contains g then some g else none
      | .absent _ => none
  items.foldr (fun x t => match owner x with
    | none => t
    | some g => t.upd [] g (x :: ·)) []

/-- Elements of a noun's index list, where the sequence has one. -/
def bankRows (r : BankReader) (q : Seq) : SM (List Nat) := do
  if q.names 4 then pure (← bankElems r (q.noun 4) (q.noun 4).logical).1 else pure []

/-- What a computation gives, nothing where it fails; it waits as the computation does. -/
def bankTry {α : Type} (x : SM α) : SM (Option α) :=
  tryCatch (do pure (some (← x))) fun e => match e with
    | .wait => throw .wait
    | .fault _ _ => pure none

/-- The records that map entries lead to, for some blocks of the base of a delta noun. -/
def walkBlocks (r : BankReader) (d w : Noun) (m : MapHeader) (step : Nat) : List Nat → Footprints → SM Footprints
  | [], f => pure f
  | b :: rest, f => do
    let entry := ((← bankTry (bankBytes r (d.base + 64 + 4 * b) 4)).map fun x => leNat x.1).getD 0
    if entry = 0 || !(m.leads entry) then walkBlocks r d w m step rest f
    else
      let a := recordAddr d w entry
      let len := ((← bankTry (bankBytes r a 16)).map fun x => (parseHeader x.1).len).getD 0
      let last := min (a + 15 + len) (recordsAt d w + m.used - 1)
      let f ← walkRange r false step ((last - a) / step + 2) a last f
      walkBlocks r d w m step rest f

/-- The claim of a sequence with DELTA covers the records it reads: those of the blocks that the lines of its units' work lie in. A map
header that does not fit leads to no record, and the units meet it (R277, R281). -/
def walkRecords (r : BankReader) (q : Seq) (step : Nat) (units : List Nat) (f : Footprints) : SM Footprints := do
  if !q.desc.delta then return f
  let d := q.noun 5
  let w := q.noun 0
  let raws ← bankRows r q
  let f := { f with rows := some raws }
  match (← bankTry (bankBytes r d.base 64)).map fun x => parseMap x.1 with
  | none => pure f
  | some m =>
    if !(m.fits w) then pure f
    else
      let rows := q.rows raws
      let items := (← get).shareItems f units (q.items rows) |>.flatMap (·.2)
      let slots := items.flatMap fun i => (q.itemElems rows i).filterMap w.slotOf
      walkBlocks r d w m step (slots.foldl (fun acc t => insertLine (t / w.blockSlots) acc) []) f

/-! ### Admission (R228, R229 steps 2 and 3, R231, R317) -/

/-- The share of a partition, at least 1. -/
def State.shareOf (s : State) (p : Nat) : Nat := max 1 (s.psched p).share

/-- Partition a comes before partition b at stack n: less count ÷ share, ties to the lower number. -/
def State.sooner (s : State) (n a b : Nat) : Bool :=
  let count (p : Nat) : Nat := (s.stack n).shareCycles.look 0 p
  let x := count a * s.shareOf b
  let y := count b * s.shareOf a
  decide (x < y) || (x == y && decide (a ≤ b))

/-- The sequence is the one its lead admits next. -/
def State.nextAtLead (s : State) (id : Nat) (q : Seq) : Bool :=
  s.seqs.all fun (i, x) =>
    i == id || x.phase != .waiting || x.leadChan != q.leadChan
      || (if x.pid = q.pid then decide (id < i) else s.sooner q.leadStack q.pid x.pid)

/-- Bytes a sequence takes of a vector store and of a result store. -/
def Seq.vectorBytes (q : Seq) : Nat := (if q.desc.op = opCombine then 0 else (q.noun 1).bytes) + (q.noun 4).bytes
def Seq.resultBytes (q : Seq) : Nat := if q.desc.op ≤ 3 then 4 * q.desc.outputs (q.noun 0) * q.desc.lanes else 0

/-- A sequence has been admitted, and its summary is not written. -/
def Seq.admitted (q : Seq) : Bool := q.phase != .waiting && q.order != 0

/-- The admitted sequences on a stack. -/
def State.admittedOn (s : State) (n : Nat) : List (Nat × Seq) :=
  s.seqs.filter fun (_, x) => x.admitted && x.stks.contains n

/-- Every stack a sequence needs has room, and its partition has fewer than INFLIGHT admitted. -/
def State.hasRoom (s : State) (q : Seq) (stks working : List Nat) : Bool :=
  let inflight := match s.gram.image.bind fun i => i.bsu.find? (·.pid == q.pid) with
    | none => 0
    | some r => r.inflight
  let sum (xs : List (Nat × Seq)) (f : Seq → Nat) : Nat := xs.foldl (fun a x => a + f x.2) 0
  decide ((s.seqs.filter fun (_, x) => x.admitted && x.pid == q.pid).length < inflight)
    && stks.all (fun n => decide ((s.admittedOn n).length < 32))
    && working.all (fun n =>
        let on := (s.admittedOn n).filter fun (_, x) => (s.workingUnits x).any fun g => g / 32 == n
        decide (sum on Seq.vectorBytes + q.vectorBytes ≤ 0x100000) && decide (sum on Seq.resultBytes + q.resultBytes ≤ 0x200000))
    && ((List.range 16).all fun i =>
        let p := (s.chan q.leadStack q.leadChannel).ports.look {} (i + 1)
        !((q.desc.xstream && decide (i < q.desc.lanes)) || (q.desc.ystream && decide (8 ≤ i) && decide (i < 8 + q.desc.lanes)))
          || (!p.producer && !p.consumer))

/-- A written block meets a block of an admitted sequence, or a read block a written one. -/
def State.conflicts (s : State) (f : Footprints) : Bool :=
  s.seqs.any fun (_, x) => x.admitted
    && (f.writes.any (fun b => x.readBlocks.contains b || x.writeBlocks.contains b) || f.reads.any x.writeBlocks.contains)

/-- The lead binds a sequence's vector inputs and result outputs, as BIND does (R231). -/
def State.bindLead (s : State) (q : Seq) : State :=
  let n := q.leadStack
  let ch := q.leadChannel
  let x := q.noun 1
  let column : Noun := { x with rank := 2, extents := [x.ext 0, 1, 0, 0, 0, 0] }
  let s := if !q.desc.xstream then s
    else (List.range q.desc.lanes).foldl (fun s j =>
      (s.modUnitPort n ch (1 + j) fun _ => { consumer := true, peer := q.desc.xpeer.getD j 0, noun := column }).sendCredits
        q.pid (unitStation n ch + 1 + j) (q.desc.xpeer.getD j 0) 1) s
  if !q.desc.ystream then s
  else (List.range q.desc.lanes).foldl (fun s j =>
    let peer := q.desc.ypeer.getD j 0
    s.modUnitPort n ch (9 + j) fun p =>
      { producer := true, peer := peer, noun := q.noun 2, credits := p.credits.filter (·.1 == peer) }) s

/-- Step 2: Y is zero, or −∞ for a maximum, unless ACCUM is set. -/
def seqInit (id : Nat) (q : Seq) : SM Unit := do
  if q.names 2 && !q.desc.accum && !q.desc.ystream then
    let v := if q.desc.op = opReduce && q.desc.mode % 2 = 1 then 0xFF800000 else 0
    bankStore q.lead id (q.noun 2) ((q.noun 2).logical.map fun i => (i, v))

/-- Step 3: X, S and I go to the vector store; `got` holds what has been read already. -/
def seqLoad (q : Seq) (got : Tbl (List Nat)) : List Nat → SM (Tbl (List Nat))
  | [] => pure got
  | i :: rest => do
    if !(q.names i) || (got.seek i).isSome || (i == 1 && (q.desc.xstream || q.desc.op == opCombine)) then seqLoad q got rest
    else
      let (v, _) ← bankElems q.lead (q.noun i) (q.noun i).logical
      let t ← seqLoad q got rest
      pure (t.put i v)

/-- Steps 2 and 3 of an admitted sequence, and the sharing out of its lines. An index outside the rows of W has no status
of its own; it ends the sequence as a gather verb's would (log entry 20). -/
def seqBegin (id : Nat) (q : Seq) (f : Footprints) (units : List Nat) : SM Unit := do
  seqInit id q
  let t ← seqLoad q (f.rows.elim [] fun raws => if q.names 4 then [(4, raws)] else []) [1, 3, 4]
  sqChange fun s => s.modSeq id fun q => { q with vectors := t }
  let rows := q.rows (t.look [] 4)
  if rows.any fun x => decide (x < 0) || decide (((q.noun 0).ext 1 : Int) ≤ x) then sqFail Code.indexRange 0
  let items := q.items rows
  let items ← if q.desc.op = opScatterAdd then modifyGet fun s => s.shuffle items.length items else pure items
  sqChange fun s => s.modSeq id fun q => { q with work := s.shareItems f units items }

/-- What a computation gives, or the failure it meets; it waits as the computation does. -/
def bankAttempt {α : Type} (x : SM α) : SM (Except (Status × Nat) α) :=
  tryCatch (do pure (Except.ok (← x))) fun e => match e with
    | .wait => throw .wait
    | .fault st va => pure (Except.error (st, va))

/-- The conditions of admission over the footprints found: no conflict, room, and the domains of the stacks it occupies on. One whose
conditions fail is refused or goes on waiting; `go` takes over where they hold, with the stacks. -/
def State.admission (s : State) (id : Nat) (q : Seq) (f : Footprints) (working : List Nat) (go : State → List Nat → State) :
    State :=
  let stks := (f.stks ++ working).foldl (fun acc n => insertLine n acc) []
  if s.conflicts f then s.endSeq id Code.claimConflict 0 false
  else if !(s.hasRoom q stks working) then s
  else if (f.stks.any fun n => (s.stack n).asleep && s.domainFailed (32 + n)) || working.any fun n => s.domainFailed (44 + n) then
    let s := (f.stks ++ working).foldl (fun s n => (s.domainTold (32 + n)).domainTold (44 + n)) s
    s.endSeq id Code.domainFault 0 false
  else if f.stks.any fun n => (s.stack n).asleep then
    f.stks.foldl (fun s n => if (s.stack n).asleep then s.modStack n fun x => { x with wakeWaits := true } else s) s
  else if working.any fun n => !(s.domainReady (44 + n)) then
    working.foldl (fun s n => if s.domainReady (44 + n) then s else s.wakeDomain (44 + n)) s
  else go s stks

/-- A sequence is admitted: its claim stands, its ports are bound, and steps 2 and 3 run. -/
def State.enterSeq (s : State) (id : Nat) (q : Seq) (f : Footprints) (units stks : List Nat) : State :=
  let order := (s.seqs.map fun (_, x) => x.order).foldl max 0 + 1
  let admitted := (s.modSeq id fun q =>
    { q with phase := .reading, order := order, readBlocks := f.reads, writeBlocks := f.writes, stks := stks }).bindLead q
  match (seqBegin id q f units).run admitted with
  | (.error .wait, w) => { s with xl := w.xl, out := w.out }
  | (.ok _, w) => w.intakeCredit q.pid q.leadStack q.leadChannel q.issuer
  | (.error (.fault st va), w) =>
    (w.modSeq id fun q => { q with failure := some st, faultVa := va }).intakeCredit q.pid q.leadStack q.leadChannel q.issuer

/-- A waiting sequence is admitted, is refused, or goes on waiting; one that ends only waits for its summary. -/
def State.seqAdmit (s : State) (id : Nat) (u : Upset) : State :=
  match s.seqs.seek id with
  | none => s
  | some q =>
    if q.phase != .waiting then s
    else if q.failure.isSome then s.endSeq id (q.failure.getD Code.ok) 0 false
    else if !(s.nextAtLead id q) then s
    else
      let step := min 0x10000 (2 ^ s.granule)
      let units := s.workingUnits q
      let working := units.foldl (fun acc g => insertLine (g / 32) acc) []
      match (bankAttempt (walkNouns q.lead q step (List.range 8) {})).run (s.strike u) with
      | (.error _, s) => s
      | (.ok (.error (st, va)), s) => s.endSeq id st va true
      | (.ok (.ok f), s) =>
        s.admission id q f working fun s _ =>
          match (bankAttempt (walkRecords q.lead q step units f)).run s with
          | (.error _, s) => s
          | (.ok (.error (st, va)), s) => s.endSeq id st va true
          | (.ok (.ok f), s) => s.admission id q f working fun s stks => s.enterSeq id q f units stks

/-! ### What a unit computes (R219 to R222) -/

/-- The delta block of a line's elements: raw differences by element slot, and the lines read (R221, R277 to R279). -/
def bankDelta (r : BankReader) (q : Seq) (block : Nat) : SM (Tbl Nat × Nat) := do
  let n := q.noun 5
  let b := q.noun 0
  let (head, c0) ← bankBytes r n.base 64
  let m := parseMap head
  if !(m.fits b) then sqFail Code.cvMismatch n.base
  let (entry, c1) ← bankBytes r (n.base + 64 + 4 * block) 4
  if leNat entry = 0 then pure ([], c0 + c1)
  else
    let a := recordAddr n b (leNat entry)
    if !(m.leads (leNat entry)) then sqFail Code.cvMismatch a
    else
      let (hb, _) ← bankBytes r a 16
      let h := parseHeader hb
      if a + 16 + h.len > recordsAt n b + m.used then sqFail Code.cvMismatch a
      let (rec_, c2) ← bankBytes r a (16 + h.len)
      let valid (t : Nat) : Bool := b.logical.any fun i => b.slotOf i == some (block * b.blockSlots + t)
      match decodeRecord n b block valid h (rec_.drop 16) with
      | none => sqFail Code.cvMismatch a
      | some ds => pure (ds.map fun (t, v) => (block * b.blockSlots + t, v), c0 + c1 + c2)

/-- Elements of W with their differences: the raw element, and its difference where it has one; with the lines read. An element below
BASE lies in no block and has none (log entry 79). -/
def bankWeights (r : BankReader) (q : Seq) (idx : List (List Int)) : SM (List (Nat × Option Nat) × Nat) := do
  let w := q.noun 0
  let (raws, c) ← bankElems r w idx
  if !q.desc.delta then pure (raws.map fun x => (x, none), c)
  else
    let blocks := (idx.filterMap w.slotOf).foldl (fun acc t => insertLine (t / w.blockSlots) acc) []
    let (ds, c2) ← blocks.foldlM (fun (acc : Tbl Nat × Nat) b => do
      let (t, k) ← bankDelta r q b
      pure (t ++ acc.1, acc.2 + k)) ([], 0)
    pure ((idx.zip raws).map fun (i, x) => (x, (w.slotOf i).bind ds.seek), c + c2)

/-- The value of an element of W as it enters a product or a sum. -/
def Seq.weightValue (q : Seq) (x : Nat × Option Nat) : Num :=
  match x.2 with
  | none => valueOf (q.noun 0).format x.1
  | some d => roundTo fmtFP32 ((valueOf (q.noun 0).format x.1).add (valueOf (q.noun 5).format d))

/-- Exact addends joined to an FP32 partial sum in an order the free values choose, one rounding each (R219). -/
def State.partialSum (s : State) (old : Option Num) (xs : List Num) : Num × State :=
  let sum (x : Bool × Num) : Num := if x.1 then x.2 else roundTo fmtFP32 x.2
  let join (a b : Bool × Num) : Bool × Num :=
    if a.1 || !b.1 then (true, roundTo fmtFP32 ((sum a).add b.2)) else (true, roundTo fmtFP32 (b.2.add a.2))
  let all := (match old with
    | none => []
    | some x => [(true, x)]) ++ xs.map fun x => (false, x)
  let (v, s) := State.combineAny join (true, .fin false 0 0) all.length all s
  (sum v, s)

/-- Addends for one result value of a stack join its partial sum, or its maximum. -/
def State.addResult (s : State) (id key : Nat) (larger : Bool) (xs : List Num) : State :=
  let q := s.seq id
  let old := (q.sums.seek key).map (valueOf fmtFP32)
  let (v, s) :=
    if larger then
      (match old with
        | none => xs.foldl (Num.pick true) (xs.headD .nan)
        | some o => xs.foldl (Num.pick true) o, s)
    else s.partialSum old xs
  s.modSeq id fun q => { q with sums := q.sums.put key (roundInto fmtFP32 .ne v).raw }

/-- Addends grouped by result value. -/
def groupByKey (xs : List (Nat × Num)) : Tbl (List Num) := xs.foldl (fun t (k, v) => t.upd [] k (· ++ [v])) []

/-- The vector of X a sequence reads, by index and vector. -/
def Seq.xValue (q : Seq) (k v : Nat) : Num :=
  let x := q.noun 1
  let raw := if q.desc.xstream then
      bits (leNat (q.xvec.look [] v)) (x.w * k) x.w
    else (q.vectors.look [] 1).getD (k + x.ext 0 * v) 0
  valueOf x.format raw

/-- S[r], 1 where none is named. -/
def Seq.scale (q : Seq) (r : Nat) : Option Num :=
  if q.names 3 then some (valueOf fmtFP32 ((q.vectors.look [] 3).getD r 0)) else none

/-- The programs of R220 on the values of the tables, each operation rounded once in FP32: the new values of T0, T2, T3. -/
def combineProgram (mode : Nat) (c : List Num) (t0 t1 t2 t3 : Num) : List Num :=
  let r := roundTo fmtFP32
  let c (i : Nat) : Num := c.getD i .nan
  let add (a b : Num) : Num := r (a.add b)
  let sub (a b : Num) : Num := r (a.sub b)
  let mul (a b : Num) : Num := r (a.mul b)
  match mode with
  | 0 => [add (mul (c 0) t0) (mul (c 1) t1)]
  | 1 =>
    let m := add (mul (c 0) t2) t1
    [sub (mul (c 1) t0) (mul (c 2) m), m]
  | _ =>
    let m := add t2 (mul (c 0) (sub t1 t2))
    let v := add t3 (mul (c 1) (sub (mul t1 t1) t3))
    [sub (mul (c 2) t0) (r ((mul (c 3) m).div (add (r v.sqrt) (c 4)))), m, v]

/-- An element written to a table. -/
def tableRaw (fmt : Nat) (x : Num) : Nat := (roundInto fmt .ne x).raw

/-- One item of a unit's work: the elements of W or T0 whose home it is. Answers the lines read. -/
def bankItem (r : BankReader) (id stk item : Nat) : SM Nat := do
  let q := (← get).seq id
  let d := q.desc
  let w := q.noun 0
  let j := item / 2 ^ 48
  let base := stk * 2 ^ 32
  let idx := q.itemElems (q.rows (q.vectors.look [] 4)) item
  let at0 (i : List Int) : Nat := (i.getD 0 0).toNat
  let at1 (i : List Int) : Nat := (i.getD 1 0).toNat
  match d.op with
  | 5 =>
    let (raws, c) ← bankElems r w idx
    let x := q.noun 1
    let out := (idx.zip raws).map fun (i, old) =>
      let add := valueOf x.format ((q.vectors.look [] 1).getD (at0 i + x.ext 0 * j) 0)
      (i, tableRaw w.format (roundTo fmtFP32 ((valueOf w.format old).add add)))
    bankStore r id w out
    pure c
  | 6 =>
    let (r0, c0) ← bankElems r w idx
    let (r1, c1) ← bankElems r (q.noun 1) idx
    let (r2, c2) ← if q.names 6 then bankElems r (q.noun 6) idx else pure ([], 0)
    let (r3, c3) ← if q.names 7 then bankElems r (q.noun 7) idx else pure ([], 0)
    let coef := d.coef.map (valueOf fmtFP32)
    let val (i : Nat) (xs : List Nat) (k : Nat) : Num := valueOf (q.noun i).format (xs.getD k 0)
    let out := (List.range idx.length).map fun k =>
      combineProgram d.mode coef (val 0 r0 k) (val 1 r1 k) (val 6 r2 k) (val 7 r3 k)
    let part (place i : Nat) : List (List Int × Nat) :=
      (idx.zip out).map fun (x, o) => (x, tableRaw (q.noun i).format (o.getD place .nan))
    let writes := [(0, 0), (1, 6), (2, 7)].filter fun (_, i) => d.written.contains i
    for (place, i) in writes do
      bankReady r id (seqGather (q.noun i) (part place i)).keys
    for (place, i) in writes do
      bankStore r id (q.noun i) (part place i)
    pure (c0 + c1 + c2 + c3)
  | 4 =>
    let (ws, c) ← bankWeights r q idx
    let y := q.noun 2
    let out := (idx.zip ws).map fun (i, x) =>
      (at0 i + w.ext 0 * j, match x.2 with
        | none => if y.format = w.format then x.1 else tableRaw y.format (valueOf w.format x.1)
        | some dr => tableRaw y.format ((valueOf w.format x.1).add (valueOf (q.noun 5).format dr)))
    sqChange fun s => s.modSeq id fun q => { q with sums := out.foldl (fun t (k, v) => t.put k v) q.sums }
    pure c
  | 3 =>
    let (ws, c) ← bankWeights r q idx
    let xs := (idx.zip ws).map fun (i, x) => (base + (if d.mode < 2 then at1 i else at0 i), q.weightValue x)
    for (key, vs) in groupByKey xs do
      sqChange fun s => s.addResult id key (d.mode % 2 == 1) vs
    pure c
  | op =>
    let (ws, c) ← bankWeights r q idx
    let n := d.outputs w
    let xs := (idx.zip ws).flatMap fun (i, x) => (List.range d.vectors).map fun v =>
      let wv := q.weightValue x
      if op = opRowdot then (base + at1 i + n * v, wv.mul (q.xValue (at0 i) v))
      else
        let xv := q.xValue (at1 i) v
        (base + at0 i + n * v, wv.mul (match q.scale (at1 i) with
          | none => xv
          | some sc => roundTo fmtFP32 (sc.mul xv)))
    for (key, vs) in groupByKey xs do
      sqChange fun s => s.addResult id key false vs
    pure c

/-! ### Slices (R236, R237, R242) -/

/-- The share of the admitted slots the units of a stack take (R234). -/
def Stack.share (x : Stack) : Nat := min x.bTherm x.bPower

/-- The admitted sequence a unit works on: the first in admission order for which it has something left (R229). -/
def State.unitSeq (s : State) (g : Nat) : Option Nat :=
  let mine := s.seqs.filter fun (_, q) => q.phase == .reading && !(q.work.look [] g).isEmpty && !q.stopped.contains g
  match (mine.map fun (_, q) => q.order).min? with
  | none => none
  | some o => (mine.find? fun (_, q) => q.order == o).map (·.1)

/-- Every vector of a sequence's vector inputs has arrived. -/
def Seq.vectorsHere (q : Seq) : Bool := !q.desc.xstream || (List.range q.desc.lanes).all fun j => q.xvec.any (·.1 == j)

/-- Items of a unit's work, as many as the slice takes; a failure ends the unit's part, a wait leaves the rest. -/
def State.runItems (g id : Nat) : Nat → State → State
  | 0, s => s
  | k + 1, s =>
    let q := s.seq id
    match q.work.look [] g with
    | [] => s
    | item :: rest =>
      match (bankItem { station := unitStation (g / 32) (g % 32), pid := q.pid } id (g / 32) item).run s with
      | (.error .wait, s) => s
      | (.error (.fault st va), s) => s.modSeq id fun q =>
        { q with stopped := q.stopped ++ [g], failure := some (q.failure.getD st),
                 faultVa := if q.failure.isSome then q.faultVa else va,
                 readers := insertLine g q.readers, linesRead := q.linesRead + 1 }
      | (.ok c, s) =>
        State.runItems g id k (s.modSeq id fun q =>
          { q with work := q.work.put g rest, readers := insertLine g q.readers, linesRead := q.linesRead + c })

/-- A slice boundary of a unit, in the order of R236. Where eight refreshes are owed, the unit pauses; the boundary that follows
finds a refresh issued and the unit resumes (R237). Then the shares in force apply, a failure, a cancel or a stall stops the unit,
and the next slice of at most so many lines is read. How many cycles it took is free. -/
def State.unitSlice (s : State) (n ch lines : Nat) (u : Upset) : State :=
  let g := 32 * n + ch
  let c := s.chan n ch
  match s.unitSeq g with
  | none => s.modChan n ch fun c => { c with paused := false }
  | some id =>
    let s := s.strike u
    if decide (8 ≤ c.owed) && !c.paused then
      (s.modChan n ch fun c => { c with pauses := (c.pauses + 1) % 2 ^ 32, paused := true }).modSeq id
        fun q => { q with pauses := q.pauses + 1 }
    else
      let s := (s.refreshFirst n ch).modChan n ch fun c => { c with paused := false }
      let q := s.seq id
      let q' : Seq := { q with doubled := q.doubled || (s.stack n).refresh2, shareCut := q.shareCut || decide ((s.stack n).share < 16) }
      if q.failure.isSome then s.modSeq id fun _ => { q' with stopped := q.stopped ++ [g] }
      else if !q.vectorsHere then s.modSeq id fun _ => q'
      else
        let (cyc, s) := s.drawBelow 1501
        let s := s.modSeq id fun _ => { q' with slices := q'.slices + 1, cycles := q'.cycles + cyc }
        let s := s.modStack n fun x => { x with shareCycles := x.shareCycles.upd 0 q.pid fun v => (v + cyc) % 2 ^ 64 }
        if u.accumulator then
          (s.modSeq id fun q => { q with failure := some Code.ueSram, stopped := q.stopped ++ [g] }).event Cls.clu Code.ueSram
            (Obs.ofStack n) q.pid 0 0
        else State.runItems g id lines s

/-- SLICE_BOUNDARY -/
def execSliceBoundary (n ch lines : Nat) (u : Upset) (s : State) : Host.Outcome State Fault Refusal :=
  .next (s.unitSlice n ch lines u)

/-- CLAIM_STALL: a writer that a sequence's claim keeps waiting has waited STALL_LIMIT (R241). -/
def execClaimStall (id : Nat) (s : State) : Host.Outcome State Fault Refusal :=
  let waits := s.stk.any fun (_, x) => x.held.any (·.1 == id) || x.heldWaiting.any (·.1 == id)
  .next <|
    match s.seqs.seek id with
    | none => s
    | some q =>
      if (q.phase == .reading || q.phase == .sending) && waits && q.failure.isNone then s.modSeq id fun q => { q with failure := some Code.claimStall }
      else s

/-! ### Results and the end (R229 steps 5 and 6, R231) -/

/-- The combined sums of one stack join Y at its lines. -/
def seqStep5 (id : Nat) (q : Seq) (stk : Nat) : SM Unit := do
  let y := q.noun 2
  let mine := q.sums.filter fun (k, _) => k / 2 ^ 32 == stk
  let e := q.desc.outputs (q.noun 0)
  let idx := mine.map fun (k, _) =>
    let i : Nat := k % 2 ^ 32
    if y.rank = 1 then [(i : Int)] else [((i % e : Nat) : Int), ((i / e : Nat) : Int)]
  let (old, _) ← bankElems q.lead y idx
  let out := (mine.zip (idx.zip old)).map fun ((k, v), i, o) =>
    let sum := valueOf fmtFP32 v
    let c := match q.desc.op, q.scale (k % 2 ^ 32 % e) with
      | 1, some sc => roundTo fmtFP32 (sc.mul sum)
      | _, _ => sum
    let o := valueOf fmtFP32 o
    (i, tableRaw fmtFP32 (if q.desc.op = opReduce && q.desc.mode % 2 = 1 then Num.pick true o c else o.add c))
  bankWrite q.lead id (seqGather y out)

/-- Gathered rows go to Y, added to what stands there with ACCUM. A sum outside an integer format is a free value. -/
def seqGathered (id : Nat) (q : Seq) : SM Unit := do
  let y := q.noun 2
  let idx := q.sums.map fun (k, _) => [((k % y.ext 0 : Nat) : Int), ((k / y.ext 0 : Nat) : Int)]
  let (old, _) ← if q.desc.accum then bankElems q.lead y idx else pure ([], 0)
  let out ← modifyGet fun s => State.mapList (fun (x : (Nat × Nat) × List Int × Nat) s =>
    let ((_, v), i, o) := x
    if !q.desc.accum then ((i, v), s)
    else
      let r := roundInto y.format .ne ((valueOf y.format o).add (valueOf y.format v))
      if fmtIsInt y.format && r.clipped then
        let (w, s) := s.drawBelow (2 ^ fmtBits y.format)
        ((i, w), s)
      else ((i, r.raw), s)) (q.sums.zip (idx.zip (old ++ List.replicate (idx.length - old.length) 0))) s
  bankWrite q.lead id (seqGather y out)

/-- Step 5 into memory: the lines of Y are made ready first, so that nothing has happened when one has to be awaited. -/
def seqResults (id : Nat) (q : Seq) : SM Unit := do
  if q.names 2 then
    let lines := homeLines (q.noun 2) (q.noun 2).logical
    bankReady q.lead id lines
    if q.desc.op = opGather then seqGathered id q
    else
      let stks := q.sums.foldl (fun acc (k, _) => insertLine (k / 2 ^ 32) acc) []
      let stks ← modifyGet fun s => s.shuffle stks.length stks
      for n in stks do
        seqStep5 id q n

/-- Step 5 with YSTREAM: the results of vector j leave result output j as tiles, in ascending output index. -/
def State.stageResults (s : State) (id : Nat) (q : Seq) : State :=
  let e := q.desc.outputs (q.noun 0)
  let per := (q.noun 2).ext 0
  let value (j i : Nat) : Nat :=
    let v := q.sums.look (if q.desc.op = opReduce && q.desc.mode % 2 = 1 then 0xFF800000 else 0)
      (q.leadStack * 2 ^ 32 + i + e * j)
    match q.desc.op, q.scale i with
    | 1, some sc => tableRaw fmtFP32 (sc.mul (valueOf fmtFP32 v))
    | _, _ => v
  (List.range q.desc.lanes).foldl (fun s j =>
    let tiles := (List.range (e / per)).map fun t => (id, (List.range per).flatMap fun i => leBytes 4 (value j (per * t + i)))
    s.modUnitPort q.leadStack q.leadChannel (9 + j) fun p => { p with staged := p.staged ++ tiles }) s

/-- The units of a sequence have ended their part: all is read, or each unit that was reading it has stopped. -/
def State.unitsEnded (s : State) (id : Nat) (q : Seq) : Bool :=
  q.work.all fun (g, items) => items.isEmpty || q.stopped.contains g || (q.failure.isSome && s.unitSeq g != some id)

/-- A producer of a vector that has not arrived is out of reach: the code of R68 (R69, R242). -/
def State.lostPeer (s : State) (q : Seq) : Option Status :=
  if !q.desc.xstream then none
  else (List.range q.desc.lanes).findSome? fun j => if q.xvec.any (·.1 == j) then none else s.reach q.pid (q.desc.xpeer.getD j 0)

/-- A sequence's end, as far as it has come. -/
def State.seqEnd (s : State) (id : Nat) (u : Upset) : State :=
  let s := s.strike u
  match s.seqs.seek id with
  | none => s
  | some q =>
    match q.phase with
    | .waiting => s
    | .closing => s.closeSeq id
    | .sending =>
      let busy := (List.range 8).any fun j =>
        let p := (s.chan q.leadStack q.leadChannel).ports.look {} (9 + j)
        p.staged.any (·.1 == id) || p.unacked.contains id
      if q.failure.isSome || !busy then s.endSeq id (q.failure.getD Code.ok) q.faultVa q.failure.isSome else s
    | .reading =>
      let q := { q with failure := q.failure.or (s.lostPeer q) }
      let s := s.modSeq id fun _ => q
      if !(s.unitsEnded id q) || (q.failure.isNone && !q.vectorsHere) then s
      else match q.failure with
        | some st => s.endSeq id st q.faultVa true
        | none =>
          if q.desc.ystream then (s.stageResults id q).modSeq id fun q => { q with phase := .sending }
          else
            match (seqResults id q).run s with
            | (.ok _, s) => s.endSeq id Code.ok q.faultVa false
            | (.error .wait, s) => s
            | (.error (.fault st va), s) => s.endSeq id st va true

/-- A shutdown or a full image stops every sequence: those that wait are dropped, the others end at once, unless they failed before,
with their held writes performed (R242). -/
def State.abortSequences (s : State) : State :=
  s.seqs.foldl (fun s (id, _) =>
    match s.seqs.seek id with
    | none => s
    | some q =>
      if q.phase == .closing then s
      else s.endSeq id (q.failure.getD Code.seqAborted) q.faultVa (q.phase != .waiting)) s

/-- Sequences that still wait for their summaries when the device goes down cannot write them: an event stands for each (R224). -/
def State.dropSequences (s : State) : State :=
  s.seqs.foldl (fun s (id, q) => { s with seqs := s.seqs.drop id }.writeSummary id q none) s

/-- BSU_CANCEL: a write of the register (R232, R243). -/
def State.bsuCancelWrite (s : State) (n pid tag : Nat) : State :=
  (s.cancelTag n (pid % 16) (tag % 2 ^ 32)).modStack n fun x => { x with bsuLastCmd := Code.ok }

end Sys2Proof.Machine
end

