-- ==== Sys2Proof/Machine/Streams.lean ====
section
/-!
DEFINITION. Tile streams: sending a tile, its arrival, and the ways of a credit (R65, R68, R69, R77 to R82, R225, R231,
R299, R369).
-/

namespace Sys2Proof.Machine

/-! ### The ports of every station -/

/-- The port behind a station identifier, where the manual gives it one. No command binds a port of a control core or of a cluster
cache: the manual has none that names one (log entry 25). -/
def State.stationPort (s : State) (x : Nat) : Option Port :=
  match station x with
  | .core c k n => some ((s.core c k).port n)
  | .control c n => some ((s.cluster c).ccPorts.look {} n)
  | .cache c n => some ((s.cluster c).cachePorts.look {} n)
  | .unit n ch p => if 1 ≤ p then some ((s.chan n ch).ports.look {} p) else none
  | .serving p => some (s.srv.ports.look {} p)
  | _ => none

/-- The state with the port behind a station identifier changed. -/
def State.modStationPort (s : State) (x : Nat) (f : Port → Port) : State :=
  match station x with
  | .core c k n => s.modCore c k fun y => y.modPort n f
  | .control c n => s.modCluster c fun y => { y with ccPorts := y.ccPorts.upd {} n f }
  | .cache c n => s.modCluster c fun y => { y with cachePorts := y.cachePorts.upd {} n f }
  | .unit n ch p => if 1 ≤ p then s.modUnitPort n ch p f else s
  | .serving p => { s with srv := { s.srv with ports := s.srv.ports.upd {} p f } }
  | _ => s

/-- The partition a producer station sends for; the units and the serving controller send for the partition of their sequence or
group. -/
def State.stationPid (s : State) (x : Nat) (owner : Nat) : Option Nat :=
  match station x with
  | .core c k _ => s.corePid c k
  | .unit _ _ _ => (s.seqs.seek owner).map (·.pid)
  | .serving _ => (s.srv.groups.seek owner).map (·.pid)
  | _ => none

/-- A negative acknowledgement, or a mismatch, reaches the producer of a tile: a verb's queue faults, a sequence ends, a
group's step is abandoned (R69, R78, R307). `owner` is the verb's, the sequence's or the group's number. -/
def State.producerFault (s : State) (x owner : Nat) (st : Status) : State :=
  match station x with
  | .core c k n => s.verbFault c k ((s.core c k).port n).queue owner 0 st
  | .unit _ _ _ =>
    if (s.seqs.seek owner).isSome then s.modSeq owner fun q => { q with failure := some (q.failure.getD st) } else s
  | .serving _ =>
    match s.srv.groups.seek owner with
    | none => s
    | some g =>
      let g : Group := { g with abandoned := some (g.abandoned.getD (st, false)) }
      { s with srv := { s.srv with groups := s.srv.groups.put owner g } }
  | _ => s

/-! ### TILE_SEND -/

/-- A tile cut into TILE packets for a flow: the first carries FIRST and the tile size, the last LAST (R369). -/
def tilePackets (payload : Nat) (tile : List Byte) : List Packet :=
  let n := ceilDiv tile.length payload
  (List.range n).map fun i =>
    let b := (tile.drop (payload * i)).take payload
    { typ := 9, first := i == 0, last := i + 1 == n, len := b.length, addr := if i = 0 then tile.length else 0,
      payload := b }

/-- Payload sizes of R362, by their code. -/
def payloadBytes (code : Nat) : Nat := 1024 * 2 ^ code

/-- A tile sent to a flow of the Xomon link is written to companion memory. The manual names no address of such a stream, which is a
free value (R65, R80; log entry 25). -/
def State.xomonTile (s : State) (tile : List Byte) : State :=
  let (a, s) := s.drawBelow (2 ^ 46)
  (List.range (tile.length / 64)).foldl (fun s i =>
    s.compWrite (64 * (a + i)) (slice tile (64 * i) 64) fullMask .relaxed) s

/-- A queue that serves a producer port of a core has faulted: what its verbs have not sent stays there (R104). -/
def State.producerHalted (s : State) (x : Nat) : Bool :=
  match station x with
  | .core c k n => (s.core c k).halted.get ((s.core c k).port n).queue
  | _ => false

/-- TILE_SEND: the producer port's next tile leaves for its peer, once the peer may be addressed and a credit is held; a flow of the
Xomon link takes it at the link's own pace (R80). -/
def State.tileSend (s : State) (producer : Nat) : State :=
  match s.stationPort producer with
  | none => s
  | some p =>
    match if s.producerHalted producer then [] else p.staged with
    | [] => s
    | (owner, tile) :: rest =>
      let take (s : State) : State := s.modStationPort producer fun p => { p with staged := rest }
      match (s.stationPid producer owner).bind fun pid => s.reach pid p.peer with
      | some st => (take s).producerFault producer owner st
      | none =>
        match station p.peer with
        | .xomon _ => if s.linkUp then (take s).xomonTile tile else s
        | _ =>
        if p.credits.look 0 p.peer = 0 then s
        else
          let s := (take s).modStationPort producer fun p =>
            { p with credits := p.credits.upd 0 p.peer (· - 1), unacked := p.unacked ++ [owner] }
          match station p.peer with
          | .flow f n => (tilePackets (payloadBytes (s.flow f n).payload) tile).foldl (fun s k =>
              s.flowSend f n k { tag := owner, key := producer }) s
          | _ => { s with transit := s.transit ++ [.tile producer p.peer tile] }

/-- TILE_SEND -/
def execTileSend (producer : Nat) (s : State) : Host.Outcome State Fault Refusal := .next (s.tileSend producer)

/-! ### TILE_ARRIVAL -/

/-- The first tile on its way to a station, and what else is on its way. -/
def takeTile (target : Nat) : List Transit → Option ((Nat × List Byte) × List Transit)
  | [] => none
  | .tile x y b :: r =>
    if y = target then some ((x, b), r) else (takeTile target r).map fun (t, r) => (t, .tile x y b :: r)
  | t :: r => (takeTile target r).map fun (a, r) => (a, t :: r)

/-- A tile has been taken by its consumer: its producer's verb or sequence hears of it. -/
def State.ackTile (s : State) (source : Nat) : State :=
  match station source with
  | .flow _ _ => s
  | _ => s.modStationPort source fun p => { p with unacked := p.unacked.drop 1 }

/-- The producer of a tile that was turned away faults. -/
def State.mismatch (s : State) (source : Nat) : State :=
  match (s.stationPort source).bind fun p => p.unacked.head? with
  | some owner => (s.ackTile source).producerFault source owner Code.streamMismatch
  | none => s

/-- The lines a tile takes in the next slot of a buffer, materialised pads of that slot with them (R79, R162). -/
def Port.tileLines (p : Port) (tile : List Byte) : Tbl (Nat × Nat) :=
  let n := p.noun
  let inner := n.exts.take (n.rank - 1)
  let idx := (indices inner).map fun i => i ++ [(p.fill : Int)]
  let v := leNat tile
  let xs := (List.range idx.length).zip idx |>.map fun (k, i) => (i, bits v (n.w * k) n.w)
  let pads := n.padWrites.filter fun x => x.1.getLast? == some (p.fill : Int)
  View.linesFor { noun := n } (xs ++ pads)

/-- After a failed landing a slot's contents are unspecified: each line that can be written takes free bytes (R79). -/
def tileScramble (a : Issuer) (p : Path) : Tbl (Nat × Nat) → VM Unit
  | [] => pure ()
  | (l, _, m) :: rest => do
    let b ← modifyGet fun s => s.drawBytes 128
    tryCatch (writeEach a p [(l, leNat b &&& m, m)]) fun _ => pure ()
    tileScramble a p rest

/-- The bytes of a tile have all been written to their slot: nothing of it waits at a base die or for a peer, and nothing failed. -/
def tileLanded (a : Issuer) (p : Path) : VM Bool := do
  let s ← get
  let mine (w : Writer × Nat × Status × Nat) : Bool := w.1 == a.writer && w.2.1 == a.id
  match s.answers.find? mine with
  | some w =>
    change fun s => { s with answers := s.answers.filter fun w => !mine w }
    vaFault a w.2.2.2 w.2.2.1
  | none =>
    let sent := (s.core a.c a.k).sent
    if s.writesWait a then pure false
    else if p.space = 1 then pure true
    else match s.sentFailed sent with
      | some (i, st) =>
        change fun s => s.modCore a.c a.k fun y => { y with sent := y.sent.drop i }
        fail st
      | none => pure (s.sentDone sent)

/-- A tile arrives at a core's stream port: whether it has been dealt with; if not, its landing waits. The arrival counts once every
byte has been written; a failure on the way faults the queue of the binding, and leaves the slot with free bytes (R79). -/
def State.coreTile (s : State) (c k n source : Nat) (tile : List Byte) (u : Upset) : Bool × State :=
  let p := (s.core c k).port n
  if (s.core c k).run = .offline then (true, s.ackTile source)
  else if !p.consumer || p.peer != source || tile.length != p.tileBytes then (true, s.mismatch source)
  else
    let id := p.landing.getD (s.core c k).disp.nextId
    let a : Issuer := { c := c, k := k, q := p.queue, id := id, pid := pidField (s.corePid c k), upset := u, direct := true }
    let s := (s.strike u).modCore c k fun y => { y with trapAddr := 0 }
    let lines := p.tileLines tile
    let land : VM Bool := do
      if p.landing.isNone then
        writeLines a p.noun.path lines
        change fun s => s.modCore c k fun y =>
          { y.modPort n fun p => { p with landing := some id } with disp := { y.disp with nextId := id + 1 } }
      tileLanded a p.noun.path
    match land.run s with
    | (.ok true, s) => (true, (s.modCore c k fun y => y.modPort n fun p =>
        { p with fill := (p.fill + 1) % p.slots, arrived := p.arrived + 1, landing := none }).ackTile source)
    | (.ok false, s) => (false, s)
    | (.error .wait, s) => (false, s)
    | (.error (.fault st), s) =>
      let x := s.core c k
      let s := ((tileScramble a p.noun.path lines).run s).2
      let s := s.modCore c k fun y => { y.modPort n fun p => { p with landing := none } with stat := x.stat }
      let (w, s) := s.drawBelow 4096
      let (b, s) := s.drawBelow 2
      (true, (s.ackTile source).queueFault c k p.queue w b x.trapAddr st)

/-- A descriptor or a vector arrives at a bank-side unit. -/
def State.unitTile (s : State) (n ch p source : Nat) (tile : List Byte) : State :=
  if p = 0 then
    if (s.chan n ch).intakeBound.contains source && tile.length == 128 then
      (s.modChan n ch fun c => { c with intake := c.intake ++ [(source, tile)] }).ackTile source
    else s.mismatch source
  else
    let port := (s.chan n ch).ports.look {} p
    let owner := s.seqs.find? fun (_, q) => q.phase == .reading && q.leadChan == 32 * n + ch && q.desc.xstream
    match owner with
    | some (id, _) =>
      if port.consumer && port.peer == source && tile.length == port.tileBytes then
        (s.modSeq id fun q => { q with xvec := q.xvec.put (p - 1) tile }).ackTile source
      else s.mismatch source
    | none => s.mismatch source

/-- A result tile arrives at a port of the serving controller: 128 bytes from the port's serving core, naming a group in a
step there (R299). Its credit goes back. -/
def State.resultTile (s : State) (p source : Nat) (tile : List Byte) : State :=
  let port := s.srv.ports.look {} p
  let same := bits port.peer 6 10 == bits source 6 10
  if !same || tile.length != 128 then s.mismatch source
  else
    let g := leAt tile 0 4
    let s := (s.ackTile source).sendCredit (pidField (s.stationPid source 0)) (0xC000 + p) source
    match s.srv.groups.seek g with
    | some x =>
      if x.port = p then
        { s with srv := { s.srv with groups := s.srv.groups.put g { x with result := some (leAt tile 4 1) },
                                     table := s.srv.table.map fun (i, r) =>
                                       (i, if r.group == some g && r.state == .decode && leAt tile 4 1 = Code.ok
                                           then { r with state := .verify } else r) } }
      else s
    | none => s

/-- A consumer bound to a flow of the Xomon link, with a slot free: the next tile comes from companion memory, its bytes free values
(R65, R80; log entry 25). -/
def State.xomonArrival (s : State) (consumer : Nat) : State :=
  let p := (s.stationPort consumer).getD {}
  let room := match station consumer with
    | .core _ _ _ => decide (p.arrived < p.slots)
    | .unit n ch i => s.seqs.any fun (_, q) => q.phase == .reading && q.leadChan == 32 * n + ch && !(q.xvec.any (·.1 == i - 1))
    | _ => false
  match station p.peer with
  | .xomon _ =>
    if p.consumer && s.linkUp && room && !(s.tileTo consumer) then
      let (b, s) := s.drawBytes p.tileBytes
      { s with transit := s.transit ++ [.tile p.peer consumer b] }
    else s
  | _ => s

/-- TILE_ARRIVAL: the next tile on its way to a consumer port has arrived whole. -/
def State.tileArrival (s : State) (consumer : Nat) (u : Upset) : State :=
  let s := s.xomonArrival consumer
  match takeTile consumer s.transit with
  | none => s
  | some ((source, tile), rest) =>
    let t := { s with transit := rest }
    match station consumer with
    | .core c k n =>
      let (landed, t) := t.coreTile c k n source tile u
      if landed then t else { t with transit := s.transit }
    | .unit n ch p => t.unitTile n ch p source tile
    | .serving p => t.resultTile p source tile
    | _ => t.mismatch source

/-- TILE_ARRIVAL -/
def execTileArrival (consumer : Nat) (u : Upset) (s : State) : Host.Outcome State Fault Refusal :=
  .next (s.tileArrival consumer u)

/-! ### Credits -/

/-- The first credit on its way to a station, with the consumer that granted it. -/
def takeCredit (target : Nat) : List Transit → Option (Nat × List Transit)
  | [] => none
  | .credit x y :: r => if y = target then some (x, r) else (takeCredit target r).map fun (a, r) => (a, .credit x y :: r)
  | t :: r => (takeCredit target r).map fun (a, r) => (a, t :: r)

/-- The first revocation on its way to a station, with the consumer that sent it; the credits of that consumer on their way there
before it are revoked with those the port holds (R79, R82). -/
def takeRevoke (target : Nat) : List Transit → Option (Nat × List Transit)
  | [] => none
  | .revoke x y :: r => if y = target then some (x, r) else (takeRevoke target r).map fun (a, r) => (a, .revoke x y :: r)
  | .credit x y :: r => (takeRevoke target r).map fun (a, r) => (a, if y = target && x = a then r else .credit x y :: r)
  | t :: r => (takeRevoke target r).map fun (a, r) => (a, t :: r)

/-- A credit reaches a producer port: held at an unbound one, taken up by one bound to its consumer, dropped by one bound to
another. A port of the serving controller pairs with the first core that grants it one (R79, R299). -/
def State.grantCredit (s : State) (producer source : Nat) : State :=
  let more (p : Port) : Port := { p with credits := p.credits.upd 0 source (· + 1) }
  match station producer with
  | .serving _ => s.modStationPort producer fun p =>
      if !p.producer then more { p with producer := true, peer := source } else if p.peer = source then more p else p
  | _ => s.modStationPort producer fun p => if !p.producer || p.peer = source then more p else p

/-- CREDIT_ARRIVAL -/
def execCreditArrival (producer : Nat) (s : State) : Host.Outcome State Fault Refusal :=
  .next <|
    match takeCredit producer s.transit with
    | none => s
    | some (source, rest) => State.grantCredit { s with transit := rest } producer source

/-- A revocation reaches a producer port: the consumer's credits are gone, the consumer hears so, and a tile that waited for
one faults its sender with STATION_OFFLINE (R82). -/
def State.revokeCredits (s : State) (producer source : Nat) : State :=
  let p := (s.stationPort producer).getD {}
  let s := s.modStationPort producer fun p => { p with credits := p.credits.filter (·.1 != source) }
  let s := s.modStationPort source fun q => { q with revoking := false }
  match station producer with
  | .serving _ => s.modStationPort producer fun p => if p.peer = source then {} else p
  | _ =>
    match p.staged with
    | (owner, _) :: rest =>
      if p.producer && p.peer == source then
        (s.modStationPort producer fun p => { p with staged := rest }).producerFault producer owner Code.stationOffline
      else s
    | [] => s

/-- CREDIT_REVOKE -/
def execCreditRevoke (producer : Nat) (s : State) : Host.Outcome State Fault Refusal :=
  .next <|
    match takeRevoke producer s.transit with
    | none => s
    | some (source, rest) => State.revokeCredits { s with transit := rest } producer source

end Sys2Proof.Machine
end

