-- ==== Sys2Proof/Machine/Stacks.lean ====
section
/-!
DEFINITION. The memory stacks' own happenings: reads and writes at base dies, write combining, mapping out and return,
refresh, stack temperature, the traffic generator and checker, and the training of a stack port (R192 to R215, R234,
R235, R249).
-/

namespace Sys2Proof.Machine

/-- The management-window offset of a register of a stack's block (R214). -/
def stackOffset (n off : Nat) : Nat := 0x400000 + n * 0x20000 + off

/-- A write to a register of a stack that reaches nothing: an absent stack (R214), or no image yet (R31). -/
def State.stackRefused (s : State) (n off : Nat) : Option State :=
  if !(s.stackPresent n) then some (s.recordAccess Code.badAccess (stackOffset n off))
  else if s.gram.image.isNone then some (s.recordAccess Code.noImage (stackOffset n off))
  else none

/-- STK_STATE.LAST_CMD_STATUS. -/
def State.stackStatus (s : State) (n : Nat) (st : Status) : State := s.modStack n fun x => { x with lastCmd := st }

/-! ### Reads and writes at a base die -/

/-- The lines bytes from an address up fall on, each with the bytes that lie on it and their mask. -/
def lineParts (pa : Nat) (b : List Byte) : List (Nat × List Byte × Nat) :=
  if b.isEmpty then []
  else (List.range ((pa + b.length - 1) / 64 - pa / 64 + 1)).map fun i =>
    let line := pa / 64 + i
    let from_ := max pa (64 * line)
    let to_ := min (pa + b.length) (64 * line + 64)
    (line, List.replicate (from_ - 64 * line) 0 ++ slice b (from_ - pa) (to_ - from_) ++ List.replicate (64 * line + 64 - to_) 0,
      (2 ^ (to_ - from_) - 1) * 2 ^ (from_ - 64 * line))

/-- A party writes bytes at a base die, line by line (R185, R203, R207, R342). -/
def State.submitBytes (s : State) (w : Writer) (pa : Nat) (b : List Byte) (tag : Nat) : State :=
  (lineParts pa b).foldl (fun s (line, x, m) =>
    s.submit { writer := w, line := line, bytes := x, mask := m, tag := tag }) s

/-- BASE_DIE_WRITE -/
def execBaseDieWrite (w : Writer) (pa : Nat) (b : List Byte) (s : State) : Host.Outcome State Fault Refusal :=
  .next (s.submitBytes w pa b 0)

/-- WCB_EVICT_TIMEOUT -/
def execWcbEvictTimeout (n ch line : Nat) (u : Upset) (s : State) : Host.Outcome State Fault Refusal :=
  .next <|
    match (s.chan n ch).wcb.find? (·.line == line) with
    | none => s
    | some e => (s.strike u).evictEntry n ch e

/-- READER codes of R267. -/
def readerCode : Reader → Nat
  | .port _ => 0
  | .unit => 1
  | .patrol => 2
  | .rangeScrub => 3
  | .eviction => 4
  | .refetch => 5
  | .checker => 6

/-- The station of a reader at the base die of stack n (R252). -/
def readerStation (n ch : Nat) : Reader → Nat
  | .port x => x
  | .unit => unitStation n ch
  | .eviction => unitStation n ch
  | .refetch => Obs.ofMgmt.source
  | _ => (Obs.ofStack n).source

/-- A read of the line of an address at its base die. Over the stack port its codeword's transfer fails so many times in a row (R249);
a checker reads the cells of a channel under test (R213, R254). -/
def State.baseDieRead (s : State) (r : Reader) (pa : Nat) (u : Upset) (failures : Nat) : State :=
  let line := pa / 64
  let s := s.strike u
  match s.cellAt pa with
  | none => (s.readLine 0 (readerCode r) line).2
  | some (g, _) =>
    let src := readerStation (g / 32) (g % 32) r
    match r with
    | .port _ =>
      let s := if failures = 0 then s else { s with transfers := s.transfers.put line failures }
      (s.readLine src 0 line).2
    | .checker => if (s.gchan g).state = .testing then (s.readCells (g / 32) (g % 32) line src 6).2 else s
    | _ => (s.readLine src (readerCode r) line).2

/-- BASE_DIE_READ -/
def execBaseDieRead (r : Reader) (pa : Nat) (u : Upset) (failures : Nat) (s : State) : Host.Outcome State Fault Refusal :=
  .next (s.baseDieRead r pa u failures)

/-- CACHE_EVICTION: the cache of a cluster gives up a line, its dirty bytes written back (R168, R174, R255). -/
def execCacheEviction (c line : Nat) (s : State) : Host.Outcome State Fault Refusal :=
  .next (s.writeBackLine c line (.cache c) 0 true)

/-- STACK_PORT_WAKE: the port domain is on, self-refresh is left, and what waited proceeds in order (R192). -/
def State.wakeStack (s : State) (n : Nat) : State :=
  let x := s.stack n
  if x.asleep && x.trained && bit s.pwr.domOn (32 + n) then
    x.wakeQueue.foldl (fun s op => s.submit op)
      (s.modStack n fun x => { x with asleep := false, wakeWaits := false, wakeQueue := [],
                                      state := .inService })
  else s

/-- STACK_PORT_WAKE -/
def execStackPortWake (n : Nat) (s : State) : Host.Outcome State Fault Refusal := .next (s.wakeStack n)

/-! ### Mapping out and return (R204 to R206) -/

/-- STK_CHCMD names an absent channel (R206). -/
def State.badChannel (s : State) (n : Nat) : State :=
  (s.stackStatus n Code.badValue).recordAccess Code.badValue (stackOffset n 0x1C)

/-- The capability descriptor of a stack marks a channel absent (R195). -/
def Stack.descAbsent (x : Stack) (ch : Nat) : Bool := !x.descriptor.isEmpty && !bit (leAt x.descriptor 4 4) ch

/-- A MAPOUT command. -/
def State.channelMapout (s : State) (n ch : Nat) : State :=
  if !(s.chanPresent n ch) then s.badChannel n
  else
    let s := s.stackStatus n Code.ok
    if (s.chan n ch).state = .out || (s.chan n ch).state = .testing then s else s.mapOut n ch 5

/-- CHANNEL_MAPOUT -/
def execChannelMapout (n ch : Nat) (s : State) : Host.Outcome State Fault Refusal :=
  .next ((s.stackRefused n 0x1C).getD (s.channelMapout n ch))

/-- The lowest 2 GiB slot above the interleaved region that no appended region has taken since the last full load. -/
def State.freeSlot (s : State) : Nat :=
  let taken := s.appended.map (·.1)
  let first := s.interleaveTop / chanBytes
  (((List.range (taken.length + 1)).map (· + first)).find? fun k => !taken.contains k).getD first

/-- The data of line j under a checker pattern (R212). The manual leaves open how PRBS31 is tapped and which row a line lies in (log
entry 32). -/
def patternLine (pattern seed j : Nat) : List Byte :=
  match pattern with
  | 0 => leBytes 64 (Config.prbs31 (Nat.xor seed j))
  | 1 => (List.replicate 16 (leBytes 4 (if j % 2 = 1 then 2 ^ 32 - 1 - j else j))).flatten
  | 2 => (List.replicate 8 (leBytes 8 (if j % 128 < 64 then 2 ^ (j % 64) else 2 ^ 64 - 1 - 2 ^ (j % 64)))).flatten
  | _ => List.replicate 64 (if Config.channelRow j % 2 = 0 then 0x55#8 else 0xAA#8)

/-- What checker runs have left in a channel's cells stands at the addresses of the slot the channel now serves. -/
def State.showPatterns (s : State) (slot : Nat) (left : List (Nat × Nat × Nat × Nat)) : State :=
  left.foldl (fun s (lo, hi, pattern, seed) =>
    (List.range (hi - lo)).foldl (fun s i => s.writeCells (slot * (chanBytes / 64) + lo + i) (patternLine pattern seed (lo + i))) s) s

/-- A RETURN command. -/
def State.channelReturn (s : State) (n ch : Nat) : State :=
  let c := s.chan n ch
  if !(s.chanPresent n ch) then s.badChannel n
  else if c.state != .out then s.stackStatus n Code.channelInService
  else if (s.stack n).state == .failed || (s.stack n).descAbsent ch || !(c.mark0 && c.mark1) then
    s.stackStatus n Code.tgMismatch
  else
    let k := c.served.getD s.freeSlot
    let s := { s with flash := { s.flash with mapouts := s.flash.mapouts.drop (32 * n + ch) } }
    let s := s.modChan n ch fun c => { c with state := .appended, slot := k, served := some k, reason := 0, ue := 0, left := [] }
    (s.showPatterns k c.left).stackStatus n Code.ok

/-- CHANNEL_RETURN -/
def execChannelReturn (n ch : Nat) (s : State) : Host.Outcome State Fault Refusal :=
  .next ((s.stackRefused n 0x1C).getD (s.channelReturn n ch))

/-! ### Refresh (R208, R209, R237) -/

/-- A refresh falls due: issued on an idle channel, which also repays one owed, and postponed on a busy one while fewer
than eight are owed. -/
def State.refreshDue (s : State) (n ch : Nat) (busy : Bool) : State :=
  if !(s.chanPresent n ch) || (s.stack n).asleep then s
  else
    s.modChan n ch fun c =>
      if !busy then { c with owed := c.owed - 1 } else if c.owed < 8 then { c with owed := c.owed + 1 } else c

/-- REFRESH_DUE -/
def execRefreshDue (n ch : Nat) (busy : Bool) (s : State) : Host.Outcome State Fault Refusal :=
  .next (s.refreshDue n ch busy)

/-! ### Stack temperature (R210, R211, R235) -/

/-- TREF2 and TMAX of a stack's descriptor, in °C; 85 and no limit before one is read. -/
def Stack.tref2 (x : Stack) : Nat := if x.descriptor.isEmpty then 85 else leAt x.descriptor 0x1D 1
def Stack.tmax (x : Stack) : Option Nat := if x.descriptor.isEmpty then none else some (leAt x.descriptor 0x1C 1)

/-- A takes a new value; each time it first falls below 16, STACK_HOT (R211). -/
def State.setAdmit (s : State) (n a : Nat) : State :=
  let before := (s.stack n).admitMax
  let s := s.modStack n fun x => { x with admitMax := a }
  if before = 16 && a < 16 then
    (s.modStack n fun x => { x with hot := true }).event Cls.stk Code.stackHot (Obs.ofStack n) 0xFF n 0
  else s

/-- B_THERM takes a new value; each time it first falls below 16, SEQ_HOT (R235). -/
def State.setBTherm (s : State) (n b : Nat) : State :=
  let before := (s.stack n).bTherm
  let s := s.modStack n fun x => { x with bTherm := b }
  if before = 16 && b < 16 then s.event Cls.bsu Code.seqHot (Obs.ofStack n) 0xFF n 0 else s

/-- A sequence reads on a stack: a unit there has lines of it left, and its vectors are here (R229, R231). -/
def State.readsOn (s : State) (n : Nat) : Bool :=
  s.seqs.any fun (_, q) => q.phase == .reading && q.vectorsHere
    && q.work.any fun (g, items) => g / 32 == n && !items.isEmpty && !q.stopped.contains g

/-- A sample of a base die's sensor, in 0.25 °C. -/
def State.stackSample (s : State) (n : Nat) (t : Int) : State :=
  if !(s.stackPresent n) then s
  else if t < -80 || 600 < t then s.modStack n fun x => { x with sensorFail := true, samples := [], riseSamples := [] }
  else
    let x := s.stack n
    let rises := (t :: x.riseSamples).take 10
    let fall := s.readsOn n && (match rises[9]? with
      | some old => decide (t - old ≥ 8)
      | none => false)
    let limit : Int := 4 * (x.tref2 : Int)
    let s := s.modStack n fun x =>
      { x with temp := unsigned 12 t, sensorFail := false, samples := (t :: x.samples).take 10,
               riseSamples := if fall then [] else rises,
               refresh2 := if t > limit then true else if t < limit - 4 then false else x.refresh2 }
    let s := if fall then s.setBTherm n (max 8 ((s.stack n).bTherm - 2)) else s
    match x.tmax with
    | some m =>
      let was := !x.sensorFail && decide (signed 12 x.temp ≥ 4 * (m : Int))
      if t < 4 * (m : Int) then s
      else if was then s.setAdmit n 2
      else { s with thm := { s.thm with t := min 31 (s.thm.t + 4) } }.setAdmit n 2
    | none => s

/-- STACK_TEMP_SAMPLE -/
def execStackTempSample (n : Nat) (t : Int) (s : State) : Host.Outcome State Fault Refusal := .next (s.stackSample n t)

/-- STACK_SENSOR_TIMEOUT: no sample for 1 ms (R210). -/
def execStackSensorTimeout (n : Nat) (s : State) : Host.Outcome State Fault Refusal :=
  .next (if s.stackPresent n then
    s.modStack n fun x => { x with sensorFail := true, samples := [], riseSamples := [] }
  else s)

/-- Every sample of the millisecond was at or above a threshold in °C; a failed sensor counts as above. -/
def Stack.allAbove (x : Stack) (c : Nat) : Bool :=
  x.sensorFail || (!x.samples.isEmpty && x.samples.all fun t => decide (4 * (c : Int) ≤ t))

/-- Every sample of the millisecond was 3 °C or more below a threshold. -/
def Stack.allBelow (x : Stack) (c : Nat) : Bool :=
  !x.sensorFail && !x.samples.isEmpty && x.samples.all fun t => decide (t ≤ 4 * (c : Int) - 12)

/-- STACK_ADMIT_UPDATE: the millisecond's change of A (R211). -/
def execStackAdmitUpdate (n : Nat) (s : State) : Host.Outcome State Fault Refusal :=
  let x := s.stack n
  .next (if !(s.stackPresent n) then s
    else if x.allAbove x.throttle then s.setAdmit n (max 2 (x.admitMax - 1))
    else if x.allBelow x.throttle then s.setAdmit n (min 16 (x.admitMax + 1))
    else s)

/-- BSU_SHARE_UPDATE: the millisecond's change of B_THERM (R235). -/
def execBsuShareUpdate (n : Nat) (s : State) : Host.Outcome State Fault Refusal :=
  let x := s.stack n
  .next (if !(s.stackPresent n) then s
    else if x.allAbove x.early then s.setBTherm n (max 8 (x.bTherm - 1))
    else if x.allBelow x.early then s.setBTherm n (min 16 (x.bTherm + 1))
    else s)

/-! ### Traffic generator and checker (R212 to R215) -/

/-- The state with a stack's checker changed. -/
def State.modTg (s : State) (n : Nat) (f : Checker → Checker) : State := s.modStack n fun x => { x with tg := f x.tg }

/-- A START or a RETURN refused: TG_STAT and LAST_CMD_STATUS hold the status. -/
def State.tgRefuse (s : State) (n : Nat) (st : Status) : State :=
  (s.modTg n fun t => { t with status := st }).stackStatus n st

/-- A run begins on the channels of a mask, which read TESTING while it lasts. -/
def State.tgBegin (s : State) (n mask lo hi pattern : Nat) (both bringup : Bool) : State :=
  let s := s.modTg n fun t =>
    { t with state := 1, run := some (mask, lo, hi, pattern, both), stopped := false, bringup := bringup }
  (bitsSet 32 mask).foldl (fun s ch => s.modChan n ch fun c => { c with state := .testing }) s

/-- TG_CMD START. -/
def State.tgStart (s : State) (n : Nat) : State :=
  let x := s.stack n
  let t := x.tg
  let chans := bitsSet 32 t.mask
  if (t.both || t.pattern == 0) && t.seed == 0 then
    (s.stackStatus n Code.badValue).recordAccess Code.badValue (stackOffset n 0x418)
  else if t.run.isSome || chans.any fun ch => (s.chan n ch).state != .out then s.tgRefuse n Code.channelInService
  else if x.state == .failed || chans.any x.descAbsent then s.tgRefuse n Code.tgMismatch
  else (s.tgBegin n t.mask t.lo t.hi t.pattern t.both false).stackStatus n Code.ok

/-- TG_START -/
def execTgStart (n : Nat) (s : State) : Host.Outcome State Fault Refusal :=
  .next ((s.stackRefused n 0x418).getD (s.tgStart n))

/-- TG_STOP: the run ends at the next line (R215). -/
def execTgStop (n : Nat) (s : State) : Host.Outcome State Fault Refusal :=
  .next ((s.stackRefused n 0x418).getD
    ((s.modTg n fun t => { t with stopped := t.stopped || t.run.isSome }).stackStatus n Code.ok))

/-- The lines from `lo` up to `hi` of some channels of a stack lose what they held (R213); what bring-up's own run leaves there is not
known, since the manual gives it no seed (log entry 9). -/
def State.wipe (s : State) (n : Nat) (chans : List Nat) (lo hi : Nat) : State :=
  let hit (pa : Nat) : Bool :=
    match s.cellAt pa with
    | some (g, off) => g / 32 == n && chans.contains (g % 32) && decide (64 * lo ≤ off) && decide (off < 64 * hi)
    | none => false
  { s with mem := s.mem.filter fun x => !hit x.1, poison := s.poison.filter fun l => !hit (64 * l),
           upsets := s.upsets.filter fun x => !hit (64 * x.1) }

/-- Some bytes of the codeword are wrong by these, in a line that reads back. -/
def State.lineWrong (s : State) (n ch : Nat) (d : Deviation) : Decoded :=
  let erase := (s.chan n ch).erase
  if d.isEmpty then .clean [] else decodeWord (if erase = 31 then none else some erase) d

/-- A line a checker reads back with wrong symbols: whether it counts as failing (R212), and the read counted and logged as any other,
with READER 6 (R253, R254). The log names its address; where the channel serves none, that is a free value (log entry 32). -/
def State.tgRead (s : State) (n ch j : Nat) (d : Deviation) : Bool × State :=
  let (line, s) := match s.addressOf (32 * n + ch) (64 * j) with
    | some pa => (pa / 64, s)
    | none => s.drawBelow (2 ^ 34)
  match s.lineWrong n ch d with
  | .clean off => (!off.isEmpty, s)
  | .corrected off symbols =>
    let outside := symbols.any fun x => x / 4 != (s.chan n ch).erase
    (decide (1 < symbols.length) || !off.isEmpty,
      if outside then (s.countCe n ch).logRead n ch line 1 6 symbols false
      else s.modChan n ch fun c => { c with erased := min (c.erased + 1) 0xFFFFFFFF })
  | .poisoned => (true, s.logRead n ch line 3 6 [] true)
  | .uncorrectable =>
    let s := (s.logRead n ch line 3 6 [] false).modChan n ch fun c => { c with ue := min (c.ue + 1) 0xFFFF }
    (true, s.event Cls.stk Code.ueData ⟨(Obs.ofStack n).source, islandField 4 n⟩ 0xFF ch (64 * line))

/-- The lines of a channel that read back wrong in a run over a range: those the command names, and those whose cells hold fixed bits
that the pattern's data disagree with (R250). -/
def State.tgFound (s : State) (n ch lo hi pattern seed : Nat) (found : List (Nat × Nat × List (Nat × Nat))) : Tbl Deviation :=
  let inside (j : Nat) : Bool := decide (lo ≤ j) && decide (j < hi)
  let named := (found.filter fun x => x.1 == ch && inside x.2.1).foldl (fun (t : Tbl Deviation) x => t.put x.2.1 x.2.2) []
  s.stuck.foldl (fun t (line, _) =>
    match s.cellAt (64 * line) with
    | some (g, off) =>
      let j := off / 64
      if g != 32 * n + ch || !(inside j) || (t.seek j).isSome then t
      else match (s.writeCells line (patternLine pattern seed j)).upsets.seek line with
        | some d => t.put j d
        | none => t
    | none => t) named

/-- The lines read back: how many failed, the first of them, and the state. -/
def State.tgJudge (s : State) (n ch : Nat) : Tbl Deviation → Nat × Nat × State
  | [] => (0, 0, s)
  | (j, d) :: rest =>
    let (bad, s) := s.tgRead n ch j d
    let (k, first, s) := s.tgJudge n ch rest
    if bad then (k + 1, if k = 0 then j else min j first, s) else (k, first, s)

/-- One channel's part of a run's end: counts, coverage marks, and its state again (R215). A channel that shows a failing line at
bring-up is mapped out with reason CHECKER, those recorded before among them (R213). -/
def State.tgChannel (s : State) (n ch fails first : Nat) (whole : Bool) (pattern : Nat) (both bringup : Bool)
    (left : List (Nat × Nat × Nat × Nat)) : State :=
  let s := s.modChan n ch fun c =>
    { c with fails := fails % 2 ^ 32, first := first % 2 ^ 25, state := .out,
             left := if bringup then [] else c.left ++ left,
             mark1 := if fails > 0 then false else c.mark1 || (whole && (both || pattern == 1)),
             mark0 := if fails > 0 then false else c.mark0 || (whole && (both || pattern == 0)) }
  if !bringup then s
  else if fails > 0 then s.mapOut n ch 3
  else if (s.flash.mapouts.seek (32 * n + ch)).isNone then s.modChan n ch fun c => { c with state := .inService, reason := 0 }
  else s

/-- What a run leaves in its range: its pattern's data, PATTERN 0's last with BOTH. Where a run was stopped is a free value. -/
def State.tgLeaves (s : State) (lo hi pattern seed : Nat) (both stopped : Bool) : List (Nat × Nat × Nat × Nat) × State :=
  let (cut, s) := if stopped then s.drawBelow (hi - lo + 1) else (hi - lo, s)
  let (second, s) := if stopped then s.drawBelow 2 else (1, s)
  (if !both then [(lo, lo + cut, pattern, seed)]
   else if second = 1 then [(lo, hi, 1, seed), (lo, lo + cut, 0, seed)] else [(lo, lo + cut, 1, seed)], s)

/-- The channels of a run judged and put back out, one after another; whether any had a failing line. -/
def State.tgChannels (n lo hi pattern : Nat) (both whole : Bool) (t : Checker) (found : List (Nat × Nat × List (Nat × Nat)))
    (left : List (Nat × Nat × Nat × Nat)) : List Nat → State → Bool × State
  | [], s => (false, s)
  | ch :: rest, s =>
    let (k, first, s) := s.tgJudge n ch (s.tgFound n ch lo hi (if both then 0 else pattern) t.seed found)
    let s := s.tgChannel n ch k first whole pattern both t.bringup left
    let (bad, s) := State.tgChannels n lo hi pattern both whole t found left rest s
    (bad || decide (0 < k), s)

/-- A run ends. -/
def State.tgEnd (s : State) (n : Nat) (found : List (Nat × Nat × List (Nat × Nat))) : State :=
  let t := (s.stack n).tg
  match t.run with
  | none => s
  | some (mask, lo, hi, pattern, both) =>
    let chans := bitsSet 32 mask
    let whole := decide (lo = 0) && decide (hi = 0x2000000) && !t.stopped
    let s := s.wipe n chans lo hi
    let (left, s) := s.tgLeaves lo hi pattern t.seed both t.stopped
    let (bad, s) := State.tgChannels n lo hi pattern both whole t found left chans s
    let st := if bad then Code.tgMismatch else Code.ok
    let s := s.modTg n fun t => { t with state := 2, status := st, run := none, stopped := false, bringup := false }
    s.event Cls.stk st (Obs.ofStack n) 0xFF n 0

/-! ### Bring-up in groups (R196) -/

/-- The port domains of some stacks are on and their training begins (steps 1 to 3 of R196). -/
def State.beginBringup (s : State) (ns : List Nat) : State :=
  ns.foldl (fun s n =>
    ({ s with pwr := { s.pwr with domOn := putBit s.pwr.domOn (32 + n) true } }.restartCounts (32 + n)).modStack n fun x =>
      { x with state := .training, tries := 0, descFailed := false }) s

/-- A stack of a bring-up has still to train or to finish its checkers. -/
def Stack.busy (x : Stack) : Bool := x.state == .training && (!x.trained || x.tg.run.isSome)

/-- The second group of a bring-up begins once the first has finished. -/
def State.nextGroup (s : State) : State :=
  if s.gram.groupWait.isEmpty || s.stk.any fun x => x.2.busy then s
  else { s with gram := { s.gram with groupWait := [] } }.beginBringup s.gram.groupWait

/-- TG_RUN_END -/
def execTgRunEnd (n : Nat) (found : List (Nat × Nat × List (Nat × Nat))) (s : State) : Host.Outcome State Fault Refusal :=
  .next (s.tgEnd n found).nextGroup

/-! ### Training (R193 to R195) -/

/-- The ERASE field of a descriptor for a channel. -/
def descErase (d : List Byte) (ch : Nat) : Nat := bits (leAt d 8 20) (5 * ch) 5

/-- A capability descriptor is whole: VERSION, CHECK, and no reserved value (R9, R193). -/
def descriptorGood (d : List Byte) : Bool :=
  d.length == 64 && leAt d 0 2 == 1 && leAt d 0x3C 4 == crc32 (d.take 0x3C) && decide (leAt d 2 1 ≤ 2)
    && leAt d 0x1E 2 == 0 && leAt d 0x30 12 == 0
    && (List.range 32).all fun ch => decide (descErase d ch ≤ 17) || descErase d ch == 31

/-- A stack fails its descriptor or its training: every present channel is mapped out with reason TRAINING (R194). -/
def State.failStack (s : State) (n : Nat) : State :=
  let s := s.modStack n fun x => { x with state := .failed }
  let s := ((List.range 32).filter (s.chanPresent n)).foldl (fun s ch => s.mapOut n ch 1) s
  s.event Cls.stk Code.stackTrain (Obs.ofStack n) 0xFF n 0

/-- The failed lanes of a channel's pseudo-channel. -/
def lanesFailed (lanes : List (Nat × Nat × Nat)) (ch pc : Nat) : Nat :=
  (lanes.filter fun (c, p, _) => c == ch && p == pc).eraseDups.length

/-- A stack keeps its rate: spares in use, channels that cannot be repaired or that the descriptor marks absent mapped out,
erasure positions, self-refresh left, and the checker's bring-up run (R194 to R196, R213, R256). -/
def State.keepRate (s : State) (n rate : Nat) (d : List Byte) (lanes : List (Nat × Nat × Nat)) (bad : List Nat) : State :=
  let chans := (List.range 32).filter (s.chanPresent n)
  let s := s.modStack n fun x => { x with rate := rate, trained := true, asleep := false, descriptor := d, admitMax := 16 }
  let s := chans.foldl (fun s ch => s.modChan n ch fun c =>
    { c with spares := min 2 (lanesFailed lanes ch 0 + lanesFailed lanes ch 1),
             erase := s.flash.erasures.look (descErase d ch) (32 * n + ch),
             reason := s.flash.mapouts.look 0 (32 * n + ch),
             state := if (s.flash.mapouts.seek (32 * n + ch)).isSome then .out else .inService }) s
  let s := bad.foldl (fun s ch => s.mapOut n ch 1) s
  let absent := chans.filter (s.stack n).descAbsent
  let s := absent.foldl (fun s ch => s.mapOut n ch 2) s
  s.tgBegin n (((chans.filter fun ch => !absent.contains ch).map (2 ^ ·)).foldl (· + ·) 0) 0 0x2000000 1 true true

/-- A stack port has read its descriptor and trained its lanes at a rate. `lanes` lists the failed lanes: channel,
pseudo-channel, lane. -/
def State.trainDone (s : State) (n : Nat) (d : List Byte) (lanes : List (Nat × Nat × Nat)) : State :=
  let x := s.stack n
  if !(s.stackPresent n) || !x.initialised || x.state != .training || x.trained || s.gram.state != .apply then s
  else if !(descriptorGood d) then
    if x.descFailed then s.failStack n else s.modStack n fun x => { x with descFailed := true }
  else
    let rate := max (leAt d 2 1) x.rateCap + x.tries
    let bad := (List.range 32).filter fun ch =>
      let a := lanesFailed lanes ch 0
      let b := lanesFailed lanes ch 1
      s.chanPresent n ch && (decide (2 ≤ a) || decide (2 ≤ b) || decide (2 < a + b))
    if bad.length ≤ 4 then s.keepRate n rate d lanes bad
    else if rate < 2 then s.modStack n fun x => { x with tries := x.tries + 1, descriptor := d }
    else (s.modStack n fun x => { x with descriptor := d }).failStack n

/-- STACK_TRAIN_DONE -/
def execStackTrainDone (n : Nat) (d : List Byte) (lanes : List (Nat × Nat × Nat)) (s : State) :
    Host.Outcome State Fault Refusal := .next (s.trainDone n d lanes).nextGroup

end Sys2Proof.Machine
end

