-- ==== Sys2Proof/Machine/Integrity.lean ====
section
/-!
DEFINITION. Stored-data integrity outside the readers themselves: refetch of damaged shared weights, patrol, range scrub,
and the clearing and setting registers of the INT block (R232, R256 to R261, R267).
-/

namespace Sys2Proof.Machine

/-! ### Waiting for stacks -/

/-- The stacks that hold some lines and are asleep. -/
def State.asleepAmong (s : State) (lines : List Nat) : List Nat :=
  lines.foldl (fun acc l =>
    match s.locate (64 * l) with
    | .cell g _ => if (s.stack (g / 32)).asleep then insertLine (g / 32) acc else acc
    | .absent _ => acc) []

/-- An access waits for some stacks (R192). -/
def State.awaitStacks (s : State) (ns : List Nat) : State :=
  ns.foldl (fun s n => s.modStack n fun x => { x with wakeWaits := true }) s

/-! ### Refetch (R257, R258) -/

/-- The lines of a 64 KiB block. -/
def blockLines (block : Nat) : List Nat := (List.range 1024).map (1024 * block + ·)

/-- A block's refetch fails: the event, and the entry stays DAMAGED. -/
def State.refetchFailed (s : State) (e block : Nat) : State :=
  (s.modMc e fun x => { x with failed := x.failed ++ [block] }).event Cls.stk Code.refetchFailed Obs.ofMgmt 0xFF e
    (block * 0x10000)

/-- A block's refetch has succeeded: the entry is RESIDENT once no damage is left. -/
def State.refetchOk (s : State) (e block : Nat) : State :=
  let s := s.modMc e fun x => { x with damaged := x.damaged.filter (· != block) }
  let x := s.mcEntry e
  if x.damaged.isEmpty && !x.lost then
    (s.modMc e fun x => { x with state := .resident }).event Cls.stk Code.ok Obs.ofMgmt 0xFF e 0
  else s

/-- The lines of a block are read back; a line without data fails the refetch. -/
def State.readBack (s : State) (lines : List Nat) : Bool × State :=
  lines.foldl (fun (ok, s) l =>
    match s.readLine Obs.ofMgmt.source 5 l with
    | (.data _, s) => (ok, s)
    | (_, s) => (false, s)) (true, s)

/-- The next damaged block of an entry is written whole from the model's source and read back. A claim on the block holds
the writes, and the refetch ends after the claim. -/
def State.refetch1 (s : State) (e : Nat) (data : Option (List Byte)) (u : Upset) : State :=
  let x := s.mcEntry e
  match x.damaged.find? fun b => !x.failed.contains b with
  | none => s
  | some block =>
    let lines := blockLines block
    let sleepers := s.asleepAmong lines
    if !s.refetch || x.state != .damaged then s
    else if lines.any fun l => match s.locate (64 * l) with
        | .absent _ => true
        | .cell _ _ => false then s.refetchFailed e block
    else
      match if x.srcKind = 0 && !s.linkUp then none else data with
      | none => s.refetchFailed e block
      | some b =>
        if !sleepers.isEmpty then s.awaitStacks sleepers
        else
          let held := s.stk.any fun (_, y) => (y.held ++ y.heldWaiting).any fun h => h.2.writer == .device && h.2.line / 1024 == block
          match s.claimant .device block with
          | some _ => if held then s else s.submitBytes .device (block * 0x10000) (slice b 0 0x10000) 0
          | none =>
            let s := s.submitBytes .device (block * 0x10000) (slice b 0 0x10000) 0
            match (s.strike u).readBack lines with
            | (true, s) => s.refetchOk e block
            | (false, s) => s.refetchFailed e block

/-- REFETCH_BLOCK_DONE -/
def execRefetchBlockDone (e : Nat) (data : Option (List Byte)) (u : Upset) (s : State) : Host.Outcome State Fault Refusal :=
  .next (s.refetch1 e data u)

/-! ### Patrol (R259) -/

/-- Background work of BKG that the image in force enables. -/
def State.background (s : State) (b : Nat) : Bool :=
  match s.gram.image with
  | none => false
  | some i => bit i.enables b

/-- Lines of a channel. -/
abbrev chanLines : Nat := 0x2000000

/-- The patrol reads the next line of a channel in service. -/
def State.patrol (s : State) (n ch : Nat) (u : Upset) : State :=
  let c := s.chan n ch
  if !(s.chanPresent n ch) || !(s.background 0) || (s.stack n).asleep || (s.stack n).state != .inService
      || (c.state != .inService && c.state != .appended) then s
  else
    match s.addressOf (32 * n + ch) (64 * c.patrol) with
    | none => s
    | some pa =>
      let (_, s) := (s.strike u).readCells n ch (pa / 64) (Obs.ofStack n).source 2
      s.modChan n ch fun c =>
        { c with patrol := (c.patrol + 1) % chanLines,
                 passes := if c.patrol + 1 = chanLines then (c.passes + 1) % 2 ^ 32 else c.passes }

/-- PATROL_LINE -/
def execPatrolLine (n ch : Nat) (u : Upset) (s : State) : Host.Outcome State Fault Refusal := .next (s.patrol n ch u)

/-! ### Range scrub (R260, R261) -/

/-- The state with a stack's range scrub changed. -/
def State.modScrub (s : State) (n : Nat) (f : RangeScrub → RangeScrub) : State :=
  s.modStack n fun x => { x with scrub := f x.scrub }

/-- INT_STAT.LAST_CMD_STATUS. -/
def State.intStatus (s : State) (n : Nat) (st : Status) : State := s.modStack n fun x => { x with intLastCmd := st }

/-- RSCRUB_CMD START. -/
def State.rscrubStart (s : State) (n tag : Nat) : State :=
  let x := (s.stack n).scrub
  if x.state = 1 then s.intStatus n Code.scrubBusy
  else if x.lo % 64 != 0 || x.hi % 64 != 0 || decide (x.hi ≤ x.lo) || decide (0xC000000000 < x.hi) then s.intStatus n Code.badValue
  else
    (s.modScrub n fun x =>
      { x with state := 1, tag := tag % 2 ^ 32, runLo := x.lo, runHi := x.hi, stopped := false, lines := 0, corrected := 0,
               erased := 0, newUe := 0, poison := 0, firstBad := none, dropped0 := (s.stack n).dropped }).intStatus n Code.ok

/-- RSCRUB_START -/
def execRscrubStart (n tag : Nat) (s : State) : Host.Outcome State Fault Refusal :=
  .next ((s.stackRefused n 0x2818).getD (s.rscrubStart n tag))

/-- RSCRUB_STOP: the scrub ends at the next line. -/
def execRscrubStop (n : Nat) (s : State) : Host.Outcome State Fault Refusal :=
  .next ((s.stackRefused n 0x2818).getD
    ((s.modScrub n fun x => { x with stopped := x.stopped || x.state == 1 }).intStatus n Code.ok))

/-- What the decoder will make of a line of a channel. -/
def State.outcomeOf (s : State) (n ch line : Nat) : Decoded :=
  let c := s.chan n ch
  let d := s.deviation line
  if d.isEmpty then .clean [] else decodeWord (if c.erase = 31 then none else some c.erase) d

/-- A line of the range is read, counted, and decoded as any other read. -/
def State.scrubLine (s : State) (n ch line : Nat) : State :=
  let erase := (s.chan n ch).erase
  let note (f : RangeScrub → RangeScrub) : State := s.modScrub n fun x => f { x with lines := x.lines + 1 }
  let bad (x : RangeScrub) : RangeScrub := { x with firstBad := some (x.firstBad.getD (64 * line)) }
  let s := match s.outcomeOf n ch line with
    | .clean _ => note id
    | .corrected _ symbols =>
      if symbols.any fun j => j / 4 != erase then note fun x => { x with corrected := x.corrected + 1 }
      else note fun x => { x with erased := x.erased + 1 }
    | .poisoned => note fun x => bad { x with poison := x.poison + 1 }
    | .uncorrectable => note fun x => bad { x with newUe := x.newUe + 1 }
  (s.readCells n ch line (Obs.ofStack n).source 3).2

/-- The lines of a run's range on a stack, as read, with the number skipped. A stopped run leaves out the lines beyond the
place each channel had reached, which the free value `at_ ch` gives. -/
def State.scrubRun (s : State) (n : Nat) (at_ : Nat → Option Nat) : Nat → Nat → Nat → Nat × State
  | 0, _, skipped => (skipped, s)
  | k + 1, line, skipped =>
    match s.locate (64 * line), s.cellAt (64 * line) with
    | .cell g off, _ =>
      if g / 32 != n || (match at_ (g % 32) with
        | some m => decide (m ≤ off / 64)
        | none => false) then s.scrubRun n at_ k (line + 1) skipped
      else (s.scrubLine n (g % 32) line).scrubRun n at_ k (line + 1) skipped
    | .absent _, some (g, _) => s.scrubRun n at_ k (line + 1) (if g / 32 = n then skipped + 1 else skipped)
    | .absent _, none => s.scrubRun n at_ k (line + 1) skipped

/-- Bytes a device party writes to companion memory, line by line (R344, R346). -/
def State.compWriteBytes (s : State) (addr : Nat) (b : List Byte) (order : Ordering) : State :=
  (lineParts addr b).foldl (fun s (line, x, m) => s.compWrite (64 * line) x m order) s

/-- A range scrub ends: its summary and its event. `written` says whether the companion took the summary. -/
def State.rscrubEnd (s : State) (n : Nat) (written : Bool) : State :=
  let x := (s.stack n).scrub
  if x.state != 1 then s
  else if (s.stack n).asleep then s.awaitStacks [n]
  else
    let base := s.fresh
    let cut (ch : Nat) : Option Nat := if x.stopped then some (Config.freeNat (base + ch) % chanLines) else none
    let s := if x.stopped then { s with fresh := s.fresh + 32 } else s
    let (skipped, s) := s.scrubRun n cut ((x.runHi - x.runLo) / 64) (x.runLo / 64) 0
    let (cycles, s) := s.draw
    let x := (s.stack n).scrub
    let st := if x.stopped then Code.timeout else Code.ok
    let flags := b2n x.stopped + 2 * b2n (decide (x.dropped0 < (s.stack n).dropped)) + 0x8000
    let b := leBytes 4 x.tag ++ leBytes 1 st ++ leBytes 1 n ++ leBytes 2 flags ++ leBytes 8 x.lines ++ leBytes 8 x.corrected
      ++ leBytes 8 x.erased ++ leBytes 4 x.newUe ++ leBytes 4 x.poison ++ leBytes 8 skipped
      ++ leBytes 8 (x.firstBad.getD (2 ^ 64 - 1)) ++ leBytes 8 cycles
    let s := s.modScrub n fun x => { x with state := 2, status := st, stopped := false }
    let s := if s.linkUp && written then s.compWriteBytes x.dst b .release else s
    s.event Cls.stk st (Obs.ofStack n) 0xFF x.tag 0

/-- RSCRUB_END -/
def execRscrubEnd (n : Nat) (written : Bool) (s : State) : Host.Outcome State Fault Refusal := .next (s.rscrubEnd n written)

/-! ### INT_CLR and the erasure position (R256, R267) -/

/-- INT_CLR_COUNTS -/
def execIntClrCounts (n mask : Nat) (s : State) : Host.Outcome State Fault Refusal :=
  .next ((s.stackRefused n 0x2008).getD
    (((bitsSet 32 mask).foldl (fun s ch => s.modChan n ch fun c => { c with ce := 0, erased := 0 }) s).intStatus n Code.ok))

/-- INT_CLR_LOG -/
def execIntClrLog (n : Nat) (s : State) : Host.Outcome State Fault Refusal :=
  .next ((s.stackRefused n 0x2008).getD ((s.modStack n fun x => { x with log := [] }).intStatus n Code.ok))

/-- INT_CLR_DROP -/
def execIntClrDrop (n : Nat) (s : State) : Host.Outcome State Fault Refusal :=
  .next ((s.stackRefused n 0x2008).getD ((s.modStack n fun x => { x with dropped := 0 }).intStatus n Code.ok))

/-- The management-window offset of the first word of INT_CHc. -/
def intChOffset (n ch : Nat) : Nat := stackOffset n (0x2100 + 16 * ch)

/-- A write of INT_CHc.ERASE: the position and its record. -/
def State.erasureSet (s : State) (n ch pos : Nat) : State :=
  if !(s.chanPresent n ch) then s.recordAccess Code.badAccess (intChOffset n ch)
  else if 18 ≤ pos && pos ≤ 30 then (s.intStatus n Code.badValue).recordAccess Code.badValue (intChOffset n ch)
  else
    let s := { s with flash := { s.flash with erasures := s.flash.erasures.put (32 * n + ch) pos } }
    s.modChan n ch fun c => { c with erase := pos }

/-- ERASURE_SET -/
def execErasureSet (n ch pos : Nat) (s : State) : Host.Outcome State Fault Refusal :=
  .next ((s.stackRefused n (0x2100 + 16 * ch)).getD (s.erasureSet n ch (pos % 32)))

/-- BSU_CANCEL -/
def execBsuCancel (n pid tag : Nat) (s : State) : Host.Outcome State Fault Refusal :=
  .next ((s.stackRefused n 0x1010).getD (s.bsuCancelWrite n pid tag))

end Sys2Proof.Machine
end

