-- ==== Sys2Proof/Machine/Link.lean ====
section
/-!
DEFINITION. The Xomon link: training and hand-off, its failures, snoops and withdrawals, event rings and interrupt
vectors (R336 to R356, R422, R423).
-/

namespace Sys2Proof.Machine

/-- The state with the link changed. -/
def State.modXl (s : State) (f : Xl → Xl) : State := { s with xl := f s.xl }

/-! ### Interrupt messages (R353) -/

/-- The holdoff of the rings a vector serves, in µs. -/
def State.holdoff (s : State) (v : Nat) : Nat :=
  ((List.range 16).map fun r =>
    let x := s.ring r
    if x.vec.getD r = v then x.holdoff else 0).foldl max 0

/-- A message: a RELEASE write of the vector's data to its address. With the link down none can go, and the vector pends (log entry
37). -/
def State.sendMessage (s : State) (v : Nat) : State :=
  let x := s.vec v
  if !s.linkUp then s.modVec v fun x => { x with pend := true } else
  let s := s.emit (.compWrite x.addr .release (leBytes 4 x.data))
  s.modVec v fun x => { x with pend := false, holding := decide (0 < s.holdoff v), owed := false }

/-- A vector has something to announce: masked it pends, in a holdoff it waits, otherwise a message goes. -/
def State.notify (s : State) (v : Nat) : State :=
  let x := s.vec v
  if x.mask then s.modVec v fun x => { x with pend := true }
  else if x.holding then s.modVec v fun x => { x with owed := true }
  else s.sendMessage v

/-- INTERRUPT_HOLDOFF_END -/
def execInterruptHoldoffEnd (v : Nat) (s : State) : Host.Outcome State Fault Refusal :=
  let x := s.vec v
  .next (if !x.holding then s
    else
      let s := s.modVec v fun x => { x with holding := false, owed := false }
      if x.owed then s.notify v else s)

/-- MASK of a vector is cleared. -/
def State.unmask (s : State) (v : Nat) : State :=
  let p := (s.vec v).pend
  let s := s.modVec v fun x => { x with mask := false }
  if p then s.sendMessage v else s

/-- IV_UNMASK -/
def execIvUnmask (v : Nat) (s : State) : Host.Outcome State Fault Refusal := .next (if v < 32 then s.unmask v else s)

/-! ### Event rings (R349 to R352, R356) -/

/-- An event record as a ring holds it (R350). -/
def Event.bytes (e : Event) (phase lost : Bool) : List Byte :=
  leBytes 1 e.cls ++ leBytes 1 e.code ++ leBytes 2 e.source ++ leBytes 1 e.pid ++ leBytes 1 (b2n phase + 2 * b2n lost)
    ++ leBytes 2 e.island ++ leBytes 8 e.count ++ leBytes 4 e.seq ++ leBytes 4 e.detail0 ++ leBytes 8 e.detail1

/-- A ring can take a record: enabled, the link up, and a slot free that leaves its tail off the head. -/
def State.ringRoom (s : State) (r : Nat) : Bool :=
  let x := s.ring r
  x.enable && s.linkUp && (x.tail + 1) % 2 ^ x.log2 != x.head % 2 ^ x.log2

/-- The first waiting record that its ring can take, and the others. -/
def State.nextRecord (s : State) : List Event → Option (Event × List Event)
  | [] => none
  | e :: r => if s.ringRoom e.ring then some (e, r) else (s.nextRecord r).map fun (x, r) => (x, e :: r)

/-- The record writer writes the next waiting record to its ring. -/
def State.writeRecord (s : State) : State :=
  match s.nextRecord s.mgmt.store with
  | none => s
  | some (e, rest) =>
    let r := e.ring
    let x := s.ring r
    let s := { s with mgmt := { s.mgmt with store := rest } }
    let s := s.compWriteBytes (x.base + 32 * x.tail) (e.bytes x.phase x.lost) .ordered
    let next := (x.tail + 1) % 2 ^ x.log2
    let s := s.modRing r fun x => { x with tail := next, phase := if next = 0 then !x.phase else x.phase, lost := false }
    s.notify (x.vec.getD r)

/-- EVENT_RECORD_WRITE -/
def execEventRecordWrite (s : State) : Host.Outcome State Fault Refusal := .next (s.writeRecord)

/-- A write refused with BAD_VALUE in MGMT_ERR. -/
def State.badValue (s : State) (offset : Nat) : State := s.recordAccess Code.badValue offset

/-- A write of ER_BASE. -/
def State.writeRingBase (s : State) (r v : Nat) : State :=
  if v % 4096 != 0 || (s.ring r).enable then s.badValue (0x8000 + 0x40 * r)
  else s.modRing r fun x => { x with base := v % 2 ^ 64, tail := 0, phase := true, head := 0 }

/-- A write of ER_CFG. -/
def State.writeRingCfg (s : State) (r v : Nat) : State :=
  let x := s.ring r
  let log2 := bits v 0 4
  if log2 < 6 || 14 < log2 || (x.enable && log2 != x.log2) then s.badValue (0x8000 + 0x40 * r + 8)
  else
    s.modRing r fun x =>
      let y : Ring := if log2 = x.log2 then x else { x with log2 := log2, tail := 0, phase := true, head := 0 }
      { y with enable := bit v 4, vec := some (bits v 5 5), holdoff := bits v 16 16 }

/-- EVENT_RING_CONFIG -/
def execEventRingConfig (r : Nat) (base : Bool) (v : Nat) (s : State) : Host.Outcome State Fault Refusal :=
  .next (if r ≥ 16 || (r != 0 && decide (s.rings ≤ r)) then s.badValue (0x8000 + 0x40 * r + (if base then 0 else 8))
    else if base then s.writeRingBase r v else s.writeRingCfg r v)

/-! ### Going down (R354) -/

/-- The link goes down: the directory is emptied, waiting base-die writes complete, dirty lines of the link cache are
discarded and counted for the event owed, and the ring lines the intake holds are gone with them. -/
def State.linkDown (s : State) : State :=
  let x := s.xl
  let lost := (x.cache.filter fun l => l.2.dirty).length
  let writes := x.withdraws.filterMap (·.2)
  let s := s.modXl fun x =>
    { x with state := .down, train := .idle, directory := [], withdraws := [], fills := [], cache := [],
             lostDirty := x.lostDirty + lost, downOwed := x.downOwed || x.wasUp, downs := (x.downs + 1) % 2 ^ 16 }
  let s := { s with srv := { s.srv with parts := s.srv.parts.map fun (p, x) => (p, { x with lines := [] }) } }
  writes.foldl (fun s op => s.submit op) s

/-- Training starts at 2.5 GT/s where firmware runs, the link's domain is on and XL_PERST_n is released (R337). -/
def State.startTraining (s : State) : State :=
  if s.mgmt.boot == .ready && !s.xl.perst && s.xl.state == .down && bit s.pwr.domOn 66 then
    s.modXl fun x => { x with state := .training, train := .detect }
  else s

/-- XL_PERST_ASSERT -/
def execXlPerstAssert (s : State) : Host.Outcome State Fault Refusal :=
  .next (if s.xl.perst then s
    else if s.xl.state == .down then s.modXl fun x => { x with perst := true }
    else s.linkDown.modXl fun x => { x with perst := true })

/-- XL_PERST_RELEASE -/
def execXlPerstRelease (s : State) : Host.Outcome State Fault Refusal :=
  .next ((s.modXl fun x => { x with perst := false }).startTraining)

/-- LINK_RETRY_TIMER -/
def execLinkRetryTimer (s : State) : Host.Outcome State Fault Refusal := .next (s.startTraining)

/-! ### Negotiation (R337 to R339) -/

/-- The width the good lanes allow: 16, 8 on a half whose lanes are all good, or none (R338). -/
def widthOf (lanes : Nat) : Nat :=
  if lanes % 2 ^ 16 = 0xFFFF then 16 else if bits lanes 0 8 = 0xFF || bits lanes 8 8 = 0xFF then 8 else 0

/-- CACHE_COMP in force (R51). -/
def State.cacheComp (s : State) : Bool :=
  match s.gram.image with
  | none => true
  | some i => i.cacheComp == 1

/-- The device's capability word. -/
def State.devCap (s : State) : Nat := (2 ^ s.xl.maxgen - 1) + 8 + 16 * b2n s.cacheComp + 32 + 64

/-- The highest generation that both words offer, 0 for none. -/
def commonGen (a b : Nat) : Nat :=
  let c := (a &&& b) % 8
  if bit c 2 then 3 else if bit c 1 then 2 else if bit c 0 then 1 else 0

/-- LINK_L0: the lanes are marked, and the hand-off window opens where some half of them is good. -/
def execLinkL0 (good : Nat) (s : State) : Host.Outcome State Fault Refusal :=
  .next (if s.xl.train != .detect then s
    else
      let s := s.modXl fun x =>
        { x with lanes := good % 2 ^ 16, compCap := 0, compWin := [], grant := false, refused := false, gen := 0,
                 grantWidth := 0, rootPort := false, root64 := false }
      if widthOf good = 0 then s.linkDown else s.modXl fun x => { x with train := .window })

/-- REQUEST is set: GRANT with GEN and WIDTH, or REFUSED. -/
def State.handoff (s : State) : State :=
  if s.xl.train != .window then s
  else
    let c := s.xl.compCap
    let gen := commonGen s.devCap c
    if !bit c 3 || !bit c 6 || gen == 0 || c / 2 ^ 7 != 0 then
      (s.linkDown).modXl fun x => { x with refused := true }
    else s.modXl fun x => { x with grant := true, gen := gen, grantWidth := widthOf x.lanes, train := .granted }

/-- HANDOFF_REQUEST -/
def execHandoffRequest (s : State) : Host.Outcome State Fault Refusal := .next (s.handoff)

/-- HANDOFF_WINDOW_EXPIRE -/
def execHandoffWindowExpire (partner64GT : Bool) (s : State) : Host.Outcome State Fault Refusal :=
  .next (if s.xl.train != .window then s
    else if !s.xl.pcieOk then s.linkDown
    else s.modXl fun x => { x with rootPort := true, root64 := partner64GT, train := .equalise })

/-- HANDOFF_RECOVERY_TIMER -/
def execHandoffRecoveryTimer (s : State) : Host.Outcome State Fault Refusal :=
  .next (if s.xl.train == .granted then s.modXl fun x => { x with train := .equalise } else s)

/-- The 64 bytes of the hand-off capability (R339). -/
def State.capability (s : State) : List Byte :=
  let x := s.xl
  leBytes 4 0x0001000B ++ leBytes 4 (0x0058 + 0x10000 + 0x040 * 0x100000) ++ leBytes 8 s.devCap ++ leBytes 8 x.compCap
    ++ (List.range 3).flatMap (fun i => leBytes 8 (x.compWin.look 0 i)) ++ leBytes 2 (b2n (x.grant || x.refused))
    ++ leBytes 2 (b2n x.grant + 2 * b2n x.refused) ++ leBytes 1 x.gen ++ leBytes 1 x.grantWidth ++ leBytes 10 0

/-- A write of configuration bytes during the hand-off window: COMP_CAP, COMP_WIN and CONTROL take it, and REQUEST draws
its answer. -/
def State.configWrite (s : State) (offset size v : Nat) : State :=
  if s.xl.train != .window then s
  else
    let b := overlay s.capability (offset - 0x100) (leBytes size v)
    if offset < 0x110 || 0x132 ≤ offset then s
    else
      let s := s.modXl fun x =>
        { x with compCap := leAt b 0x10 8, compWin := (List.range 3).map fun i => (i, leAt b (0x18 + 8 * i) 8) }
      if offset ≤ 0x130 && 0x130 < offset + size && bit (leAt b 0x30 2) 0 then s.handoff else s

/-- CONFIG_ACCESS: answered while the link is in L0 as an endpoint. Outside the capability the PCI Express Base
Specification gives what is read; here it is a free value. -/
def execConfigAccess (write : Bool) (offset size v : Nat) (s : State) : Host.Outcome State Fault Refusal :=
  .next (if !(s.xl.train == .window || s.xl.train == .granted || (s.linkUp && s.xl.rootPort)) then s
    else if write then s.configWrite offset size v
    else if 0x100 ≤ offset && offset + size ≤ 0x140 then
      s.emit (.configReply (leAt s.capability (offset - 0x100) size))
    else
      let (x, s) := s.drawBelow (2 ^ (8 * size))
      s.emit (.configReply x))

/-! ### Up, and faltering -/

/-- MGMT_RESET as it reads (R434). -/
def Mgmt.resetCause (m : Mgmt) : Nat :=
  b2n m.powerOn + 2 * b2n m.resetPin + 4 * b2n m.restarted + 8 * b2n m.factory + 16 * b2n m.slotB + 32 * b2n m.fallback

/-- The newest record of the store goes ahead of those that wait, the numbers staying in order. -/
def State.putAhead (s : State) : State :=
  match s.mgmt.store.getLast?, s.mgmt.store.head? with
  | some e, some f =>
    let rest := s.mgmt.store.dropLast.map fun (x : Event) => { x with seq := (x.seq + 1) % 2 ^ 32 }
    { s with mgmt := { s.mgmt with store := { e with seq := f.seq } :: rest } }
  | _, _ => s

/-- The first event after a reset or a management restart, and the slot that failed where this boot used the other
(R397, R403, R423, R425). -/
def State.firstEvent (s : State) : State :=
  if s.xl.wasUp && !s.mgmt.afterRestart then s
  else
    let restart := s.mgmt.afterRestart
    let seq := ((s.flash.shutdowns.find? fun r => !r.acked).map (·.seq)).getD 0
    let s := { s with mgmt := { s.mgmt with afterRestart := false } }
    let s := (if restart then s.event Cls.mgmt Code.ueSram Obs.ofMgmt 0xFF s.mgmt.resetCause 0
      else if s.pwr.restricted then s.event Cls.pwr Code.restricted Obs.ofPwr 0xFF seq 0
      else s.event Cls.mgmt Code.ok Obs.ofMgmt 0xFF s.mgmt.resetCause 0).putAhead
    if s.mgmt.fallback then s.event Cls.sec Code.slotFallback Obs.ofSec 0xFF (b2n (!s.mgmt.slotB)) 0 else s

/-- The mode that training settles on, in XL_STATE's code, with its generation (0 for an endpoint). -/
def State.settle (s : State) : Nat × Nat :=
  if s.xl.rootPort then (if s.xl.root64 then 5 else 4, 0)
  else
    let g := commonGen s.devCap s.xl.compCap
    (g, g)

/-- The link cache gives up the lines that are not kept; the dirty ones are written back (R354). -/
def State.trimLinkCache (s : State) (kept : LinkLine → Bool) : State :=
  let out := s.xl.cache.filter fun (_, l) => !(kept l)
  let s := { s with xl := { s.xl with cache := s.xl.cache.filter fun (_, l) => kept l } }
  out.foldl (fun s (a, l) => if l.dirty then s.emit (.compWrite (64 * a) .relaxed l.bytes) else s) s

/-- The link comes up, or training ends without a usable mode. A retraining after which COH_C is no longer in force empties the link
cache (R344). -/
def State.linkUpNow (s : State) : State :=
  let x := s.xl
  let (mode, gen) := s.settle
  let width := widthOf x.lanes
  if x.train != .equalise && x.train != .granted then s
  else if mode = 0 || width = 0 || (x.rootPort && !x.pcieOk) then s.linkDown
  else
    let again := x.state == .retraining
    let feat := if x.rootPort then 0 else bits (s.devCap &&& x.compCap) 3 4
    let s := s.modXl fun x =>
      { x with state := .up, train := .idle, mode := mode, width := width, feat := feat, windows := x.compWin,
               retrains := if again then (x.retrains + 1) % 2 ^ 16 else x.retrains }
    let s := if again && !bit feat 1 then s.trimLinkCache fun _ => false else s
    let s := s.firstEvent
    let s := if again then s.event Cls.xl Code.linkRetrain Obs.ofXl 0xFF 0 0 else s
    let s := if x.downOwed then
        (s.modXl fun x => { x with downOwed := false, lostDirty := 0 }).event Cls.xl Code.linkDown Obs.ofXl 0xFF x.lostDirty 0
      else s
    let s := if width < 16 || (gen != 0 && gen < x.maxgen) then s.event Cls.xl Code.linkDegraded Obs.ofXl 0xFF 0 0 else s
    s.modXl fun x => { x with wasUp := true }

/-- LINK_UP -/
def execLinkUp (s : State) : Host.Outcome State Fault Refusal := .next (s.linkUpNow)

/-- The link retrains from up; both directions hold their traffic. -/
def State.retrainLink (s : State) : State := s.modXl fun x => { x with state := .retraining, train := .equalise }

/-- XL_CTL.RETRAIN is written. -/
def State.xlRetrain (s : State) : State :=
  let s := s.modXl fun x => { x with lastCmd := Code.ok }
  match s.xl.state with
  | .up => s.retrainLink
  | .down => s.startTraining
  | _ => s

/-- XL_RETRAIN -/
def execXlRetrain (s : State) : Host.Outcome State Fault Refusal := .next (s.xlRetrain)

/-- LINK_LANE_FAIL -/
def execLinkLaneFail (lane : Nat) (s : State) : Host.Outcome State Fault Refusal :=
  .next (if s.xl.state == .up && decide (lane < 16) then
    (s.modXl fun x => { x with lanes := putBit x.lanes lane false }).retrainLink
  else s)

/-- FLIT_REPLAY -/
def execFlitReplay (s : State) : Host.Outcome State Fault Refusal :=
  .next (if s.linkUp then s.modXl fun x => { x with replays := (x.replays + 1) % 2 ^ 32 } else s)

/-- LINK_TRAINING_FAILURE -/
def execLinkTrainingFailure (s : State) : Host.Outcome State Fault Refusal :=
  .next (if s.xl.state == .training || s.xl.state == .retraining then s.linkDown else s)

/-! ### Snoops and withdrawals (R342, R343, R345) -/

/-- COMPANION_SNOOP: the answer, after which a dirty copy is the companion's and the device's is given up, unless the line
is watched. -/
def execCompanionSnoop (line : Nat) (s : State) : Host.Outcome State Fault Refusal :=
  .next (if !s.linkUp || s.xl.rootPort then s
    else
      match s.xl.cache.seek line with
      | none => s.emit (.snoopReply line false none)
      | some x =>
        let s := s.emit (.snoopReply line true (if x.dirty then some x.bytes else none))
        s.modXl fun y =>
          { y with cache := if x.watched then y.cache.put line { x with dirty := false } else y.cache.drop line })

/-- Entries of the directory (R343). -/
abbrev directorySize : Nat := 8388608

/-- The companion fills a line: the directory records it, after a recall of its least recently filled entry where full. -/
def State.recordFill (s : State) (line : Nat) : State :=
  let d := s.xl.directory.filter (· != line)
  if d.length < directorySize then s.modXl fun x => { x with directory := d ++ [line] }
  else
    match d with
    | [] => s
    | old :: _ =>
      (s.withdraw old none).modXl fun x => { x with recalls := (x.recalls + 1) % 2 ^ 32, fills := x.fills ++ [line] }

/-- The fills that waited for a recall take the room it made. -/
def State.pumpFills (s : State) : State :=
  match s.xl.fills with
  | [] => s
  | line :: rest =>
    if s.xl.directory.length < directorySize then
      s.modXl fun x => { x with fills := rest, directory := x.directory.filter (· != line) ++ [line] }
    else s

/-- WITHDRAW_ANSWER -/
def execWithdrawAnswer (line : Nat) (dirty : Option (List Byte)) (s : State) : Host.Outcome State Fault Refusal :=
  .next (if s.xl.withdraws.any (·.1 == line) then (s.withdrawn line dirty).pumpFills else s)

/-- SNOOP_TIMEOUT -/
def execSnoopTimeout (s : State) : Host.Outcome State Fault Refusal :=
  .next (if s.xl.withdraws.isEmpty || !s.linkUp then s
    else (s.event Cls.xl Code.snoopTimeout Obs.ofXl 0xFF 0 0).linkDown)

end Sys2Proof.Machine
end

