-- ==== Sys2Proof/Machine/Serving.lean ====
section
/-!
DEFINITION. The serving controller: command records, the request table, key/value regions, groups and steps, boundaries and
completion records (R283 to R313, R348).
-/

namespace Sys2Proof.Machine

/-! ### Tables -/

/-- The SRV section in force. -/
def State.srvImage (s : State) : Image := s.gram.image.getD {}

/-- A request entry, a prefix entry, a group. -/
def State.req (s : State) (i : Nat) : Request := s.srv.table.look {} i
def State.pfx (s : State) (h : Nat) : Prefix := s.srv.prefixes.look {} h
def State.group (s : State) (g : Nat) : Group := s.srv.groups.look {} g

/-- The state with the serving controller, a request, a prefix or a group changed. -/
def State.modSrv (s : State) (f : Srv → Srv) : State := { s with srv := f s.srv }
def State.modReq (s : State) (i : Nat) (f : Request → Request) : State :=
  s.modSrv fun x => { x with table := x.table.upd {} i f }
def State.modPfx (s : State) (h : Nat) (f : Prefix → Prefix) : State :=
  s.modSrv fun x => { x with prefixes := x.prefixes.upd {} h f }
def State.modGroup (s : State) (g : Nat) (f : Group → Group) : State :=
  s.modSrv fun x => { x with groups := x.groups.upd {} g f }

/-- Partition p is in SERVED (R53). -/
def State.isServed (s : State) (p : Nat) : Bool := bit s.servedMask p

/-- STATE codes of R291. -/
def reqCode : ReqState → Nat
  | .free => 0
  | .queued => 1
  | .prefill => 2
  | .decode => 3
  | .verify => 4
  | .paused => 5
  | .done => 6
  | .cancelled => 7
  | .expired => 8
  | .faulted => 9

/-- A terminal state, which lasts until its END record has been written. -/
def ReqState.ended (x : ReqState) : Bool := x == .done || x == .cancelled || x == .expired || x == .faulted

/-- A live request: neither FREE nor ended. -/
def Request.live (r : Request) : Bool := r.state != .free && !r.state.ended

/-- A request in a step. -/
def Request.inStep (r : Request) : Bool := r.state == .prefill || r.state == .decode || r.state == .verify

/-- The numbers of a partition's live requests. -/
def State.liveOf (s : State) (p : Nat) : List Nat := (s.srv.table.filter fun (_, r) => r.pid == p && r.live).map (·.1)

/-- A request entry as SRV_PEEK shows it (R290). -/
def Request.bytes (r : Request) : List Byte :=
  let flags := b2n r.cancelReq + 2 * b2n r.progress + 4 * b2n r.save + 8 * b2n r.greedy + 16 * b2n r.draftOff
  leBytes 1 (reqCode r.state) ++ leBytes 1 (r.pid + 16 * r.prio) ++ leBytes 2 flags ++ leBytes 4 r.client ++ leBytes 4 r.len
    ++ leBytes 4 r.maxlen ++ leBytes 4 r.prompt ++ leBytes 1 r.model ++ leBytes 1 r.draft ++ leBytes 1 r.dlen ++ leBytes 1 r.status
    ++ leBytes 2 r.pfx ++ leBytes 2 r.saveHandle ++ leBytes 1 r.reason ++ leBytes 1 r.cause ++ leBytes 2 0 ++ leBytes 8 r.deadline
    ++ leBytes 8 r.kvVa ++ leBytes 2 r.plane ++ leBytes 2 r.commit ++ leBytes 4 r.delivered ++ leBytes 4 r.stop ++ leBytes 4 r.seed
    ++ leBytes 8 r.inPa ++ leBytes 8 r.outPa ++ leBytes 4 r.temp ++ leBytes 2 r.topk ++ leBytes 2 0 ++ leBytes 4 r.steps
    ++ leBytes 4 r.accepted ++ leBytes 8 r.admitTick ++ leBytes 8 r.last ++ leBytes 16 0

/-- Requests not FREE that name a prefix (USERS of R295). -/
def State.pfxUsers (s : State) (h : Nat) : Nat :=
  (s.srv.table.filter fun (_, r) => r.state != .free && r.pfx == h).length

/-- A prefix entry as SRV_PEEK shows it (R295). -/
def State.pfxBytes (s : State) (h : Nat) : List Byte :=
  let x := s.pfx h
  leBytes 1 x.state ++ leBytes 1 x.pid ++ leBytes 1 x.model ++ leBytes 1 (b2n x.saved) ++ leBytes 4 x.len ++ leBytes 8 x.kvVa
    ++ leBytes 4 (s.pfxUsers h) ++ leBytes 4 x.client ++ leBytes 40 0

/-! ### Completion records (R308, R309) -/

/-- The parts of a completion record; its PHASE is set when it is written. -/
structure Completion where
  kind : Nat := 1
  status : Status := 0
  flags : Nat := 0
  client : Nat := 0
  req : Nat := 0xFFFF
  state : Nat := 0
  cause : Nat := 0
  tokens : Nat := 0
  new : Nat := 0
  steps : Nat := 0
  accepted : Nat := 0
  tick : Nat := 0
  admitTick : Nat := 0
  deriving DecidableEq, Repr

/-- A completion record's line, PHASE clear. -/
def Completion.bytes (c : Completion) : List Byte :=
  leBytes 1 0 ++ leBytes 1 c.kind ++ leBytes 1 c.status ++ leBytes 1 c.flags ++ leBytes 4 c.client ++ leBytes 2 c.req
    ++ leBytes 1 c.state ++ leBytes 1 c.cause ++ leBytes 4 c.tokens ++ leBytes 4 c.new ++ leBytes 4 c.steps
    ++ leBytes 4 c.accepted ++ leBytes 4 0 ++ leBytes 8 c.tick ++ leBytes 8 c.admitTick ++ leBytes 16 0

/-- Records the controller holds for a partition before its requests stop. -/
abbrev storeLimit : Nat := 64

/-- A record joins its partition's store; CPL_FULL goes once each time the store fills. `ends` is the entry it ends. -/
def State.complete (s : State) (p : Nat) (c : Completion) (ends : Option Nat) : State :=
  let s := s.modPsrv p fun x => { x with cplStore := x.cplStore ++ [({ c with tick := s.srv.tick }.bytes, ends)] }
  let x := s.psrv p
  if x.cplStore.length ≥ storeLimit && !x.cplFullSent then
    (s.modPsrv p fun x => { x with cplFullSent := true }).event Cls.srv Code.cplFull Obs.ofSrv p 0 0
  else s

/-! ### Key/value regions (R292 to R295) -/

/-- Plane bytes PB of a model: KVT, in KiB per token, over 2L planes. -/
def McEntry.planeBytes (m : McEntry) : Nat := m.kvt * 1024 / (2 * m.layers)

/-- PB is a whole multiple of 64. -/
def McEntry.planeOk (m : McEntry) : Bool := m.layers != 0 && m.kvt * 1024 % (2 * m.layers) == 0 && m.planeBytes % 64 == 0

/-- An access of the controller that would wait for a stack in self-refresh wakes it and then finds what it came for, within the same
command (DESIGN CHOICE, log entry 86: the model has no time in which the controller's own access could wait). -/
def State.awaiting {α : Type} (s : State) (f : State → α × State) (waits : α → Bool) : α × State :=
  match f s with
  | (r, t) =>
    if !(waits r) then (r, t)
    else
      let (r, u) := f { t with stk := t.stk.map fun (n, x) => (n, { x with asleep := false }) }
      (r, { u with stk := u.stk.map fun (n, x) => (n, { x with asleep := (t.stack n).asleep }) })

/-- An entry of a translation table as the controller reads it. -/
def State.entryAwaited (s : State) (table i : Nat) : Except Halt Nat × State :=
  s.awaiting (fun s => s.readEntry 0xC000 table i) fun
    | .error .wait => true
    | _ => false

/-- A line of device memory as the controller reads it. -/
def State.lineAwaited (s : State) (line : Nat) : Read × State :=
  s.awaiting (fun s => s.readLine 0xC000 0 line) fun
    | .wait => true
    | _ => false

/-- Where the level-0 entry of a virtual page lies, by a walk of the partition's tables (R201). -/
def State.leafSlot (s : State) (p va : Nat) : Option Nat × State :=
  let next (e : Nat) : Option Nat := if bit e 0 && bit e 1 then some (bits e 16 36 * 0x10000) else none
  match s.entryAwaited (p * 0x10000) (va / 2 ^ 39) with
  | (.error _, s) => (none, s)
  | (.ok e2, s) =>
    match next e2 with
    | none => (none, s)
    | some t1 =>
      match s.entryAwaited t1 (bits va 30 9) with
      | (.error _, s) => (none, s)
      | (.ok e1, s) => ((next e1).map fun t0 => t0 + 8 * bits va 21 9, s)

/-- A leaf is written: the page, or nothing (R293, R294). The write withdraws cached translations (R203). -/
def State.writeLeaf (s : State) (slot : Nat) (page : Option Nat) : State :=
  s.submitBytes .device slot (leBytes 8 (match page with
    | some pa => pa % 2 ^ 52 + 5
    | none => 0)) 0

/-- The leaves of some virtual pages, where every one has a table to stand in. -/
def State.leafSlots (p : Nat) : List Nat → State → Option (List (Nat × Nat)) × State
  | [], s => (some [], s)
  | v :: r, s =>
    match s.leafSlot p (v * pageBytes) with
    | (none, s) => (none, s)
    | (some slot, s) =>
      match State.leafSlots p r s with
      | (none, s) => (none, s)
      | (some l, s) => (some ((v, slot) :: l), s)

/-- Pages of the pool committed to some virtual pages of a partition: all of them, or none (R293). -/
def State.commitPages (s : State) (p : Nat) (pages : List Nat) : Bool × State :=
  let x := s.psrv p
  if x.pool.length < pages.length || x.kvLimit < x.kvUsed + pages.length then (false, s)
  else
    match State.leafSlots p pages s with
    | (none, s) => (false, s)
    | (some l, s) =>
      (true, (l.zip x.pool).foldl (fun s ((v, slot), pa) =>
        (s.writeLeaf slot (some pa)).modPsrv p fun x =>
          { x with pool := x.pool.drop 1, kvUsed := x.kvUsed + 1, committed := x.committed.put v pa }) s)

/-- Leaves cleared and their pages returned to the pool (R294). -/
def State.releasePages (s : State) (p : Nat) (pages : List Nat) : State :=
  pages.foldl (fun s v =>
    match (s.psrv p).committed.seek v with
    | none => s
    | some pa =>
      let s := match s.leafSlot p (v * pageBytes) with
        | (some slot, s) => s.writeLeaf slot none
        | (none, s) => s
      s.modPsrv p fun x =>
        { x with pool := x.pool ++ [pa], kvUsed := x.kvUsed - 1, committed := x.committed.drop v }) s

/-- Virtual pages of a request's region that hold leaves. -/
def State.regionPages (s : State) (r : Request) : List Nat :=
  (s.psrv r.pid).committed.keys.filter fun v =>
    decide (r.kvVa / pageBytes ≤ v) && decide (v < r.kvVa / pageBytes + 2 * r.layers * r.plane)

/-- Tokens of its own that a request's next step finds in its region: in a prefill, the prompt. -/
def Request.held (r : Request) : Nat := if r.len = 0 then r.prompt else r.len

/-- The pages a request's next step needs and does not have. -/
def State.missingPages (s : State) (r : Request) : Nat × List Nat :=
  let m := s.mcEntry r.model
  let need := min r.plane (ceilDiv ((r.held + r.dlen + 1) * m.planeBytes) pageBytes)
  (max need r.commit, (List.range (2 * m.layers)).flatMap fun i =>
    (List.range (need - r.commit)).map fun j => r.kvVa / pageBytes + i * r.plane + r.commit + j)

/-- The arena's runs of pages in use: live regions and committed leaves, as first and end page from KVA_BASE. -/
def State.arenaUsed (s : State) (p : Nat) : List (Nat × Nat) :=
  let x := s.psrv p
  let base := x.kvaBase / pageBytes
  (0, 1) :: (s.srv.table.filter fun (_, r) => r.pid == p && r.live && decide (0 < r.plane)).map (fun (_, r) =>
      let a := r.kvVa / pageBytes - base
      (a, a + 2 * r.layers * r.plane))
    ++ x.committed.keys.map fun v => (v - base, v - base + 1)

/-- The lowest run of n free arena pages. -/
def State.arenaRun (s : State) (p n : Nat) : Option Nat :=
  let used := s.arenaUsed p
  let fits (a : Nat) : Bool := decide (a + n ≤ (s.psrv p).kvaPages) && used.all fun (b, e) => decide (a + n ≤ b) || decide (e ≤ a)
  ((used.map (·.2)).filter fits).min?

/-! ### The ends of requests (R291, R294, R295, R303) -/

/-- A RETIRING prefix that no request names any longer is FREE, its saved pages back in the pool. -/
def State.retirePfx (s : State) (h : Nat) : State :=
  let x := s.pfx h
  if x.state = 2 && s.pfxUsers h = 0 then
    (s.releasePages x.pid x.pages).modSrv fun y => { y with prefixes := y.prefixes.drop h }
  else s

/-- The pages of a region that is saved, each with the place it has in the prefix: the planes of the prefix lie ceil(LEN × PB ÷ 2 MiB)
pages apart from KV_VA on (R295), and the pages committed beyond them follow the last plane (DESIGN CHOICE, log entry 91). -/
def State.savedMoves (s : State) (r : Request) : List (Nat × Nat) :=
  let m := s.mcEntry r.model
  let base := r.kvVa / pageBytes
  let kept := if m.layers = 0 then r.commit else min r.commit (ceilDiv (r.len * m.planeBytes) pageBytes)
  let page (i j : Nat) : Nat := base + i * r.plane + j
  let planes := (List.range (2 * r.layers)).flatMap fun i => (List.range kept).map (page i)
  let rest := (List.range (2 * r.layers)).flatMap fun i => (List.range (r.commit - kept)).map fun j => page i (kept + j)
  (planes ++ rest).zip ((List.range (2 * r.layers * r.commit)).map (base + ·))

/-- Pages of a partition's space move: the leaves at their old places are cleared, and those at their new places written. -/
def State.movePages (s : State) (p : Nat) (moves : List (Nat × Nat)) : State :=
  let moved := (moves.filter fun (a, b) => a != b).filterMap fun (a, b) => ((s.psrv p).committed.seek a).map fun pa => (a, b, pa)
  let leaf (v : Nat) (page : Option Nat) (s : State) : State := match s.leafSlot p (v * pageBytes) with
    | (some slot, s) => s.writeLeaf slot page
    | (none, s) => s
  let s := moved.foldl (fun s (a, _, _) => (leaf a none s).modPsrv p fun x => { x with committed := x.committed.drop a }) s
  moved.foldl (fun s (_, b, pa) => (leaf b (some pa) s).modPsrv p fun x => { x with committed := x.committed.put b pa }) s

/-- A request ends: its pages go back, or its region is saved as a prefix; its END record waits to be written. -/
def State.endRequest (s : State) (i : Nat) (state : ReqState) (status cause : Status) : State :=
  let r := s.req i
  let p := r.pid
  let saved := state == .done && r.save && (s.pfx r.saveHandle).state == 0
  let s :=
    if saved then
      let moves := s.savedMoves r
      (s.movePages p moves).modPfx r.saveHandle fun _ =>
        { state := 1, pid := p, model := r.model, saved := true, len := r.len, kvVa := r.kvVa, client := r.client,
          pages := moves.map (·.2) }
    else s.releasePages p (s.regionPages r)
  let late := state == .done && r.cancelReq
  let overdue := state == .done && r.deadline != 0 && decide (r.deadline ≤ s.srv.tick)
  let s := s.modReq i fun r =>
    { r with state := state, status := status, cause := cause, reason := 0, group := none, commit := 0,
             reported := r.delivered }
  let s := if late then s.event Cls.srv Code.lateCancel Obs.ofSrv p i 0 else s
  s.complete p
    { kind := 1, status := status, flags := b2n late + 2 * b2n overdue + 4 * b2n saved, client := r.client, req := i,
      state := reqCode state, cause := cause, tokens := r.delivered, new := r.delivered - r.reported, steps := r.steps,
      accepted := r.accepted, admitTick := r.admitTick } (some i)

/-- A completion record reaches its ring; the entry it ends is FREE (R291, R309). -/
def State.writeCompletion (s : State) (p : Nat) (b : List Byte) (ends : Option Nat) : State :=
  let x := s.psrv p
  let line := overlay b 0 (leBytes 1 (b2n x.cplPhase))
  let s := s.compWriteBytes (x.cplBase + 64 * x.cplTail) line .release
  let next := (x.cplTail + 1) % 2 ^ x.cplLog2
  let s := s.modPsrv p fun x => { x with cplTail := next, cplPhase := if next = 0 then !x.cplPhase else x.cplPhase }
  match ends with
  | none => s
  | some i =>
    let h := (s.req i).pfx
    (s.modSrv fun y => { y with table := y.table.drop i }).retirePfx h

/-- Held records are written while the ring is enabled, the link is up and a slot is free. -/
def State.writeCompletions (p : Nat) : Nat → State → Bool × State
  | 0, s => (false, s)
  | n + 1, s =>
    let x := s.psrv p
    match x.cplStore with
    | [] => (false, s)
    | (b, e) :: rest =>
      if x.cplEnable && s.linkUp && (x.cplTail + 1) % 2 ^ x.cplLog2 != x.cplHead % 2 ^ x.cplLog2 then
        let s := s.modPsrv p fun x => { x with cplStore := rest, cplFullSent := x.cplFullSent && decide (storeLimit ≤ rest.length) }
        (true, (State.writeCompletions p n (s.writeCompletion p b e)).2)
      else (false, s)

/-- What is held for a partition's completion ring is written, and its interrupt message follows. -/
def State.pumpCompletions (s : State) (p : Nat) : State :=
  let (any, s) := State.writeCompletions p (s.psrv p).cplStore.length s
  if any && (s.psrv p).cplIrq then s.notify (16 + p) else s

/-! ### Work orders and members (R299) -/

/-- A core serves a partition: held by it, in service, its cluster not being switched. -/
def State.serves (s : State) (p station_ : Nat) : Bool :=
  match station station_ with
  | .core c k _ => s.corePid c k == some p && s.corePresent c k && (s.core c k).run != .offline
      && (s.sched.switching.seek c).isNone
  | _ => false

/-- The controller ports bound to serving cores of a partition. -/
def State.portsOf (s : State) (p : Nat) : List Nat :=
  (s.srv.ports.filter fun (_, x) => x.producer && s.serves p x.peer).map (·.1)

/-- A port that a group in a step uses. -/
def State.portBusy (s : State) (port : Nat) : Bool := s.srv.groups.any fun (_, g) => g.port == port

/-- The prefix a request names: its positions and its region. -/
def State.pfxOf (s : State) (r : Request) : Nat × Nat :=
  if r.pfx = 0xFFFF then (0, 0) else ((s.pfx r.pfx).len, (s.pfx r.pfx).kvVa)

/-- A member entry as the controller writes it. -/
def State.memberBytes (s : State) (i : Nat) : List Byte :=
  let r := s.req i
  let (plen, pva) := s.pfxOf r
  leBytes 2 i ++ leBytes 1 r.dlen ++ leBytes 1 0 ++ leBytes 4 (plen + r.len)
    ++ leBytes 4 (if r.len = 0 then r.prompt else r.dlen + 1) ++ leBytes 4 plen ++ leBytes 8 r.kvVa ++ leBytes 8 pva
    ++ leBytes 4 r.steps ++ leBytes 4 r.temp ++ leBytes 2 r.topk ++ List.replicate (128 - 0x2A) 0

/-- The lowest run of n free member entries in the step-list area, as a byte offset. -/
def State.listRun (s : State) (p n : Nat) : Nat :=
  let used := (s.srv.groups.filter fun (_, g) => g.pid == p).map fun (_, g) =>
    let a := (g.listVa - (s.psrv p).kvaBase) / 128
    (a, a + g.members.length)
  let fits (a : Nat) : Bool := used.all fun (b, e) => decide (a + n ≤ b) || decide (e ≤ a)
  128 * (((0 :: used.map (·.2)).filter fits).min?.getD 0)

/-- The physical address of a byte of the step-list area. -/
def State.listPa (s : State) (p va : Nat) : Nat := (s.psrv p).stepPage.getD 0 + (va - (s.psrv p).kvaBase)

/-! ### Bank-side issue (R298) -/

/-- The unit at whose intake the controller sends a partition's next descriptor: any of the stacks its BSU record gives,
on a channel in service; which is a free choice. -/
def State.pickLead (s : State) (p : Nat) : Option (Nat × Nat) × State :=
  let units := (bitsSet 12 (s.bsuMask p)).flatMap fun n =>
    ((List.range 32).filter fun c => s.chanPresent n c && (s.chan n c).state == .inService).map fun c => (n, c)
  let (k, s) := s.drawBelow (max 1 units.length)
  (units[k]?, s)

/-- A descriptor with this tag still waits at an intake or for admission. -/
def State.unadmitted (s : State) (p tag : Nat) : Bool :=
  (s.seqs.any fun (_, q) => q.pid == p && q.desc.tag == tag && q.phase == .waiting)
    || s.stk.any fun (_, x) => x.channels.any fun (_, c) => c.intake.any fun (src, b) => src == 0x10000 + p && leAt b 0 4 == tag

/-- The next `k` handles of the rotation may be taken: none is named by a sequence not yet admitted. -/
def State.handlesFree (s : State) (p k : Nat) : Bool :=
  let x := s.psrv p
  decide (k ≤ x.nounCount) && (List.range k).all fun j =>
    match x.nounTags.seek ((x.nounNext + j) % x.nounCount) with
    | some t => !(s.unadmitted p t)
    | none => true

/-- A noun is written into the next handle of the rotation, under R76. -/
def State.issueNoun (s : State) (p tag : Nat) (b : List Byte) : Nat × State :=
  let x := s.psrv p
  let handle := x.nounBase + x.nounNext
  (handle, (s.submitBytes .device (nounTablePa p + 64 * handle) b 0).modPsrv p fun x =>
    { x with nounNext := (x.nounNext + 1) % x.nounCount, nounTags := x.nounTags.put x.nounNext tag })

/-- Formats a plane's rows of whole lines can hold in LAYOUT 0, with their bits. -/
def planeFormats : List (Nat × Nat) :=
  [(0x01, 8), (0x02, 8), (0x03, 8), (0x04, 8), (0x07, 4), (0x08, 4), (0x09, 8), (0x0A, 16), (0x0B, 16), (0x0C, 32), (0x0D, 64),
   (0x0E, 32), (0x0F, 32), (0x10, 8)]

/-- The noun of a key or value plane: its rows one after another in LAYOUT 0, and of them only those the reduction may read. The
format and the allocation hint are free (DESIGN CHOICE, log entry 84). -/
def State.planeNoun (s : State) (base rows rowBytes : Nat) : List Byte × State :=
  let (k, s) := s.drawBelow planeFormats.length
  let (hint, s) := s.drawBelow 5
  let (format, width) := planeFormats.getD k (0x09, 8)
  let row := rowBytes * 8 / width
  (leBytes 8 base ++ leBytes 1 format ++ leBytes 1 2 ++ leBytes 2 0 ++ leBytes 1 hint ++ leBytes 1 1 ++ leBytes 2 0
    ++ leBytes 3 row ++ leBytes 3 rows ++ List.replicate 18 0 ++ leBytes 4 1 ++ leBytes 4 row ++ List.replicate 16 0, s)

/-- The noun that replaces a placeholder: 0xFFFE the key plane, 0xFFFD the value plane, 0xFFFC the vector, of which the manual gives
nothing. A plane the manual gives no place is free too. -/
def State.nounFor (s : State) (d : Issue) (mark : Nat) : List Byte × State :=
  match d.planes with
  | some (key, value) => if mark = 0xFFFC then s.drawBytes 64 else s.planeNoun (if mark = 0xFFFE then key else value) d.rows d.rowBytes
  | none => s.drawBytes 64

/-- The placeholders of R298 among noun handles. -/
def placeholders (hs : List Nat) : List Nat := [0xFFFE, 0xFFFD, 0xFFFC].filter hs.contains

/-- The noun fields of a descriptor with the placeholders replaced. -/
def State.fillNouns (s : State) (p tag : Nat) (d : Issue) (hs : List Nat) : List Nat × State :=
  let (m, s) := (placeholders hs).foldl (fun (m, s) mark =>
    let (b, s) := s.nounFor d mark
    let (h, s) := s.issueNoun p tag b
    (Tbl.put mark h m, s)) (([] : Tbl Nat), s)
  (hs.map fun h => Tbl.look h m h, s)

/-- Streams of a descriptor go to some ports of the group's serving core, which are a free choice. -/
def State.fillPeers (core lanes : Nat) (use : Bool) (s : State) : List Byte × State :=
  if !use then (List.replicate 16 0, s)
  else
    let (k, s) := s.draw
    ((List.range 8).flatMap fun j => leBytes 2 (if j < lanes then core / 64 * 64 + (k / 48 ^ j) % 48 else 0), s)

/-- One descriptor filled in and sent to an intake for a group: TAG, SUMMARY, XPEER, YPEER and nouns. -/
def State.sendDescriptor (s : State) (gn : Nat) (d : Issue) : State :=
  let g := s.group gn
  let q := parseSeq d.raw
  let core := (s.srv.ports.look {} g.port).peer
  let (tag, s) := s.drawBelow (2 ^ 32)
  let (sum, s) := s.drawBelow (2 ^ 46)
  let (ns, s) := s.fillNouns g.pid tag d q.nouns
  let (xs, s) := State.fillPeers core q.lanes q.xstream s
  let (ys, s) := State.fillPeers core q.lanes q.ystream s
  let b := overlay (overlay (overlay (overlay (overlay d.raw 0 (leBytes 4 tag)) 0x10 (ns.flatMap (leBytes 2)))
    0x20 (leBytes 8 (64 * sum))) 0x28 ys) 0x38 xs
  match s.pickLead g.pid with
  | (none, s) => s.modGroup gn fun g => { g with abandoned := some (g.abandoned.getD (Code.stationOffline, false)) }
  | (some (n, c), s) =>
    (s.modChan n c fun x => { x with intake := x.intake ++ [(0x10000 + g.pid, b)] }).modGroup gn fun g =>
      { g with tags := g.tags ++ [tag] }

/-- Descriptors are sent in order while handles for their nouns may be taken; the rest wait. -/
def State.sendIssues (gn : Nat) : List Issue → State → State
  | [], s => s.modGroup gn fun g => { g with issue := [] }
  | d :: r, s =>
    if s.handlesFree (s.group gn).pid (placeholders (parseSeq d.raw).nouns).length then State.sendIssues gn r (s.sendDescriptor gn d)
    else s.modGroup gn fun g => { g with issue := d :: r }

/-- A descriptor of a layer for the members of a pass: with a plane placeholder once for each member, over rows 0 to LEN + DLEN of its
planes, and once more over its prefix's rows; without one, once. A layer beyond the region's planes has none of its own. -/
def State.issuesFor (s : State) (members : List Nat) (layer : Nat) (raw : List Byte) : List Issue :=
  let hs := (parseSeq raw).nouns
  if !(hs.contains 0xFFFE || hs.contains 0xFFFD) then [{ raw := raw }]
  else members.flatMap fun i =>
    let r := s.req i
    let pb := (s.mcEntry r.model).planeBytes
    let issueOver (va plane rows : Nat) : Issue :=
      { raw := raw, rows := rows, rowBytes := pb,
        planes := if layer < r.layers then some (va + 2 * layer * plane * pageBytes, va + (2 * layer + 1) * plane * pageBytes) else none }
    let (plen, pva) := s.pfxOf r
    issueOver r.kvVa r.plane (r.len + r.dlen + 1) :: (if plen = 0 then [] else [issueOver pva (ceilDiv (plen * pb) pageBytes) plen])

/-- Bytes of the partition's space as the controller reads them. -/
def State.srvRead (s : State) (p va n : Nat) : Except SeqHalt (List Byte) × State :=
  let (r, s) := s.awaiting (fun s => (bankBytes { station := 0xC000, pid := p } va n).run s) fun
    | .error .wait => true
    | _ => false
  (r.map (·.1), s)

/-- The descriptors of one layer of a model, from the partition's template table. -/
def State.layerList (s : State) (p model layer : Nat) : Except SeqHalt (List (List Byte)) × State :=
  match s.srvRead p ((s.psrv p).tmpl + 16 * model) 16 with
  | (.error e, s) => (.error e, s)
  | (.ok t, s) =>
    let n := leAt t 8 2
    match s.srvRead p (leAt t 0 8 + 128 * n * layer) (128 * n) with
    | (.error e, s) => (.error e, s)
    | (.ok b, s) => (.ok ((List.range n).map fun i => (b.drop (128 * i)).take 128), s)

/-- The next pass of up to eight vectors of a chain: its layer's descriptors for the members whose vectors it holds. -/
def State.startPass (s : State) (gn model : Nat) (vectors : List Nat) : State :=
  let g := s.group gn
  match s.layerList g.pid model g.layer with
  | (.error (.fault st _), s) => s.modGroup gn fun g => { g with abandoned := some (st, false) }
  | (.error .wait, s) => s
  | (.ok ds, s) =>
    let members := ((vectors.drop (8 * g.pass)).take 8).eraseDups
    s.modGroup gn fun g =>
      let g := { g with issue := ds.flatMap (s.issuesFor members g.layer) }
      if ceilDiv vectors.length 8 ≤ g.pass + 1 then { g with layer := g.layer + 1, pass := 0 } else { g with pass := g.pass + 1 }

/-- A chain of layers has run: the next begins, and the members enter VERIFY where that is the verification pass. -/
def State.endChain (s : State) (gn : Nat) : State :=
  let s := s.modGroup gn fun g => { g with work := g.work.drop 1, layer := 0, pass := 0 }
  let g := s.group gn
  if g.work.length = 1 then g.members.foldl (fun s i => s.modReq i fun r => { r with state := .verify }) s else s

/-- A bank-side group goes on as far as it can: what its pass has still to send, then, once the pass's sequences have all ended, the
next pass, layer or chain (R296, R298, R300). -/
def State.runGroup (gn : Nat) : Nat → State → State
  | 0, s => s
  | n + 1, s =>
    let g := s.group gn
    if g.abandoned.isSome || g.result.isSome then s
    else if !g.issue.isEmpty then State.sendIssues gn g.issue s
    else if !g.tags.isEmpty then s
    else
      match g.work with
      | [] => s
      | (model, vectors) :: _ =>
        State.runGroup gn n
          (if (s.mcEntry model).layers ≤ g.layer then s.endChain gn else s.startPass gn model vectors)

/-- Steps within which a group that can go on sends something: two for each pass of its chains. -/
def State.groupFuel (s : State) (g : Group) : Nat :=
  (g.work.map fun (m, v) => 2 * ((s.mcEntry m).layers + 1) * (v.length + 1)).sum + 1

/-- A group goes on. Of a dense group's draft steps, which its serving core runs, the manual gives no sign to the controller: at
which of the controller's moments before the result tile they are over is free (DESIGN CHOICE, log entry 85). -/
def State.issueLayer (s : State) (gn : Nat) : State :=
  let g := s.group gn
  if g.bankSide then State.runGroup gn (s.groupFuel g) s
  else if g.members.any fun i => (s.req i).state == .decode then
    let (late, s) := s.drawBelow 2
    if late = 0 then s else g.members.foldl (fun s i => s.modReq i fun r => { r with state := .verify }) s
  else s

/-- Every group that can goes on. -/
def State.issueAll (s : State) : State := s.srv.groups.keys.foldl (fun s g => s.issueLayer g) s

/-- SEQ_ADMIT -/
def execSeqAdmit (id : Nat) (u : Upset) (s : State) : Host.Outcome State Fault Refusal := .next ((s.seqAdmit id u).issueAll)

/-- SEQUENCE_END -/
def execSequenceEnd (id : Nat) (u : Upset) (s : State) : Host.Outcome State Fault Refusal := .next ((s.seqEnd id u).issueAll)

/-! ### Groups (R296, R297, R299, R300) -/

/-- Request a goes before request b: PRIO, then DEADLINE with 0 latest, then ADMIT. -/
def Request.before (a b : Request) : Bool :=
  let d (r : Request) : Nat := if r.deadline = 0 then 2 ^ 64 else r.deadline
  if a.prio != b.prio then decide (b.prio < a.prio)
  else if d a != d b then decide (d a < d b) else decide (a.admitTick < b.admitTick)

/-- A request takes its place among ordered ones. -/
def State.place1 (s : State) (i : Nat) : List Nat → List Nat
  | [] => [i]
  | j :: r => if (s.req i).before (s.req j) then i :: j :: r else j :: s.place1 i r

/-- A group is formed: its members enter their step, one without a draft in VERIFY at once, their entries are written, and the work
order waits at its port. A bank-side group's draft steps run one after another over the members that still draw, a chain for each draft
model among them, and its verification pass follows (R291, R300). -/
def State.formGroup (s : State) (p port : Nat) (members : List Nat) : State :=
  let first := s.req (members.headD 0)
  let prefill := first.len == 0
  let vectors := (members.map fun i => (s.req i).dlen + 1).foldl (· + ·) 0
  let bank := !prefill && decide (vectors ≤ s.srv.bsuMax)
  let drafts := if prefill then 0 else (members.map fun i => (s.req i).dlen).foldl max 0
  let kind := if prefill then 0 else if drafts = 0 then 2 else 1
  let steps := (List.range drafts).flatMap fun k =>
    let drawing := members.filter fun i => decide (k < (s.req i).dlen)
    ((drawing.map fun i => (s.req i).draft).eraseDups).map fun d => (d, drawing.filter fun i => (s.req i).draft == d)
  let whole := (first.model, members.flatMap fun i => List.replicate ((s.req i).dlen + 1) i)
  let gn := s.srv.nextGroup
  let va := (s.psrv p).kvaBase + s.listRun p members.length
  let pad := (members.map fun i => if prefill then (s.req i).prompt else (s.req i).dlen + 1).foldl max 0
  let tile := leBytes 4 gn ++ leBytes 1 kind ++ leBytes 1 first.model ++ leBytes 2 members.length ++ leBytes 8 va
    ++ leBytes 4 pad ++ List.replicate 108 0
  let s := s.submitBytes .device (s.listPa p va) (members.flatMap s.memberBytes) 0
  let s := members.foldl (fun s i => s.modReq i fun r =>
    { r with state := if prefill then .prefill else if r.dlen = 0 then .verify else .decode, reason := 0, group := some gn }) s
  let g : Group :=
    { pid := p, model := first.model, bankSide := bank, kind := kind, members := members, port := port, listVa := va,
      work := if bank then steps ++ [whole] else [], began := s.srv.tick }
  let s := s.modSrv fun x =>
    { x with nextGroup := (x.nextGroup + 1) % 2 ^ 32, groups := x.groups.put gn g,
             ports := x.ports.upd {} port fun q => { q with staged := q.staged ++ [(gn, tile)] } }
  s.issueLayer gn

/-- A ready request that no group took: one already decoding is PAUSED with reason PREEMPT, another stays QUEUED. -/
def State.leaveOut (s : State) (i : Nat) : State :=
  s.modReq i fun r => if r.len = 0 then { r with state := .queued, reason := 0 } else { r with state := .paused, reason := 3 }

/-- Groups are formed from ready requests of one partition, in order, while it has a free port. -/
def State.formGroups (p : Nat) : Nat → List Nat → State → State
  | 0, _, s => s
  | _ + 1, [], s => s
  | n + 1, i :: rest, s =>
    match (s.portsOf p).find? fun x => !s.portBusy x with
    | none => (i :: rest).foldl State.leaveOut s
    | some port =>
      let r := s.req i
      let same := (i :: rest).filter fun j => (s.req j).model == r.model && ((s.req j).len == 0) == (r.len == 0)
      let members := same.take s.srv.batchMax
      State.formGroups p n (rest.filter fun j => !members.contains j) (s.formGroup p port members)

/-! ### Boundaries (R303, R305, R306, R309) -/

/-- A model that a request names was unloaded. -/
def State.modelGone (s : State) (r : Request) : Bool :=
  (s.mcEntry r.model).state == .empty || (r.draft != 0xFF && (s.mcEntry r.draft).state == .empty)

/-- A request's draws without its draft model while that is not RESIDENT (R306). -/
def State.suspendDraft (s : State) (i : Nat) : State :=
  let r := s.req i
  if r.draft = 0xFF then s
  else if (s.mcEntry r.draft).state == .resident then
    if r.draftOff then s.modReq i fun r => { r with draftOff := false, dlen := r.dlenSubmit } else s
  else s.modReq i fun r => { r with draftOff := true, dlen := 0 }

/-- A request is PAUSED for a reason; a pause for pages sends PAGES_WAIT when it begins. -/
def State.pause (s : State) (i reason : Nat) : State :=
  let r := s.req i
  let first := r.state != .paused || r.reason != reason
  let s := s.modReq i fun r => { r with state := .paused, reason := reason, group := none }
  if reason = 1 && first then s.event Cls.srv Code.pagesWait Obs.ofSrv r.pid i 0 else s

/-- The last conditions of a boundary: the request is PAUSED, or is ready for its next step. -/
def State.readyOrPause (s : State) (i : Nat) : Bool × State :=
  let s := s.suspendDraft i
  let r := s.req i
  if (s.mcEntry r.model).state != .resident then (false, s.pause i 2)
  else
    let (commit, pages) := s.missingPages r
    match s.commitPages r.pid pages with
    | (false, s) => (false, s.pause i 1)
    | (true, s) =>
      let s := s.modReq i fun r => { r with commit := commit }
      if (s.portsOf r.pid).isEmpty then (false, s.pause i 5)
      else if (s.psrv r.pid).cplStore.length ≥ storeLimit then (false, s.pause i 4)
      else (true, s)

/-- A boundary is passed: STEPS, LAST, and the model's LAST tick (R290, R323). -/
def State.passBoundary (s : State) (i : Nat) : State :=
  let r := s.req i
  let t := s.srv.tick
  let s := s.modReq i fun r => { r with steps := (r.steps + 1) % 2 ^ 32, last := t }
  let s := s.modMc r.model fun x => { x with last := t }
  if r.draft = 0xFF then s else s.modMc r.draft fun x => { x with last := t }

/-- What is decided of a request at a boundary once its tokens are delivered, a step's failure among it. -/
def State.settleRequest (s : State) (i : Nat) (failed : Option Status) : Bool × State :=
  let r := s.req i
  if r.cancelReq then (false, s.endRequest i .cancelled Code.cancelled 0)
  else if r.deadline != 0 && r.deadline ≤ s.srv.tick then (false, s.endRequest i .expired Code.expired 0)
  else
    match failed with
    | some st => (false, s.endRequest i .faulted Code.stepFault st)
    | none => if s.modelGone r then (false, s.endRequest i .faulted Code.modelGone Code.modelGone) else s.readyOrPause i

/-- The tokens of a step, cut after the first stop token and at MAXLEN. -/
def cutTokens (stop room : Nat) : List Nat → List Nat
  | [] => []
  | t :: r => if room = 0 then [] else if t = stop && stop != 0xFFFFFFFF then [t] else t :: cutTokens stop (room - 1) r

/-- A member's tokens are delivered and its next state is decided. -/
def State.deliverTokens (s : State) (i : Nat) (tokens : List Nat) (accepted : Nat) (outWritten : Bool) : Bool × State :=
  let r := s.req i
  let new := cutTokens r.stop (r.maxlen - r.held) tokens
  if !new.isEmpty && !(outWritten && s.linkUp) then
    (false, (s.passBoundary i).endRequest i .faulted Code.ringFault Code.ringFault)
  else
    let s := if new.isEmpty then s else s.compWriteBytes (r.outPa + 4 * r.delivered) (new.flatMap (leBytes 4)) .ordered
    let s := (s.passBoundary i).modReq i fun r =>
      { r with len := r.held + new.length, delivered := r.delivered + new.length, accepted := (r.accepted + accepted) % 2 ^ 32 }
    let s := s.modPsrv r.pid fun x => { x with tokens := (x.tokens + new.length) % 2 ^ 64 }
    let r := s.req i
    let stopped := r.stop != 0xFFFFFFFF && new.getLast? == some r.stop
    if stopped || r.len = r.maxlen then (false, s.endRequest i .done Code.ok 0) else s.settleRequest i none

/-- A boundary that delivered tokens to a request with PROGRESS set gives one PROGRESS record, with the state the request has after the
boundary (R308). -/
def State.reportProgress (s : State) (i : Nat) : State :=
  let q := s.req i
  if q.progress && q.live && decide (q.reported < q.delivered) then
    (s.modReq i fun r => { r with reported := r.delivered }).complete q.pid
      { kind := 0, client := q.client, req := i, state := reqCode q.state, tokens := q.delivered,
        new := q.delivered - q.reported, steps := q.steps, accepted := q.accepted, admitTick := q.admitTick } none
  else s

/-- A member of a step that was abandoned: no tokens. A step that another failure ended faults it. -/
def State.abandonMember (s : State) (i : Nat) (st : Status) (damage : Bool) : Bool × State :=
  let s := s.passBoundary i
  s.settleRequest i (if damage || st = Code.stationOffline then none else some st)

/-- A member's result fields, read with an acquire from the step-list area. -/
def State.memberResult (s : State) (g : Group) (k : Nat) : Except Status (List Nat × Nat) × State :=
  let pa := s.listPa g.pid (g.listVa + 128 * k)
  let (a, s) := s.lineAwaited (pa / 64)
  let (b, s) := s.lineAwaited (pa / 64 + 1)
  match joinHalves a b with
  | .data x => (.ok (leList 4 (min 9 (leAt x 0x2A 1)) x 0x30, leAt x 0x2C 4), s)
  | .fault st => (.error st, s)
  | .wait => (.error Code.timeout, s)

/-- A request-table word with an uncorrectable error ends its request (R311). -/
def State.badEntry (s : State) (i : Nat) : State :=
  let r := s.req i
  let (w, s) := s.drawBelow 16
  let s := s.event Cls.clu Code.ueSram Obs.ofSrv 0xFF i 0
  if w = 0 then
    let s := (s.partitions.filter s.isServed).foldl (fun s p => s.event Cls.srv Code.ueSram Obs.ofSrv p i 0) s
    ((s.releasePages r.pid (s.regionPages r)).modSrv fun x => { x with table := x.table.drop i }).retirePfx r.pfx
  else if w = 5 || w = 6 then
    (s.modReq i fun r => { r with plane := 0 }).endRequest i .faulted Code.ueSram Code.ueSram
  else s.endRequest i .faulted Code.ueSram Code.ueSram

/-- The requests of a partition ready to step at a group's boundary besides its own members: those QUEUED, or PAUSED for PREEMPT alone,
whose conditions hold. One that is not ready changes nothing: this is no boundary of its own (R291, R297). -/
def State.otherReady (s : State) (p : Nat) (ready : List Nat) : List Nat × State :=
  let others := (s.liveOf p).filter fun i =>
    let r := s.req i
    !(ready.contains i) && (s.psrv p).reading != some i && (r.state == .queued || (r.state == .paused && r.reason == 3))
  others.foldl (fun (ready, s) i =>
    match s.readyOrPause i with
    | (true, s) => (ready ++ [i], s)
    | (false, _) => (ready, s)) (ready, s)

/-- A group's boundary: every member in turn, then groups from the partition's requests that are ready, then the PROGRESS records. -/
def State.groupBoundary (s : State) (gn : Nat) (outWritten : Bool) : State :=
  let g := s.group gn
  let bad : Option (Status × Bool) := match g.abandoned, g.result with
    | some a, _ => some a
    | none, some st => if st = Code.ok then none else some (st, false)
    | none, none => none
  let s := match bad with
    | some (st, _) => if st = Code.stationOffline then s.event Cls.srv Code.stationOffline Obs.ofSrv g.pid g.port 0 else s
    | none => s
  let s := s.modSrv fun x => { x with groups := x.groups.drop gn }
  let s := s.modPsrv g.pid fun x => { x with steps := (x.steps + 1) % 2 ^ 32 }
  let (ready, s) := ((List.range g.members.length).zip g.members).foldl (fun (ready, s) (k, i) =>
    if (s.req i).group != some gn then (ready, s)
    else
      let s := s.modReq i fun r => { r with group := none }
      let (ok, s) := match bad with
        | some (st, damage) => s.abandonMember i st damage
        | none =>
          match s.memberResult g k with
          | (.error st, s) => s.abandonMember i st false
          | (.ok (tokens, acc), s) => s.deliverTokens i tokens acc outWritten
      (if ok then ready ++ [i] else ready, s)) (([] : List Nat), s)
  let (ready, s) := s.otherReady g.pid ready
  let order := ready.foldl (fun l i => s.place1 i l) []
  (g.members.foldl State.reportProgress (State.formGroups g.pid (order.length + 1) order s)).pumpCompletions g.pid

/-- STEP_BOUNDARY: the controller takes a group's result tile, or passes the boundary of an abandoned step. -/
def execStepBoundary (gn : Nat) (outWritten : Bool) (u : Upset) (s : State) : Host.Outcome State Fault Refusal :=
  .next <|
    match s.srv.groups.seek gn with
    | none => s
    | some g =>
      if g.abandoned.isNone && g.result.isNone then s
      else
        let s := s.strike u
        let s := if u.parity then (match g.members with
          | i :: _ => s.badEntry i
          | [] => s) else s
        s.groupBoundary gn outWritten

/-- STEP_WATCHDOG: the step has run longer than its limit and is abandoned (R307). -/
def execStepWatchdog (gn : Nat) (s : State) : Host.Outcome State Fault Refusal :=
  .next <|
    match s.srv.groups.seek gn with
    | none => s
    | some g =>
      if s.srv.stepLimit = 0 || s.srv.tick ≤ g.began + s.srv.stepLimit * 10000 || g.result.isSome then s
      else (s.modGroup gn fun g => { g with abandoned := some (g.abandoned.getD (Code.timeout, false)) }).groupBoundary gn true

/-- A quantum boundary for a partition's requests in no step, and groups from those then ready. -/
def State.quantumServe (s : State) (p : Nat) : State :=
  let mine := (s.liveOf p).filter fun i => !(s.req i).inStep && (s.psrv p).reading != some i
  let (ready, s) := mine.foldl (fun (ready, s) i =>
    let (ok, s) := (s.passBoundary i).settleRequest i none
    (if ok then ready ++ [i] else ready, s)) (([] : List Nat), s)
  let order := ready.foldl (fun l i => s.place1 i l) []
  (State.formGroups p (order.length + 1) order s).pumpCompletions p

/-! ### The intake (R284 to R289, R348) -/

/-- The record a partition's intake expects next, where it is there. -/
def State.nextRecordOf (s : State) (p : Nat) : Option (List Byte) :=
  let x := s.psrv p
  if !(s.isServed p) || !x.cmdEnable || x.reading.isSome || x.cplStore.length ≥ storeLimit then none
  else (x.lines.seek x.cmdHead).bind fun b => if bit (leAt b 0 1) 0 == x.cmdPhase then some b else none

/-- The intake passes on to the next record. -/
def State.advance (s : State) (p : Nat) : State :=
  s.modPsrv p fun x =>
    let next := (x.cmdHead + 1) % 2 ^ x.cmdLog2
    { x with cmdHead := next, cmdPhase := if next = 0 then !x.cmdPhase else x.cmdPhase, reading := none }

/-- A record is refused, or answered with a NOTICE. -/
def State.answerRecord (s : State) (p kind : Nat) (b : List Byte) (st : Status) : State :=
  (s.advance p).complete p { kind := kind, status := st, client := leAt b 4 4 } none |>.pumpCompletions p

/-- Bytes of a record beyond those its kind uses are zero (R286). -/
def recordClean (b : List Byte) (used : Nat → Bool) : Bool :=
  bits (leAt b 0 1) 1 7 == 0 && (List.range 64).all fun i => i ≤ 1 || (4 ≤ i && i < 8) || used i || b.getD i 0 == 0

/-- The partition whose ring the intake serves next: of those with a record, the first in rotation after the one served last
(R285; log entry 88). -/
def State.nextRing (s : State) : Option Nat :=
  ((List.range 16).map fun k => (s.srv.lastServed + 1 + k) % 16).find? fun p => (s.nextRecordOf p).isSome

/-- The next record of a partition in its turn (R285), where it is of this kind, or of a reserved one, which any command refuses. -/
def State.takeRecord (s : State) (p kind : Nat) (f : List Byte → State → State) : State :=
  match s.nextRecordOf p with
  | none => s
  | some b =>
    let k := leAt b 1 1
    let t := s.modSrv fun x => { x with lastServed := p }
    if s.nextRing != some p then s
    else if 5 ≤ k then t.answerRecord p 2 b Code.reqInvalid else if k = kind then f b t else s

/-- NOP_RECORD -/
def execNopRecord (p : Nat) (s : State) : Host.Outcome State Fault Refusal :=
  .next (s.takeRecord p 0 fun b s =>
    if recordClean b fun _ => false then s.advance p else s.answerRecord p 2 b Code.reqInvalid)

/-- An FP32 number is finite and above 0. -/
def positiveFp32 (x : Nat) : Bool := 0 < x && x < 0x7F800000

/-- A SUBMIT as an entry (R287). -/
def parseSubmit (i : Image) (p : Nat) (b : List Byte) : Request :=
  let draft := leAt b 0x11 1
  let d := leAt b 0x12 1
  let dlen := if draft = 0xFF then 0 else if d = 0 then i.draftDef else d
  { state := .queued, pid := p, prio := leAt b 2 1, progress := bit (leAt b 3 1) 0, save := bit (leAt b 3 1) 1,
    greedy := bit (leAt b 3 1) 2, client := leAt b 4 4, maxlen := leAt b 8 4, prompt := leAt b 0x0C 4, model := leAt b 0x10 1,
    draft := draft, dlen := dlen, dlenSubmit := dlen, pfx := leAt b 0x14 2, saveHandle := leAt b 0x16 2,
    deadline := leAt b 0x18 8, inPa := leAt b 0x20 8, outPa := leAt b 0x28 8, temp := leAt b 0x30 4, topk := leAt b 0x34 2,
    seed := leAt b 0x38 4, stop := leAt b 0x3C 4 }

/-- Check 1 of R288. -/
def submitFormed (i : Image) (b : List Byte) (r : Request) : Bool :=
  bits (leAt b 0 1) 1 7 == 0 && leAt b 0x13 1 == 0 && leAt b 0x36 2 == 0 && leAt b 3 1 < 8 && r.prio ≤ 7 && r.prompt != 0
    && r.prompt < r.maxlen && r.model < 64 && (r.draft < 64 || r.draft == 0xFF)
    && (if r.draft = 0xFF then leAt b 0x12 1 == 0 else leAt b 0x12 1 ≤ i.draftMax)
    && (if r.save then r.saveHandle < i.prefixes else r.saveHandle == 0xFFFF) && (r.greedy || positiveFp32 r.temp)

/-- A model is used by a partition (R288, R325). -/
def State.usesModel (s : State) (p e : Nat) : Bool := (s.mcEntry e).state != .empty && bit (s.mcEntry e).users p

/-- The lowest-numbered FREE entry. -/
def State.freeEntry (s : State) : Option Nat :=
  ((List.range (s.srv.table.length + 1)).find? fun i => (s.req i).state == .free).bind fun i =>
    if i < s.srvImage.requests then some i else none

/-- Checks 1 to 6 of R288: the status of the first that fails, or the entry and the region's first arena page. -/
def State.checkSubmit (s : State) (p : Nat) (b : List Byte) (r : Request) : Except Status (Nat × Nat × Nat) :=
  let m := s.mcEntry r.model
  let x := s.pfx r.pfx
  let plane := ceilDiv (r.maxlen * m.planeBytes) pageBytes
  if !(submitFormed s.srvImage b r) then .error Code.reqInvalid
  else if !(s.usesModel p r.model) || (r.draft != 0xFF && !(s.usesModel p r.draft)) then .error Code.modelAbsent
  else if (r.pfx != 0xFFFF && (x.state != 1 || x.pid != p || x.model != r.model))
      || (r.save && (s.pfx r.saveHandle).state != 0) then .error Code.prefixInvalid
  else if m.ctx < (s.pfxOf r).1 + r.maxlen || !m.planeOk then .error Code.reqInvalid
  else
    match s.freeEntry with
    | none => .error Code.tableFull
    | some i =>
      match s.arenaRun p (2 * m.layers * plane) with
      | none => .error Code.kvSpace
      | some a => .ok (i, a, plane)

/-- SUBMIT: the record is checked and takes its entry and its region; its prompt is then read. -/
def execSubmit (p : Nat) (s : State) : Host.Outcome State Fault Refusal :=
  .next (s.takeRecord p 1 fun b s =>
    let r := parseSubmit s.srvImage p b
    match s.checkSubmit p b r with
    | .error st => s.answerRecord p 2 b st
    | .ok (i, a, plane) =>
      (s.modReq i fun _ =>
        { r with kvVa := (s.psrv p).kvaBase + a * pageBytes, plane := plane, layers := (s.mcEntry r.model).layers,
                 admitTick := s.srv.tick, last := s.srv.tick }).modPsrv p
        fun x => { x with reading := some i })

/-- PROMPT_READ_DONE: the prompt is in, or could not be read (check 7 of R288). -/
def execPromptReadDone (p : Nat) (tokens : Option (List Nat)) (s : State) : Host.Outcome State Fault Refusal :=
  .next <|
    match (s.psrv p).reading with
    | none => s
    | some i =>
      let r := s.req i
      match if s.linkUp then tokens else none with
      | none =>
        ((s.modSrv fun x => { x with table := x.table.drop i }).advance p).complete p
          { kind := 2, status := Code.ringFault, client := r.client } none |>.pumpCompletions p
      | some ts =>
        let s := (s.modReq i fun r => { r with tokens := ts }).advance p
        if (s.mcEntry r.model).state == .resident then s else s.pause i 2

/-- CANCEL_COMMAND: a request in a step finishes it; another ends at once (R304). -/
def execCancelCommand (p : Nat) (s : State) : Host.Outcome State Fault Refusal :=
  .next (s.takeRecord p 2 fun b s =>
    let hits := (s.liveOf p).filter fun i => (s.req i).client == leAt b 4 4
    if !(recordClean b fun _ => false) then s.answerRecord p 2 b Code.reqInvalid
    else if hits.isEmpty then s.answerRecord p 3 b Code.cancelNone
    else
      (hits.foldl (fun s i =>
        let s := s.modReq i fun r => { r with cancelReq := true }
        if (s.req i).inStep then s else s.endRequest i .cancelled Code.cancelled 0) (s.advance p)).pumpCompletions p)

/-- The region of a prefix is mapped in the partition's space, as R202 checks it. -/
def State.regionMapped (p : Nat) : List Nat → State → Bool × State
  | [], s => (true, s)
  | va :: r, s =>
    match s.awaiting (fun s => s.translate 0xC000 p va false) (fun
      | .error .wait => true
      | _ => false) with
    | (.ok (.dram _), s) => State.regionMapped p r s
    | (_, s) => (false, s)

/-- PREFIX_ADD. Of an entry with no model, which gives no planes, no region passes the checks of R202 (DESIGN CHOICE, log entry 87). -/
def execPrefixAdd (p : Nat) (s : State) : Host.Outcome State Fault Refusal :=
  .next (s.takeRecord p 3 fun b s =>
    let len := leAt b 8 4
    let model := leAt b 16 1
    let h := leAt b 20 2
    let va := leAt b 24 8
    let m := s.mcEntry model
    let plane := ceilDiv (len * m.planeBytes) pageBytes
    let clean := recordClean b fun i => (8 ≤ i && i < 12) || i == 16 || i == 20 || i == 21 || (24 ≤ i && i < 32)
    if !clean || 64 ≤ model then s.answerRecord p 2 b Code.reqInvalid
    else if h ≥ s.srvImage.prefixes || (s.pfx h).state != 0 || m.layers = 0 then s.answerRecord p 3 b Code.prefixInvalid
    else
      match State.regionMapped p ((List.range (2 * m.layers * plane)).map fun k => va + k * pageBytes) s with
      | (false, s) => s.answerRecord p 3 b Code.prefixInvalid
      | (true, s) =>
        (s.modPfx h fun _ =>
          { state := 1, pid := p, model := model, len := len, kvVa := va, client := leAt b 4 4 }).advance p)

/-- PREFIX_DEL -/
def execPrefixDel (p : Nat) (s : State) : Host.Outcome State Fault Refusal :=
  .next (s.takeRecord p 4 fun b s =>
    let h := leAt b 20 2
    if !(recordClean b fun i => i == 20 || i == 21) then s.answerRecord p 2 b Code.reqInvalid
    else if h ≥ s.srvImage.prefixes || (s.pfx h).state != 1 || (s.pfx h).pid != p then s.answerRecord p 3 b Code.prefixInvalid
    else ((s.modPfx h fun x => { x with state := 2 }).retirePfx h).advance p)

/-- The intake fetches a watched line and keeps it in the link cache while that caches companion lines (R344, R348). -/
def State.watchLine (s : State) (addr : Nat) (line : List Byte) : State :=
  let watched := (s.xl.cache.filter fun x => x.2.watched).length
  if bit s.xl.feat 1 && (watched < 1024 || s.xl.cache.any fun (a, x) => a == addr / 64 && x.watched) then
    s.linkKeep (addr / 64) { bytes := slice line 0 64, watched := true }
  else s

/-- A watched line is fetched, and the intake takes in what it says. -/
def State.watched (s : State) (w : Watched) (line : List Byte) : State :=
  match w with
  | .command p i =>
    if s.isServed p && (s.psrv p).cmdEnable && decide (i < 2 ^ (s.psrv p).cmdLog2) then
      (s.watchLine ((s.psrv p).cmdBase + 64 * i) line).modPsrv p fun x => { x with lines := x.lines.put i (slice line 0 64) }
    else s
  | .cplHead p =>
    let a := (s.psrv p).cplHeadPtr
    if s.isServed p && (s.psrv p).cplEnable then
      ((s.watchLine a line).modPsrv p fun x => { x with cplHead := leAt line (a % 64) 4 }).pumpCompletions p
    else s
  | .ringHead r =>
    let a := (s.ring r).headPtr
    if r < 16 && (s.ring r).enable then (s.watchLine a line).modRing r fun x => { x with head := leAt line (a % 64) 4 } else s

/-- WATCHED_LINE_INVALIDATE -/
def execWatchedLineInvalidate (w : Watched) (line : List Byte) (s : State) : Host.Outcome State Fault Refusal :=
  .next (if s.linkUp && !s.xl.rootPort then s.watched w line else s)

/-- WATCHED_LINE_POLL -/
def execWatchedLinePoll (lines : List (Watched × List Byte)) (s : State) : Host.Outcome State Fault Refusal :=
  .next (if s.linkUp && s.xl.rootPort then lines.foldl (fun s (w, b) => s.watched w b) s else s)

/-! ### Registers with commands of their own (R312) -/

/-- The management-window offset of a register of the SRV block. -/
def srvOffset (p off : Nat) : Nat := 0x50000 + 0x1000 + 0x100 * p + off

/-- A write to a partition's SRV register that reaches nothing: no image yet (R31), or a partition not in SERVED. -/
def State.srvRefused (s : State) (p off : Nat) : Option State :=
  if s.gram.image.isNone then some (s.recordAccess Code.noImage (srvOffset p off))
  else if p ≥ 16 || !(s.isServed p) then some (s.badValue (srvOffset p off))
  else none

/-- SRV_STATE.LAST_CMD_STATUS. -/
def State.srvStatus (s : State) (st : Status) : State := s.modSrv fun x => { x with lastCmd := st }

/-- A reserved value in a partition's register. -/
def State.srvBad (s : State) (p off : Nat) : State := (s.srvStatus Code.badValue).badValue (srvOffset p off)

/-- The partition has a live request. -/
def State.hasLive (s : State) (p : Nat) : Bool := s.srv.table.any fun (_, r) => r.pid == p && r.state != .free

/-- SRV_PEEK: the entries are snapshotted. -/
def State.srvPeek (s : State) (i h : Nat) : State :=
  s.modSrv fun x => { x with peekIndex := i, peekPfx := h, peekD := (s.req i).bytes, pfxD := s.pfxBytes h }

/-- SRV_PEEK -/
def execSrvPeek (i h : Nat) (s : State) : Host.Outcome State Fault Refusal :=
  .next (if s.gram.image.isNone then s.recordAccess Code.noImage 0x50020 else s.srvPeek (i % 4096) (h % 1024))

/-- An address lies in a region of R198: the stacks' space, slots of mapped-out channels included, a local-store window, or
the management space. -/
def State.inRegion (s : State) (pa : Nat) : Bool :=
  s.locate pa != .absent Code.addrRange || (decide (0xF000000000 ≤ pa) && decide (pa < 0xF000000000 + 192 * pageBytes))
    || (decide (0xFF00000000 ≤ pa) && decide (pa < 0xFF01000000))

/-- POOL_PUSH. An address outside the regions or in the reserve is refused with BAD_VALUE in LAST_CMD_STATUS alone: it breaks no rule of
the field's value, and R312 does not say that MGMT_ERR records it (DESIGN CHOICE, log entry 82). -/
def State.poolPush (s : State) (p addr : Nat) : State :=
  if addr % pageBytes != 0 then s.srvBad p 0x40
  else if !(s.inRegion addr) || s.inReserve addr then s.srvStatus Code.badValue
  else (s.modPsrv p fun x => { x with pool := x.pool ++ [addr] }).srvStatus Code.ok

/-- POOL_PUSH -/
def execPoolPush (p addr : Nat) (s : State) : Host.Outcome State Fault Refusal :=
  .next ((s.srvRefused p 0x40).getD (s.poolPush p addr))

/-- A write of CMD_BASE. -/
def State.writeCmdBase (s : State) (p v : Nat) : State :=
  if v % 4096 != 0 then s.srvBad p 0
  else if s.hasLive p || (s.psrv p).cmdEnable then s.srvStatus Code.badValue
  else s.modPsrv p fun x => { x with cmdBase := v % 2 ^ 64, cmdHead := 0, cmdPhase := true, lines := [] }

/-- A write of CMD_CFG: enabling the ring takes a pool page for the step-list area, which maps the arena's first page. -/
def State.writeCmdCfg (s : State) (p v : Nat) : State :=
  let x := s.psrv p
  let log2 := bits v 0 4
  if log2 < 4 || 12 < log2 then s.srvBad p 8
  else
    let s := if x.cmdEnable || log2 = x.cmdLog2 then s.modPsrv p fun x => { x with cmdLog2 := log2 }
      else s.modPsrv p fun x => { x with cmdLog2 := log2, cmdHead := 0, cmdPhase := true, lines := [] }
    if !bit v 4 then (s.modPsrv p fun x => { x with cmdEnable := false }).srvStatus Code.ok
    else if x.cmdEnable || x.stepPage.isSome then (s.modPsrv p fun x => { x with cmdEnable := true }).srvStatus Code.ok
    else
      match x.pool with
      | [] => s.srvStatus Code.kvSpace
      | pa :: rest =>
        let s := s.modPsrv p fun x =>
          { x with pool := rest, stepPage := some pa, kvUsed := x.kvUsed + 1, cmdEnable := true,
                   committed := x.committed.put (x.kvaBase / pageBytes) pa }
        (match s.leafSlot p x.kvaBase with
          | (some slot, s) => s.writeLeaf slot (some pa)
          | (none, s) => s).srvStatus Code.ok

/-- CMD_RING_CONFIG -/
def execCmdRingConfig (p : Nat) (base : Bool) (v : Nat) (s : State) : Host.Outcome State Fault Refusal :=
  .next ((s.srvRefused p (if base then 0 else 8)).getD (if base then s.writeCmdBase p v else s.writeCmdCfg p v))

/-- A write of CPL_BASE. -/
def State.writeCplBase (s : State) (p v : Nat) : State :=
  if v % 4096 != 0 then s.srvBad p 0x10
  else if s.hasLive p || (s.psrv p).cplEnable then s.srvStatus Code.badValue
  else s.modPsrv p fun x => { x with cplBase := v % 2 ^ 64, cplTail := 0, cplPhase := true, cplHead := 0 }

/-- A write of CPL_CFG. -/
def State.writeCplCfg (s : State) (p v : Nat) : State :=
  let x := s.psrv p
  let log2 := bits v 0 4
  if log2 < 4 || 12 < log2 then s.srvBad p 0x18
  else
    let s := if x.cplEnable || log2 = x.cplLog2 then s.modPsrv p fun x => { x with cplLog2 := log2 }
      else s.modPsrv p fun x => { x with cplLog2 := log2, cplTail := 0, cplPhase := true, cplHead := 0 }
    ((s.modPsrv p fun x => { x with cplEnable := bit v 4, cplIrq := bit v 5 }).srvStatus Code.ok).pumpCompletions p

/-- CPL_RING_CONFIG -/
def execCplRingConfig (p : Nat) (base : Bool) (v : Nat) (s : State) : Host.Outcome State Fault Refusal :=
  .next ((s.srvRefused p (if base then 0x10 else 0x18)).getD (if base then s.writeCplBase p v else s.writeCplCfg p v))

/-! ### A full image (R310) -/

/-- A full image replaces the one in force: every live request gets its END record, which goes out while its ring still
stands; then the block is as at reset. -/
def State.serveReload (s : State) : State :=
  let live := (s.srv.table.filter fun (_, r) => r.live).map (·.1)
  let s := live.foldl (fun s i => s.endRequest i .faulted Code.imageReload Code.imageReload) s
  let s := (List.range 16).foldl (fun s p => s.pumpCompletions p) s
  { s with srv := { state := s.srv.state, tick := s.srv.tick, ticking := s.srv.ticking } }

end Sys2Proof.Machine
end

