-- ==== Sys2Proof/Machine/ModelCache.lean ====
section
/-!
DEFINITION. The model cache: loads, replacement, and the MC_CMD commands (R321 to R325).
-/

namespace Sys2Proof.Machine

/-- The state with the SCHED block changed. -/
def State.modSched (s : State) (f : Sched → Sched) : State := { s with sched := f s.sched }

/-- A write to the SCHED block before an image reaches nothing (R31). -/
def State.schedRefused (s : State) (off : Nat) : Option State :=
  if s.gram.image.isNone then some (s.recordAccess Code.noImage (0x60000 + off)) else none

/-- MC_STATUS.LAST_CMD_STATUS. -/
def State.mcStatus (s : State) (st : Status) : State := s.modSched fun x => { x with mcLastCmd := st }

/-! ### Pages of the region (R49, R322, R323) -/

/-- Every page of the model-cache region. -/
def State.regionPageList (s : State) : List Nat :=
  s.modelRegions.flatMap fun (a, b) => (List.range ((b - a) / pageBytes)).map (a / pageBytes + ·)

/-- The pages of the region that no entry holds. -/
def State.freePages (s : State) : List Nat :=
  let held := s.sched.mc.flatMap fun (_, x) => x.pageList
  s.regionPageList.filter fun p => !held.contains p

/-- A request that is not FREE names the entry. -/
def State.namedEntry (s : State) (e : Nat) : Bool :=
  s.srv.table.any fun (_, r) => r.state != .free && (r.model == e || r.draft == e)

/-- The entry is the BASE of a model that is resident. -/
def State.baseInUse (s : State) (e : Nat) : Bool :=
  s.sched.mc.any fun (_, y) => (y.state == .resident || y.state == .damaged) && y.base == e

/-- A load may evict the entry (R323). -/
def State.evictable (s : State) (e : Nat) (x : McEntry) : Bool :=
  x.state == .resident && !x.pinned && !(s.namedEntry e) && !(s.baseInUse e)

/-- An entry gives up its pages and keeps its description (R324). -/
def McEntry.evict (x : McEntry) : McEntry :=
  { x with state := .evicted, pageList := [], damaged := [], failed := [], lost := false }

/-- The evictable entry used longest ago. -/
def State.oldestEntry (s : State) : Option Nat :=
  let es := s.sched.mc.filter fun (e, x) => s.evictable e x
  match (es.map fun (_, x) => x.last).min? with
  | none => none
  | some t => (es.find? fun (_, x) => x.last == t).map (·.1)

/-- Entries are evicted until enough pages are free; none if that cannot be. -/
def State.makeRoom (pages : Nat) : Nat → State → Option State
  | 0, s => if pages ≤ s.freePages.length then some s else none
  | n + 1, s =>
    if pages ≤ s.freePages.length then some s
    else
      match s.oldestEntry with
      | none => none
      | some e => State.makeRoom pages n (s.modMc e McEntry.evict)

/-- The stack a page begins on. -/
def State.pageStack (s : State) (page : Nat) : Nat :=
  match s.locate (page * pageBytes) with
  | .cell g _ => g / 32
  | .absent _ => 12

/-- Under HASH 2 the free pages of the stack that comes after the last page's; all of them otherwise. -/
def State.candidates (s : State) (free : List Nat) : List Nat :=
  match s.gram.image, s.sched.mcLastStack with
  | some i, some last =>
    if i.hash != 2 then free
    else
      match (List.range 12).map (fun d => (last + d + 1) % 12) |>.find? fun n => free.any fun p => s.pageStack p == n with
      | none => free
      | some n => free.filter fun p => s.pageStack p == n
  | _, _ => free

/-- Pages are taken for a load. Which of the candidates is taken the manual leaves open: a free value. -/
def State.takePages : Nat → List Nat → State → List Nat × State
  | 0, _, s => ([], s)
  | n + 1, free, s =>
    match s.candidates free with
    | [] => ([], s)
    | c :: cs =>
      let (i, s) := s.drawBelow (c :: cs).length
      let p := (c :: cs).getD i c
      let s := s.modSched fun x => { x with mcLastStack := some (s.pageStack p) }
      let (r, s) := State.takePages n (free.erase p) s
      (p :: r, s)

/-! ### Loads -/

/-- Step 1 of a load: pages are taken for a described entry, evicting if needed (R322). -/
def State.startLoad (s : State) (e : Nat) (d : McEntry) : Status × State :=
  match State.makeRoom d.pages 64 s with
  | none => (Code.capacity, s)
  | some s =>
    let (pages, s) := State.takePages d.pages s.freePages s
    (Code.ok, (s.modMc e fun _ => { d with state := .loading, pageList := pages, damaged := [], failed := [], lost := false }).modSched
      fun x => { x with mcBusy := some e, mcJobList := x.mcList })

/-- The description the MC registers give. -/
def Sched.description (x : Sched) (pinned : Bool) : McEntry :=
  { pinned := pinned, pages := x.mcPages, users := x.mcUsers, base := x.mcBase, layers := x.mcLayers, src := x.mcSrc, ctx := x.mcCtx,
    kvt := x.mcKvt, srcKind := x.mcSrcKind, srcPid := x.mcSrcPid }

/-- A description holds no reserved value. -/
def McEntry.sound (d : McEntry) : Bool :=
  decide (d.pages ≠ 0) && decide (d.layers ≠ 0) && decide (d.srcKind ≤ 1) && (decide (d.base < 64) || d.base == 0xFF)

/-- LOAD (R322). -/
def State.mcLoad (s : State) (e : Nat) : State :=
  let x := s.mcEntry e
  let d := if s.sched.mcPages = 0 then x else s.sched.description x.pinned
  if s.sched.mcBusy.isSome then s.mcStatus Code.loadBusy
  else if !(x.state == .empty || x.state == .evicted) || (s.sched.mcPages == 0 && x.state == .empty) || !d.sound then
    s.mcStatus Code.badValue
  else
    let (st, s) := s.startLoad e d
    s.mcStatus st

/-- MC_LOAD -/
def execMcLoad (e : Nat) (s : State) : Host.Outcome State Fault Refusal :=
  .next ((s.schedRefused 0x100).getD (s.mcLoad (e % 64)))

/-- Lines of a 2 MiB page. -/
abbrev pageLines : Nat := 32768

/-- The source of a load read from device virtual memory, line by line: the lines, or the first status met. -/
def State.readSource (p va : Nat) : Nat → State → Except SeqHalt (List (List Byte)) × State
  | 0, s => (.ok [], s)
  | n + 1, s =>
    match s.srvRead p va 64 with
    | (.error h, s) => (.error h, s)
    | (.ok b, s) =>
      match State.readSource p (va + 64) n s with
      | (.ok r, s) => (.ok (b :: r), s)
      | (.error h, s) => (.error h, s)

/-- A model's pages take its bytes, line by line at the base dies. -/
def State.fillPages (s : State) (pages : List Nat) (line : Nat → List Byte) : State :=
  (List.range (pages.length * pageLines)).foldl (fun s i =>
    s.submit { writer := .device, line := pages.getD (i / pageLines) 0 * pageLines + i % pageLines, bytes := line i,
               mask := fullMask }) s

/-- A load fails: the entry becomes EVICTED. -/
def State.loadFailed (s : State) (e : Nat) : State :=
  let s := (s.modMc e McEntry.evict).modSched fun x => { x with mcBusy := none, mcLastCmd := Code.fetchFault }
  s.event Cls.sched Code.fetchFault Obs.ofSched 0xFF e 0

/-- Steps 2 and 3 of a load: the bytes are copied, the page list is written and the entry is RESIDENT. -/
def State.loadDone (s : State) (e : Nat) (bytes : Option (List (Nat × Byte))) (listWritten : Bool) : State :=
  let x := s.mcEntry e
  let lines := x.pageList.flatMap fun p => (List.range pageLines).map (p * pageLines + ·)
  let sleepers := s.asleepAmong lines
  if !sleepers.isEmpty then s.awaitStacks sleepers
  else
    let source : Except SeqHalt (Nat → List Byte) × State :=
      if x.srcKind = 0 then
        (if s.linkUp then
          match bytes with
          | none => .error (.fault Code.fetchFault 0)
          | some b => .ok fun i => (List.range 64).map fun k => Tbl.look 0 b (64 * i + k)
         else .error (.fault Code.fetchFault 0), s)
      else
        let (r, s) := State.readSource x.srcPid x.src (x.pages * pageLines) s
        (r.map fun l i => l.getD i [], s)
    match source with
    | (.error .wait, s) => s
    | (.error (.fault _ _), s) => s.loadFailed e
    | (.ok line, s) =>
      let s := s.fillPages x.pageList line
      if !(listWritten && s.linkUp) then s.loadFailed e
      else
        let s := s.compWriteBytes s.sched.mcJobList (x.pageList.flatMap fun p => leBytes 8 (p * pageBytes)) .ordered
        let s := (s.modMc e fun x => { x with state := .resident, last := s.srv.tick }).modSched fun x => { x with mcBusy := none }
        s.event Cls.sched Code.ok Obs.ofSched 0xFF e 0

/-! ### The other commands (R323, R324) -/

/-- EVICT gives up an entry's pages; a LOADING entry becomes RESIDENT or EVICTED by its load alone (R321). -/
def State.mcEvict (s : State) (e : Nat) : State :=
  match (s.mcEntry e).state with
  | .loading => s.mcStatus Code.badValue
  | .empty => s.mcStatus Code.ok
  | .evicted => s.mcStatus Code.ok
  | _ => (s.modMc e McEntry.evict).mcStatus Code.ok

/-- MC_EVICT -/
def execMcEvict (e : Nat) (s : State) : Host.Outcome State Fault Refusal :=
  .next ((s.schedRefused 0x100).getD (s.mcEvict (e % 64)))

/-- UNLOAD empties the entry. -/
def State.mcUnload (s : State) (e : Nat) : State :=
  if (s.mcEntry e).state = .loading then s.mcStatus Code.badValue
  else (s.modSched fun x => { x with mc := x.mc.drop e }).mcStatus Code.ok

/-- MC_UNLOAD -/
def execMcUnload (e : Nat) (s : State) : Host.Outcome State Fault Refusal :=
  .next ((s.schedRefused 0x100).getD (s.mcUnload (e % 64)))

/-- MC_PIN -/
def execMcPin (e : Nat) (s : State) : Host.Outcome State Fault Refusal :=
  .next ((s.schedRefused 0x100).getD ((s.modMc (e % 64) fun x => { x with pinned := true }).mcStatus Code.ok))

/-- MC_UNPIN -/
def execMcUnpin (e : Nat) (s : State) : Host.Outcome State Fault Refusal :=
  .next ((s.schedRefused 0x100).getD ((s.modMc (e % 64) fun x => { x with pinned := false }).mcStatus Code.ok))

/-- MC_TOUCH -/
def execMcTouch (e : Nat) (s : State) : Host.Outcome State Fault Refusal :=
  .next ((s.schedRefused 0x100).getD ((s.modMc (e % 64) fun x => { x with last := s.srv.tick }).mcStatus Code.ok))

end Sys2Proof.Machine
end

