-- ==== Sys2Proof/Machine/Schedule.lean ====
section
/-!
DEFINITION. Switches of clusters, phase commands and rebalancing, cores taken offline, and the class counters (R315 to R319,
R326 to R334).
-/

namespace Sys2Proof.Machine

/-- SCHED_STATE.LAST_CMD_STATUS. -/
def State.schedStatus (s : State) (st : Status) : State := s.modSched fun x => { x with lastCmd := st }

/-! ### Orders of a decision window (R392) -/

/-- The rank of an order: 1 physical presence, 2 the board management controller, 3 the companion, 4 a fabric peer. -/
def State.rank (s : State) (by_ : Master) : Nat :=
  if s.sec.presence then 1 else match by_ with
    | .bmc => 2
    | .peer _ _ => 4
    | .companion => 3
    | .controlCore _ => 3

/-- An order joins its decision window. Objects: 0 SCHED_PHASE, 1 to 4 the fields WARN, THROTTLE, SHUT and RISE. -/
def State.order (s : State) (by_ : Master) (psn : Option Nat) (object value : Nat) : State :=
  let o : Order := { rank := s.rank by_, by_ := by_, object := object, value := value, psn := psn }
  { s with pwr := { s.pwr with orders := s.pwr.orders ++ [o] } }

/-! ### Phase commands (R330) -/

/-- A write of SCHED_PHASE: an order of its decision window. -/
def State.phaseCommand (s : State) (by_ : Master) (psn : Option Nat) (plan : Nat) : State :=
  match s.gram.image.bind fun i => i.phas.find? (·.plan == plan) with
  | none => s.schedStatus Code.badValue
  | some _ => (s.order by_ psn 0 plan).schedStatus Code.ok

/-- PHASE_COMMAND -/
def execPhaseCommand (by_ : Master) (plan : Nat) (s : State) : Host.Outcome State Fault Refusal :=
  .next ((s.schedRefused 4).getD (s.phaseCommand by_ none (plan % 8)))

/-- A phase command is taken: it runs, or is held behind the one that runs. -/
def State.takePhase (s : State) (plan : Nat) : State :=
  s.modSched fun x => if x.phaseBusy.isSome then { x with phaseHeld := some plan } else { x with phaseBusy := some plan }

/-- A plan's shares and power split are in force, the counts of R317 cleared (R316, R330, R331). -/
def State.planInForce (s : State) (plan : Nat) : State :=
  match s.gram.image.bind fun i => i.phas.find? (·.plan == plan) with
  | none => s
  | some r =>
    let s := s.partitions.foldl (fun s p => s.modPsched p fun x => { x with share := r.shares.getD p 0 }) s
    { s with stk := s.stk.map fun (n, x) => (n, { x with shareCycles := [] }),
             pwr := { s.pwr with split := [r.bsuPm, r.portPm, r.cluPm] },
             sched := { s.sched with plan := plan } }

/-- PHASE_COMMAND_DONE -/
def execPhaseCommandDone (s : State) : Host.Outcome State Fault Refusal :=
  .next <|
    match s.sched.phaseBusy with
    | none => s
    | some plan =>
      let s := (s.planInForce plan).modSched fun x =>
        { x with phaseBusy := x.phaseHeld, phaseHeld := none, rebalancing := x.rebal }
      s.event Cls.sched Code.ok Obs.ofSched 0xFF plan 0

/-! ### Switches: their start (R326) -/

/-- A partial image for a partition waits for its quantum boundary. -/
def State.partialWaits (s : State) (p : Nat) : Bool :=
  match s.gram.pending with
  | none => false
  | some i => i.target == p

/-- Why a switch is refused (R326, R328). -/
def State.switchRefusal (s : State) (c q : Nat) : Option Status :=
  match s.clusterPid c with
  | none => some Code.resourceConflict
  | some p =>
    if !(s.defined q) || p == q || (s.sched.switching.seek c).isSome || s.partialWaits p || s.partialWaits q then
      some Code.resourceConflict
    else if !(s.srvImage.weightSwitch) && ((s.psched p).saveVa == 0 || (s.psched q).saveVa == 0) then some Code.badValue
    else none

/-- SCHED_SWLAST takes the end of a switch. -/
def State.switchEnded (s : State) (c source target : Nat) (st : Status) : State :=
  let kind := b2n s.srvImage.weightSwitch
  s.modSched fun x => { x with swCluster := c, swFrom := source, swTo := target, swKind := kind, swStatus := st }

/-- A switch is ordered: accepted under step 1 of R327, or refused. -/
def State.startSwitch (s : State) (c q : Nat) : Status × State :=
  match s.switchRefusal c q with
  | some st => (st, s.switchEnded c ((s.clusterPid c).getD 0) q st)
  | none =>
    (Code.ok, s.modSched fun x =>
      { x with switching := x.switching.put c { source := (s.clusterPid c).getD 0, target := q, began := s.srv.tick } })

/-- CLUSTER_SWITCH -/
def execClusterSwitch (c target : Nat) (s : State) : Host.Outcome State Fault Refusal :=
  .next ((s.schedRefused 0x10).getD (let (st, s) := s.startSwitch (c % 16) (target % 16); s.schedStatus st))

/-! ### The drain (R327) -/

/-- A verb in flight on a cluster: started and not completed, in a queue that has not faulted. -/
def State.verbsInFlight (s : State) (c : Nat) : Bool :=
  (List.range 12).any fun k =>
    let x := s.core c k
    [Queue.m, .v, .s, .d].any fun q => !(x.halted.get q) && (x.queues.get q).any (·.phase != .waiting)

/-- The bound stream ports of core k of cluster c. -/
def State.boundPorts (s : State) (c k : Nat) : Tbl Port := (s.core c k).ports.filter fun (_, p) => p.producer || p.consumer

/-- A tile is in flight at a port (R82). -/
def State.portInFlight (s : State) (c k n : Nat) (p : Port) : Bool :=
  (p.producer && !(p.staged.isEmpty && p.unacked.isEmpty)) || (p.consumer && s.tileTo (coreStation c k + n))

/-- A binding is undone as by UNBIND (R82): a consumer's credits are revoked; a producer keeps those it holds. -/
def State.undoBinding (s : State) (c k n : Nat) : State :=
  let p := (s.core c k).port n
  let self := coreStation c k + n
  let s := s.modCore c k fun x => x.modPort n fun p => { credits := p.credits }
  if p.consumer then
    match station p.peer with
    | .flow _ _ => s
    | _ => State.revokeCredits { s with transit := s.transit.filter (· != .credit self p.peer) } p.peer self
  else
    match station p.peer with
    | .unit f m 0 => s.modChan f m fun x => { x with intakeBound := x.intakeBound.erase self }
    | _ => s

/-- Every binding of a cluster that holds no tile in flight is undone. -/
def State.undoBindings (s : State) (c : Nat) : State :=
  (List.range 12).foldl (fun s k =>
    (s.boundPorts c k).foldl (fun s (n, p) => if s.portInFlight c k n p then s else s.undoBinding c k n) s) s

/-- The drain of a cluster has ended: no step, no verb and no tile is in flight. -/
def State.drained (s : State) (c : Nat) : Bool :=
  s.clusterHeld c && !(s.verbsInFlight c)
    && (List.range 12).all fun k => (s.boundPorts c k).all fun (n, p) => !(s.portInFlight c k n p)

/-- The next load of a weight switch starts while no load runs; one that finds no room leaves its entry EVICTED (R329). -/
def State.nextLoads : Nat → State → State
  | 0, s => s
  | n + 1, s =>
    if s.sched.mcBusy.isSome then s
    else
      match s.sched.switching.find? fun (_, w) => w.moving && !w.loads.isEmpty with
      | none => s
      | some (c, w) =>
        match w.loads with
        | [] => s
        | e :: r =>
          let (st, s) := s.startLoad e (s.mcEntry e)
          if st = Code.ok then s
          else State.nextLoads n (s.modSched fun x => { x with switching := x.switching.put c { w with loads := r } })

/-- SWITCH_DRAIN_DONE -/
def execSwitchDrainDone (c : Nat) (s : State) : Host.Outcome State Fault Refusal :=
  .next <|
    match s.sched.switching.seek c with
    | none => s
    | some w =>
      if w.moving || !(s.drained c) then s
      else
        let bindings := (List.range 12).map fun k => (k, s.boundPorts c k)
        let loads := if s.srvImage.weightSwitch then
            (s.sched.mc.filter fun (_, x) => x.state == .evicted && bit x.users w.target).map (·.1)
          else []
        let s := (s.undoBindings c).modSched fun x =>
          { x with switching := x.switching.put c { w with moving := true, ports := bindings, loads := loads } }
        State.nextLoads 64 s

/-- SWITCH_DRAIN_TIMEOUT: the cores resume for the source; the bindings undone by then, those without a tile in flight
once every verb had completed, stay undone. -/
def execSwitchDrainTimeout (c : Nat) (s : State) : Host.Outcome State Fault Refusal :=
  .next <|
    match s.sched.switching.seek c with
    | none => s
    | some w =>
      if w.moving || s.drained c then s
      else
        let s := if s.clusterHeld c && !(s.verbsInFlight c) then s.undoBindings c else s
        let s := s.modSched fun x => { x with switching := x.switching.drop c }
        (s.switchEnded c w.source w.target Code.timeout).event Cls.sched Code.timeout Obs.ofSched w.source c 0

/-- MODEL_LOAD_DONE: the load ends, and the next one of a weight switch begins. -/
def execModelLoadDone (bytes : Option (List (Nat × Byte))) (listWritten : Bool) (s : State) : Host.Outcome State Fault Refusal :=
  .next <|
    match s.sched.mcBusy with
    | none => s
    | some e =>
      let s := s.loadDone e bytes listWritten
      if s.sched.mcBusy.isSome then s
      else State.nextLoads 64 <| s.modSched fun x =>
        { x with switching := x.switching.map fun (c, w) => (c, { w with loads := w.loads.filter (· != e) }) }

/-! ### The move (R328, R329) -/

/-- A READY bank keeps its content; any other is EMPTY. -/
def IBank.kept (b : IBank) : IBank := if b.state = .ready then b else { src := b.src, len := b.len }

/-- The state of a core that a state switch saves. -/
def CoreSt.saved (x : CoreSt) (ports : Tbl Port) : CoreSt :=
  { x with localStore := x.localStore.filter fun (a, _) => bit x.lsLive (a / 0x10000),
           banks := x.banks.filter fun (_, b) => b.kind != .none, ib0 := x.ib0.kept, ib1 := x.ib1.kept, ports := ports }

/-- A queue's waiting verbs, to be decoded afresh. -/
def waitingVerbs (es : List QEntry) : List QEntry :=
  (es.filter (·.phase == .waiting)).map fun e => { verb := e.verb, word := e.word, bank := e.bank, badName := e.badName, id := e.id }

/-- A restored binding: a producer takes up the credits its port holds for its consumer. -/
def restorePort (held p : Port) : Port :=
  { p with credits := if p.producer then held.credits.filter (·.1 == p.peer) else [], staged := [], unacked := [], revoking := false, landing := none }

/-- A core takes a saved state: the live segments of its local store, and everything else as saved. One that was OFFLINE when it was
saved had no work, and starts QUIESCENT where the core is in service (R332). -/
def CoreSt.restore (x y : CoreSt) : CoreSt :=
  let dead := x.localStore.filter fun (a, _) => !bit y.lsLive (a / 0x10000)
  { y with localStore := y.localStore.foldl (fun m (a, b) => Memory.write m a b) dead, lsBad := x.lsBad, sent := x.sent,
           disp := { y.disp with nextId := max x.disp.nextId y.disp.nextId },
           queues := ⟨waitingVerbs y.queues.m, waitingVerbs y.queues.v, waitingVerbs y.queues.s, waitingVerbs y.queues.d⟩,
           ports := y.ports.map fun (n, p) => (n, restorePort (x.port n) p),
           run := if x.run = .offline then .offline else if y.run = .offline then .quiescent else y.run }

/-- A core that starts for a partition without restored state: QUIESCENT, with empty banks. -/
def CoreSt.fresh (x : CoreSt) : CoreSt :=
  { localStore := x.localStore, lsBad := x.lsBad, sent := x.sent, disp := { nextId := x.disp.nextId },
    ports := x.ports.map fun (n, p) => (n, { credits := p.credits }), run := if x.run = .offline then .offline else .quiescent }

/-- Restored bindings of a core reach their peers: a consumer grants one credit for each free slot. -/
def State.regrant (s : State) (c k : Nat) : State :=
  (s.boundPorts c k).foldl (fun s (n, p) =>
    let self := coreStation c k + n
    if p.consumer then s.sendCredits (pidField (s.corePid c k)) self p.peer (p.slots - p.arrived)
    else
      match station p.peer with
      | .unit f m 0 => s.modChan f m fun x => { x with intakeBound := x.intakeBound ++ [self] }
      | _ => s) s

/-- The cores of a cluster in a core set. -/
def clusterCores (mask c : Nat) : List Nat := (List.range 12).filter fun k => bit mask (12 * c + k)

/-- The content of a switch moves and the core sets change (step 4 of R327). -/
def State.moveCluster (s : State) (c : Nat) (w : Switch) : State :=
  let s := (s.cluster c).cache.keys.foldl (fun s l => s.writeBackLine c l (.cache c) 0 true) s
  let ks := clusterCores (s.psched w.source).cores c
  let part := bits (s.psched w.source).cores (12 * c) 12 * 2 ^ (12 * c)
  let cl := s.cluster c
  let weight := s.srvImage.weightSwitch
  let slot := if weight then none else s.sched.saved.seek (16 * w.target + c)
  let out : SaveSlot := { cores := (List.range 12).map fun k => (s.core c k).saved (w.ports.look [] k),
                          ccRunning := cl.ccRunning, ccEntry := cl.ccEntry, ccData := cl.ccData }
  let s := if weight then s else s.modSched fun x => { x with saved := x.saved.put (16 * w.source + c) out }
  let s := ks.foldl (fun s k =>
    match slot with
    | some y =>
      let s := s.modCore c k fun x => x.restore (y.cores.getD k {})
      if (s.core c k).run = .running || (s.core c k).run = .draining then s.clockRuns c k else s
    | none => s.modCore c k CoreSt.fresh) s
  let s := (s.modPsched w.source fun x => { x with cores := x.cores - part }).modPsched w.target fun x => { x with cores := x.cores + part }
  let s := s.modCluster c fun x =>
    match slot with
    | some y => { x with ccRunning := y.ccRunning, ccEntry := y.ccEntry, ccData := y.ccData, reservation := none, irq := false, ccFault := none }
    | none => { x with ccRunning := true, ccEntry := (s.psched w.target).ccEntry, ccData := 0, reservation := none, irq := false, ccFault := none }
  if slot.isSome then ks.foldl (fun s k => s.regrant c k) s else s

/-- SWITCH_MOVE_DONE: the move and step 5 of R327. -/
def execSwitchMoveDone (c : Nat) (s : State) : Host.Outcome State Fault Refusal :=
  .next <|
    match s.sched.switching.seek c with
    | none => s
    | some w =>
      if !w.moving || !w.loads.isEmpty then s
      else
        let s := (s.moveCluster c w).switchEnded c w.source w.target Code.ok
        let s := s.modSched fun x =>
          { x with switching := x.switching.drop c, swTime := (s.srv.tick + 2 ^ 64 - w.began) % 2 ^ 32 }
        s.event Cls.sched Code.ok Obs.ofSched w.target c 0

/-! ### Rebalancing (R330) -/

/-- The partition that holds a cluster, or will hold it once its switch ends. -/
def State.holder (s : State) (c : Nat) : Option Nat :=
  match s.sched.switching.seek c with
  | some w => some w.target
  | none => s.clusterPid c

/-- The clusters partition p holds. -/
def State.clustersOf (s : State) (p : Nat) : List Nat := (List.range 16).filter fun c => s.holder c == some p

/-- Each partition's number, its clusters and its target. -/
def State.targets (s : State) : List (Nat × Nat × Nat) :=
  let ps := s.partitions
  let share (p : Nat) : Nat := (s.psched p).share
  let sum := (ps.map share).foldl (· + ·) 0
  let h := ((List.range 16).filter fun c => (s.holder c).isSome).length
  let floor_ (p : Nat) : Nat := if sum = 0 then 0 else h * share p / sum
  let rem (p : Nat) : Nat := if sum = 0 then 0 else h * share p % sum
  let left := h - (ps.map floor_).foldl (· + ·) 0
  let before (p : Nat) : Nat := (ps.filter fun q => rem p < rem q || (rem p == rem q && q < p)).length
  ps.map fun p => (p, (s.clustersOf p).length, floor_ p + if before p < left then 1 else 0)

/-- The member with the greatest measure, ties to the lower number. -/
def furthest (l : List (Nat × Nat)) : Option (Nat × Nat) :=
  l.foldl (fun best x => match best with
    | none => if x.2 = 0 then none else some x
    | some y => if y.2 < x.2 || (y.2 == x.2 && x.1 < y.1 && x.2 != 0) then some x else some y) none

/-- The next switch of a rebalance. -/
def State.nextMove (s : State) : Option (Nat × Nat) :=
  match furthest (s.targets.map fun (p, n, t) => (p, n - t)), furthest (s.targets.map fun (p, n, t) => (p, t - n)) with
  | some (p, _), some (q, _) =>
    match ((s.clustersOf p).filter fun c => (s.sched.switching.seek c).isNone).getLast? with
    | none => none
    | some c => some (c, q)
  | _, _ => none

/-- Up to n switches of a rebalance are ordered. -/
def State.rebalance : Nat → State → State
  | 0, s => s
  | n + 1, s =>
    match s.nextMove with
    | none => s
    | some (c, q) => State.rebalance n (s.startSwitch c q).2

/-- The rebalance of a completed phase command goes on at a quantum boundary, until no cluster is misplaced. -/
def State.rebalanceNow (s : State) : State :=
  if !s.sched.rebal || !s.sched.rebalancing then s
  else
    let s := State.rebalance s.sched.moves s
    if s.targets.all fun (_, n, t) => n == t then s.modSched fun x => { x with rebalancing := false } else s

/-! ### Cores offline, class counters (R332, R334) -/

/-- SCHED_CORE. -/
def State.coreOffline (s : State) (c k : Nat) : State :=
  if k ≥ 12 then (s.schedStatus Code.badValue).recordAccess Code.badValue 0x60014
  else if !(s.corePresent c k) then s.schedStatus Code.resourceAbsent
  else ((s.takeOffline c k).schedStatus Code.ok).event Cls.sched Code.stationOffline Obs.ofSched (pidField (s.corePid c k))
    (12 * c + k) 0

/-- CORE_OFFLINE -/
def execCoreOffline (c k : Nat) (s : State) : Host.Outcome State Fault Refusal :=
  .next ((s.schedRefused 0x14).getD (s.coreOffline (c % 16) (k % 16)))

/-- ACCT_CLR. -/
def State.acctClr (s : State) (p classes : Nat) : State :=
  if !(s.defined p) then s.recordAccess Code.badValue (0x61050 + 0x100 * p)
  else s.modPsched p fun x =>
    { x with acctM := if bit classes 0 then 0 else x.acctM, acctV := if bit classes 1 then 0 else x.acctV,
             acctD := if bit classes 2 then 0 else x.acctD, acctB := if bit classes 3 then 0 else x.acctB }

/-- ACCT_CLR -/
def execAcctClr (p classes : Nat) (s : State) : Host.Outcome State Fault Refusal :=
  .next ((s.schedRefused (0x1050 + 0x100 * (p % 16))).getD (s.acctClr (p % 16) classes))

end Sys2Proof.Machine
end

