-- ==== Sys2Proof/Machine/Fabric.lean ====
section
/-!
DEFINITION. Fabric ports and flows: bring-up and failure of a port, opening, hello, closing and failure of a flow (R358 to
R362, R367, R372, R373, R375).
-/

namespace Sys2Proof.Machine

/-- The management-window offset of a register of a fabric port. -/
def fabOffset (f off : Nat) : Nat := 0x100000 + f * 0x10000 + off

/-- A write to a FAB block that reaches nothing: an absent port (R375), or no image yet (R31). -/
def State.fabRefused (s : State) (f off : Nat) : Option State :=
  if !(s.portPresent f) then some (s.recordAccess Code.badAccess (fabOffset f off))
  else if s.gram.image.isNone then some (s.recordAccess Code.noImage (fabOffset f off))
  else none

/-- FAB_STATE.LAST_CMD_STATUS. -/
def State.fabStatus (s : State) (f : Nat) (st : Status) : State := s.modPort f fun x => { x with lastCmd := st }

/-- The image enables the port and its domain is on (step 1 of R360). -/
def State.portReady (s : State) (f : Nat) : Bool :=
  s.portPresent f && (s.fabRec f).enable == 1 && s.domainReady (56 + f)

/-! ### Failure of a flow (R362, R371 to R373) -/

/-- Those who wait on a flow fault: reads and atomics of verbs, and producers of tiles not yet taken by the peer. -/
def State.failWaiters (s : State) (f n : Nat) (st : Status) : State :=
  let fl := s.flow f n
  let s := fl.waiters.foldl (fun s w => match w.writer with
    | .verb c k q => s.verbFault c k q w.tag 0 st
    | _ => s) s
  if !fl.stream then s
  else
    let owners := ((s.stationPort fl.local_).map (·.unacked)).getD []
    let s := s.modStationPort fl.local_ fun p => { p with unacked := [] }
    owners.eraseDups.foldl (fun s o => s.producerFault fl.local_ o st) s

/-- A flow enters ERROR. -/
def State.flowFail (s : State) (f n : Nat) (st : Status) : State :=
  (s.failWaiters f n st).modFlow f n fun fl =>
    { fl with state := .error, err := st, waiters := [], queue := [], window := [], requests := [], begun := false, tileIn := [],
              tileSize := 0 }

/-- A flow enters ERROR on its own account, and says so. -/
def State.flowError (s : State) (f n : Nat) (st : Status) : State :=
  (s.flowFail f n st).event Cls.fab st (Obs.ofFlow f n) (s.flow f n).pid n 0

/-- Every flow of a port that is neither closed nor in ERROR enters ERROR with PORT_DOWN (R373). -/
def State.portFail (s : State) (f : Nat) : State :=
  ((s.port f).flows.filter fun (_, fl) => fl.state == .hello || fl.state == .open_).foldl
    (fun s (n, _) => s.flowFail f n Code.portDown) s

/-! ### Ports -/

/-- The mode of R361 from the lane rate agreed and the lanes trained: width 4, and its upper half; none where neither half
trained whole. -/
def portMode (rate lanes : Nat) : Option (Bool × Bool) :=
  if lanes % 256 = 0xFF && rate != 2 then some (false, false)
  else if lanes % 16 = 0xF then some (true, false)
  else if lanes / 16 % 16 = 0xF then some (true, true)
  else none

/-- The packets of a flow's window are sent again (R372). -/
def State.resend (s : State) (f n : Nat) : State :=
  let w := (s.flow f n).window
  let s := w.foldl (fun s p => s.flowEmit f n p.1) s
  let s := s.modFlow f n fun fl => { fl with window := fl.window.map fun (p, k) => (p, k + 1) }
  s.modPort f fun x => { x with resent := (x.resent + w.length) % 2 ^ 32 }

/-- PORT_LINK_UP: the rate is no higher than the image's RATE; the flows that were open resend (R360, R361, R373). -/
def State.portLinkUp (s : State) (f rate lanes : Nat) : State :=
  let x := s.port f
  let rec_ := s.fabRec f
  let rate := max rec_.rate (min rate 2)
  if !(s.portReady f) || x.state == .off || x.state == .up then s
  else
    match portMode rate lanes with
    | none => s.modPort f fun x => { x with lanes := lanes % 256 }
    | some (w4, half) =>
      let s := s.modPort f fun x =>
        { x with state := .up, rate := rate, width4 := w4, half := half, lanes := lanes % 256, downSent := false }
      let s := s.event Cls.fab Code.ok (Obs.ofPort f) 0xFF f 0
      let s := if rate > rec_.rate || w4 then s.event Cls.fab Code.portDegraded (Obs.ofPort f) 0xFF f 0 else s
      (x.flows.filter fun (_, fl) => fl.state == .open_).foldl (fun s (n, _) => s.resend f n) s

/-- PORT_LINK_UP -/
def execPortLinkUp (f rate lanes : Nat) (s : State) : Host.Outcome State Fault Refusal := .next (s.portLinkUp f rate lanes)

/-- A port is being brought up or retrained. -/
def PortState.pending (x : PortState) : Bool := x == .negotiating || x == .training || x == .retraining

/-- PORT_DOWN_TIMEOUT -/
def execPortDownTimeout (f : Nat) (s : State) : Host.Outcome State Fault Refusal :=
  .next <|
    if !(s.port f).state.pending then s
    else
      let s := (s.portFail f).modPort f fun x => { x with state := .down }
      if (s.port f).downSent then s
      else (s.modPort f fun x => { x with downSent := true }).event Cls.fab Code.portDown (Obs.ofPort f) 0xFF f 0

/-- PORT_BRINGUP_FAILURE: the port tries again. -/
def execPortBringupFailure (f : Nat) (noCommonTechnology : Bool) (s : State) : Host.Outcome State Fault Refusal :=
  .next <|
    if !((s.port f).state.pending || (s.port f).state == .down) || !noCommonTechnology then s
    else s.event Cls.fab Code.anFailed (Obs.ofPort f) 0xFF f 0

/-- A port that is up retrains; its flows keep their PSNs. -/
def State.portRetrain (s : State) (f : Nat) : State :=
  s.modPort f fun x => if x.state = .up then { x with state := .retraining } else x

/-- FAB_RETRAIN -/
def execFabRetrain (f : Nat) (s : State) : Host.Outcome State Fault Refusal :=
  .next ((s.fabRefused f 4).getD ((s.portRetrain f).fabStatus f Code.ok))

/-- PORT_LOSS_OF_LOCK -/
def execPortLossOfLock (f : Nat) (s : State) : Host.Outcome State Fault Refusal := .next (s.portRetrain f)

/-- A port whose domain has come on begins its bring-up. -/
def State.portStart (s : State) (f : Nat) : State :=
  if s.portReady f && (s.port f).state == .off then s.modPort f fun x => { x with state := .negotiating } else s

/-- A port's domain is off: it goes OFF, its flows fail (R373). -/
def State.portOff (s : State) (f : Nat) : State := (s.portFail f).modPort f fun x => { x with state := .off }

/-! ### Flows: opening, hello, closing -/

/-- A flow opens: a new EPOCH, whose value the manual leaves open beyond its change, and a fresh transport state. -/
def State.openFlow (s : State) (f n : Nat) : State :=
  let (d, s) := s.drawBelow (2 ^ 32 - 1)
  let cores : Tbl CoreSt := s.cores.map fun c => (c.1, { c.2 with sent := c.2.sent.drop (1024 * f + n) })
  let clusters : Tbl Cluster := s.clusters.map fun c => (c.1, { c.2 with ccSent := c.2.ccSent.drop (1024 * f + n) })
  let s := { s with cores := cores, clusters := clusters }
  s.modFlow f n fun fl =>
    { state := .hello, enable := true, epoch := (fl.epoch + 1 + d) % 2 ^ 32, stream := fl.stream, pid := fl.pid, mgmt := fl.mgmt,
      rflow := fl.rflow, vlanEn := fl.vlanEn, vid := fl.vid, pcp := fl.pcp, dscp := fl.dscp, local_ := fl.local_, dmac := fl.dmac,
      peerIp := fl.peerIp }

/-- A flow closes: those who wait on it fault with FLOW_FAILED. -/
def State.closeFlow (s : State) (f n : Nat) : State :=
  (s.flowFail f n Code.flowFailed).modFlow f n fun fl => { fl with state := .closed, err := 0, enable := false }

/-- Setting ENABLE of a flow entry; an enabled entry, or one with a reserved station, is refused (R375). -/
def State.flowOpen (s : State) (f n : Nat) : State :=
  let fl := s.flow f n
  if fl.enable || (fl.stream && station fl.local_ == .reserved) then s.fabStatus f Code.flowInvalid
  else (s.openFlow f n).fabStatus f Code.ok

/-- FLOW_OPEN -/
def execFlowOpen (f n : Nat) (s : State) : Host.Outcome State Fault Refusal :=
  .next ((s.fabRefused f (0x8000 + 32 * (n % 1024))).getD (s.flowOpen f (n % 1024)))

/-- Clearing ENABLE. -/
def State.flowClose (s : State) (f n : Nat) : State :=
  (if (s.flow f n).enable then s.closeFlow f n else s).fabStatus f Code.ok

/-- FLOW_CLOSE -/
def execFlowClose (f n : Nat) (s : State) : Host.Outcome State Fault Refusal :=
  .next ((s.fabRefused f (0x8000 + 32 * (n % 1024))).getD (s.flowClose f (n % 1024)))

/-- The payload of HELLO and HELLO_ACK: this device offers version 1, FAB_MTU's payload and every feature of R362. -/
def State.helloPayload (s : State) (f n : Nat) : List Byte :=
  leBytes 4 (s.flow f n).epoch ++ leBytes 2 1 ++ leBytes 1 (s.port f).mtu ++ leBytes 1 0x0F ++ leBytes 8 s.fuses.deviceId
    ++ List.replicate 16 0

/-- HELLO_SEND_TIMER -/
def execHelloSendTimer (f n : Nat) (s : State) : Host.Outcome State Fault Refusal :=
  .next <|
    if (s.port f).state != .up || (s.flow f n).state != .hello then s
    else s.flowEmit f n { typ := 0, len := 32, payload := s.helloPayload f n }

/-- HELLO_TIMEOUT -/
def execHelloTimeout (f n : Nat) (s : State) : Host.Outcome State Fault Refusal :=
  .next (if (s.flow f n).state = .hello then s.flowError f n Code.flowFailed else s)

/-- NEIGHBOR_SOLICITATION -/
def execNeighborSolicitation (f target : Nat) (s : State) : Host.Outcome State Fault Refusal :=
  .next <|
    if (s.port f).state = .up && (s.fabRec f).carriage = 1 && target = (s.port f).ip then s.emit (.advertisement f) else s

end Sys2Proof.Machine
end

