-- ==== Sys2Proof/Machine/Power.lean ====
section
/-!
DEFINITION. The power manager: domains, monitors, the limit and its division, orders, alerts, regulators, shutdown and its
records (R377 to R386, R390 to R398).
-/

namespace Sys2Proof.Machine

/-- The state with the PWR block changed. -/
def State.modPwr (s : State) (f : Pwr → Pwr) : State := { s with pwr := f s.pwr }

/-- PWR_STATE.LAST_CMD_STATUS. -/
def State.pwrStatus (s : State) (st : Status) : State := s.modPwr fun x => { x with lastCmd := st }

/-! ### Domains (R377, R378) -/

/-- Rated maxima of the domains, in watts (R377). -/
def ratedMax (d : Nat) : Nat :=
  if d < 16 then 110 else if d < 32 then 8 else if d < 44 then 12 else if d < 56 then 18 else if d < 64 then 10
  else if d < 66 then 25 else 8

/-- The BUDGET of a domain in the structure in force (R43). -/
def State.budget (s : State) (d : Nat) : Nat :=
  ((s.gram.image.bind fun i => i.pwr.find? (·.domain == d)).map (·.budget)).getD 0

/-- A stack enters self-refresh: its buffers drain first (R192, R207). -/
def State.selfRefresh (s : State) (n : Nat) : State :=
  if (s.stack n).asleep then s
  else (s.drainStack n).modStack n fun x =>
    { x with asleep := true, state := if x.state = .inService then .selfRefresh else x.state }

/-- The lines of a cluster's cache are written back and dropped. -/
def State.cleanCluster (s : State) (c : Nat) : State :=
  (s.cluster c).cache.keys.foldl (fun s l => s.writeBackLine c l (.cache c) 0 true) s

/-- A domain is switched off, with what that means for its unit. -/
def State.domainOff (s : State) (d : Nat) : State :=
  let s := if 16 ≤ d && d < 32 then s.cleanCluster (d - 16)
    else if 32 ≤ d && d < 44 then s.selfRefresh (d - 32)
    else if 56 ≤ d && d < 64 then s.portOff (d - 56)
    else s
  (s.modPwr fun x => { x with domOn := putBit x.domOn d false }).restartCounts d

/-- A domain is on. A fabric port begins its bring-up. -/
def State.domainOn (s : State) (d : Nat) : State :=
  let s := (s.modPwr fun x => { x with domOn := putBit x.domOn d true, waking := putBit x.waking d false }).restartCounts d
  if 56 ≤ d && d < 64 then s.portStart (d - 56) else s

/-- DOMAIN_IDLE_OFF: a stack port without work, or the bank-side units of a stack without an admitted sequence. -/
def execDomainIdleOff (d : Nat) (s : State) : Host.Outcome State Fault Refusal :=
  let n := if d < 44 then d - 32 else d - 44
  let x := s.stack n
  .next <|
    if d < 32 || 56 ≤ d || !(s.domainReady d) || !(s.admittedOn n).isEmpty then s
    else if d < 44 && (x.state != .inService || x.tg.run.isSome || x.scrub.state == 1 || !x.held.isEmpty || !x.heldWaiting.isEmpty) then s
    else s.domainOff d

/-- A domain that work waits for. -/
def State.wanted (s : State) (d : Nat) : Bool :=
  bit s.pwr.waking d || (decide (32 ≤ d) && decide (d < 44) && (s.stack (d - 32)).wakeWaits)

/-- DOMAIN_ON_COMPLETE: the domain is on, or it stays off and the waiting work is to fault; a domain whose budget is 0 never
comes on (R43). -/
def execDomainOnComplete (d : Nat) (reached : Bool) (s : State) : Host.Outcome State Fault Refusal :=
  .next <|
    if 67 ≤ d || s.domainReady d || !(s.wanted d) then s
    else if reached && s.budget d != 0 then s.domainOn d
    else
      let s := s.modPwr fun x => { x with waking := putBit x.waking d false, domFailed := putBit x.domFailed d true }
      let s := if 32 ≤ d && d < 44 then
          let x := s.stack (d - 32)
          let s := if x.wakeQueue.isEmpty then s else s.domainTold d
          x.wakeQueue.foldl (fun s op => (s.settleCache op).deliver op (Code.domainFault, 0))
            (s.modStack (d - 32) fun x => { x with wakeWaits := false, wakeQueue := [] })
        else s
      s.event Cls.pwr Code.domainFault Obs.ofPwr 0xFF d 0

/-- Every switched domain goes off, the stacks into self-refresh and domain 66 last: what the clusters, the units, the
networks and the link held is lost (step 4 of R395). The sequences stop first, their held writes performed and their summaries written
(R242). -/
def State.powerDown (s : State) : State :=
  let s := s.abortSequences.dropSequences
  let s := (List.range 12).foldl (fun s n => s.selfRefresh n) s
  let s := (List.range 8).foldl (fun s f => s.portOff f) s
  let s := { s with cores := [], clusters := [], seqs := [], transit := [], answers := [],
                    srv := { s.srv with ticking := false }, mgmt := { s.mgmt with bkgRun := 0 } }
  let s := (List.range 67).foldl State.restartCounts s
  (s.modPwr fun x => { x with domOn := 0, waking := 0, domFailed := 0, starved := 0, power := [], allot := [], opp := [] }).linkDown

/-! ### Monitors and regulators (R379, R382) -/

/-- One monitor's average of a window. -/
def State.monitor (s : State) (d : Nat) (m : MonSample) : State :=
  let bad := m.outOfRange || m.stuck
  let clean := s.pwr.monClean.look 0 d + 1
  let s := s.modPwr fun x => { x with power := x.power.put d (m.power % 65536) }
  if bad then
    let was := bit s.pwr.monFail d
    let s := s.modPwr fun x => { x with monFail := putBit x.monFail d true, monClean := x.monClean.drop d }
    if was then s else s.event Cls.pwr Code.monitorFail Obs.ofPwr 0xFF d 0
  else if !(bit s.pwr.monFail d) then s
  else if clean < 10000 then s.modPwr fun x => { x with monClean := x.monClean.put d clean }
  else s.modPwr fun x => { x with monFail := putBit x.monFail d false, monClean := x.monClean.drop d }

/-- A domain's power as it counts, in units of 0.125 W: its rated maximum while its monitor has failed. -/
def State.counted (s : State) (d : Nat) : Nat :=
  if !(s.domainReady d) then 0 else if bit s.pwr.monFail d then 8 * ratedMax d else s.pwr.power.look 0 d

/-- The reads of the regulators in a window: the third miss in a row loses one, an answer returns it. -/
def State.readRegulators (s : State) (missed : List Nat) : State :=
  let s := s.modPwr fun x =>
    { x with regLost := x.regLost.filter missed.contains, regMissed := x.regMissed.filter fun r => missed.contains r.1 }
  missed.eraseDups.foldl (fun s a =>
    let n := s.pwr.regMissed.look 0 a + 1
    let s := s.modPwr fun x => { x with regMissed := x.regMissed.put a n }
    if n < 3 || s.pwr.regLost.contains a then s
    else (s.modPwr fun x => { x with regLost := x.regLost ++ [a] }).event Cls.pwr Code.regulatorLost Obs.ofPwr 0xFF a 0) s

/-! ### The limit (R381, R382, R389, R393) -/

/-- The order slots that are set. -/
def Pwr.slots (x : Pwr) : List Nat := [x.slotBmc, x.slotCompanion, x.slotPeer, x.slotPresence].filter (· != 0)

/-- The image term: the image being applied, or the one in force, or 300 W. -/
def State.imageLimit (s : State) : Nat :=
  match s.gram.job, s.gram.state with
  | some j, .apply =>
    match j.image with
    | some i => if i.partial_ then s.srvImage.limit else i.limit
    | none => s.srvImage.limit
  | _, _ => s.srvImage.limit

/-- The terms of L, each with its BINDS code. -/
def State.limitTerms (s : State) : List (Nat × Nat) :=
  let x := s.pwr
  let reg := if x.termReg = 0 || !x.regLost.isEmpty then 300 else x.termReg
  [(0, s.imageLimit), (1, x.termBoard), (2, reg)] ++ x.slots.map fun w => (3, w)

/-- The least of some terms, the first of equals. -/
def leastTerm : List (Nat × Nat) → Nat × Nat → Nat × Nat
  | [], best => best
  | t :: r, best => leastTerm r (if t.2 < best.2 then t else best)

/-- L of R381 with the term that sets it. -/
def State.moduleLimit (s : State) : Nat × Nat := leastTerm s.limitTerms (0, s.imageLimit)

/-- P(T) of R389, in whole watts; where it is no whole number, which of the two beside it the manual leaves open. -/
def State.throttled (s : State) (l : Nat) : Nat × State :=
  let num := 31 * l - s.thm.t * (l - 300)
  if num % 31 = 0 then (num / 31, s)
  else
    let (up, s) := s.drawBelow 2
    (num / 31 + up, s)

/-- The terms beside L and P(T): FLOOR while the alert holds, 300 W while restricted. -/
def State.heldTerms (s : State) : List (Nat × Nat) :=
  (match s.gram.image with
    | some i => if s.pwr.alert then [(5, i.floor)] else []
    | none => []) ++ (if s.pwr.restricted then [(6, 300)] else [])

/-- The limit in force is computed; LIMIT_CHANGED where a term other than T's has changed it. -/
def State.computeLimit (s : State) : State :=
  let l := s.moduleLimit
  let base := leastTerm s.heldTerms l
  let (p, s) := s.throttled l.2
  let best := leastTerm s.heldTerms (if s.thm.t = 0 then l else (4, p))
  let old := s.pwr.limitBase
  let s := s.modPwr fun x => { x with inForce := best.2, binds := best.1, limitBase := base.2 }
  if base.2 = old then s else s.event Cls.pwr Code.limitChanged Obs.ofPwr 0xFF best.2 0

/-! ### Dividing the limit (R331, R391) -/

/-- The domains of the three groups of R331 in the order of the split: bank-side, stack port, cluster. -/
def powerGroups : List (List Nat) :=
  [(List.range 12).map (· + 44), (List.range 12).map (· + 32), List.range 32]

/-- What each group has after lending: a group that draws more than 5 % below its allotment lends the surplus to the others by
per mille. -/
def lend (alloc measured pm : List Nat) : List Nat :=
  let n := alloc.length
  let surplus (i : Nat) : Nat :=
    if measured.getD i 0 * 100 < 95 * 8 * alloc.getD i 0 then alloc.getD i 0 - ceilDiv (measured.getD i 0) 8 else 0
  (List.range n).map fun i =>
    let others (h : Nat) : Nat := ((List.range n).filter (· != h)).foldl (fun a k => a + pm.getD k 0) 0
    let gain := ((List.range n).filter (· != i)).foldl
      (fun a h => a + if others h = 0 then 0 else surplus h * pm.getD i 0 / others h) 0
    alloc.getD i 0 - surplus i + gain

/-- The allotments of the domains that are on (R391): within a group in proportion to BUDGET, capped at it. -/
def State.divide (s : State) : State :=
  let (aon, s) := s.drawBelow 369
  let fixed := ((List.range 11).map (· + 56)).foldl (fun a d => a + s.counted d) 0 + aon
  let pd := s.pwr.inForce - ceilDiv fixed 8
  let on (g : List Nat) : List Nat := g.filter s.domainReady
  let alloc := (List.range 3).map fun i => pd * s.pwr.split.getD i 0 / 1000
  let measured := powerGroups.map fun g => (on g).foldl (fun a d => a + s.counted d) 0
  let has := lend alloc measured s.pwr.split
  (List.range 3).foldl (fun s i =>
    let g := powerGroups.getD i []
    let sum := (on g).foldl (fun a d => a + s.budget d) 0
    g.foldl (fun s d =>
      let part := if sum = 0 || !(s.domainReady d) then 0 else min (s.budget d) (has.getD i 0 * s.budget d / sum)
      s.modPwr fun x => { x with allot := x.allot.put d (part % 4096) }) s) s

/-- The operating point of a cluster: 0 while its domain is off; otherwise the highest whose projected draw fits, 3.0 GHz where the
allotment covers the rated maximum, else a free value, the projection being the device's own, which may leave even 1.0 GHz uncovered; at
most ALERT.FREQ in an alert, and one step above the last while it climbs back (R377, R384, R388, R391). -/
def State.operatingPoint (s : State) (c : Nat) : State :=
  if !(s.domainReady c) then s.modPwr fun x => { x with opp := x.opp.put c 0, climb := putBit x.climb c false, starved := putBit x.starved c false }
  else
    let (v, s) := s.drawBelow 22
    let x := s.pwr
    let full := decide (ratedMax c ≤ x.allot.look 0 c)
    let want := if full then 30 else 10 + (v - 1)
    let climbs := bit x.climb c
    let now := if x.alert then min want x.alertFreq else if climbs then min want (x.opp.look 0 c + 1) else want
    s.modPwr fun x =>
      { x with opp := x.opp.put c now, climb := putBit x.climb c (climbs && now < want),
               starved := putBit x.starved c (!full && v == 0) }

/-- B_POWER and the port traffic share of a stack. -/
def State.stackShares (s : State) (n : Nat) : State :=
  let share (d : Nat) : Nat := if s.budget d = 0 then 2 else max 2 (min 16 (16 * s.pwr.allot.look 0 d / s.budget d))
  let b := share (44 + n)
  let b := if s.pwr.alert then min b s.pwr.alertB else b
  s.modStack n fun x => { x with bPower := b, portShare := share (32 + n) }

/-! ### Orders (R386, R392) -/

/-- An order contradicts one of a higher master in its window. -/
def Order.loses (o : Order) (all : List Order) : Bool :=
  all.any fun p => p.object == o.object && decide (p.rank < o.rank) && p.value != o.value

/-- A peer's order is answered in its MGMT_RESP. -/
def State.answerOrder (s : State) (o : Order) (st : Status) : State :=
  match o.by_, o.psn with
  | .peer f n, some k => s.flowEmit f n { typ := 12, psn := k, status := st, len := 8, payload := leBytes 8 o.value }
  | _, _ => s

/-- An order that stands takes effect. -/
def State.obey (s : State) (o : Order) : State :=
  let s := match o.object with
    | 0 => s.takePhase o.value
    | 1 => { s with thm := { s.thm with warn := o.value } }
    | 2 => { s with thm := { s.thm with throttle := o.value } }
    | 3 => { s with thm := { s.thm with shut := o.value } }
    | _ => { s with thm := { s.thm with riseLimit := o.value } }
  s.answerOrder o Code.ok

/-- An order that loses changes nothing and is answered so. -/
def State.preempt (s : State) (o : Order) : State :=
  let s := s.answerOrder o Code.preemptedByPeer
  match o.by_ with
  | .peer _ _ => s
  | _ => if o.object = 0 then s.schedStatus Code.preemptedByPeer
         else { s with thm := { s.thm with lastCmd := Code.preemptedByPeer } }

/-- The orders of the window are settled. -/
def State.settleOrders (s : State) : State :=
  let all := s.pwr.orders
  let s := s.modPwr fun x => { x with orders := [] }
  all.foldl (fun s o => if o.loses all then s.preempt o else s.obey o) s

/-- PWR_ORDER.LIMIT of a master (R393). -/
def State.limitOrder (s : State) (by_ : Master) (w : Nat) : State :=
  if (1 ≤ w && w < 300) || 2400 < w then (s.pwrStatus Code.badValue).recordAccess Code.badValue 0x20010
  else
    (s.modPwr fun x =>
      if s.sec.presence then { x with slotPresence := w }
      else match by_ with
        | .bmc => { x with slotBmc := w }
        | .peer _ _ => { x with slotPeer := w }
        | _ => { x with slotCompanion := w }).pwrStatus Code.ok

/-- PWR_ORDER_WRITE -/
def execPwrOrderWrite (by_ : Master) (limit : Nat) (s : State) : Host.Outcome State Fault Refusal := .next (s.limitOrder by_ (limit % 4096))

/-! ### PWR_ALERT_n (R383 to R385) -/

/-- PWR_ALERT_ASSERT: every cluster steps down, B_POWER falls; FLOOR follows at the next window. -/
def execPwrAlertAssert (s : State) : Host.Outcome State Fault Refusal :=
  .next <|
    if s.pwr.alertPin || s.mgmt.boot == .reset || s.mgmt.boot == .shutdown then s
    else
      let again := s.pwr.alert
      let s := s.modPwr fun x =>
        { x with alertPin := true, alert := true, climb := 0, alerts := (x.alerts + 1) % 2 ^ 32,
                 opp := x.opp.map fun (c, f) => (c, min f x.alertFreq) }
      let s := { s with stk := s.stk.map fun c => (c.1, { c.2 with bPower := min c.2.bPower s.pwr.alertB }) }
      if again then s else s.event Cls.pwr Code.alertAsserted Obs.ofPwr 0xFF 0 0

/-- ALERT_RELEASE: the pin has stayed released for ALERT.HOLD ms. -/
def execAlertRelease (s : State) : Host.Outcome State Fault Refusal :=
  .next (if s.pwr.alert then s.modPwr fun x => { x with alertPin := false, alert := false, alertStuck := false, climb := 0xFFFF } else s)

/-- ALERT_STUCK -/
def execAlertStuck (s : State) : Host.Outcome State Fault Refusal :=
  .next <|
    if !s.pwr.alertPin || s.pwr.alertStuck then s
    else (s.modPwr fun x => { x with alertStuck := true }).event Cls.pwr Code.alertStuck Obs.ofPwr 0xFF 0 0

/-! ### Shutdown (R395 to R397) -/

/-- A temperature coded in one byte: °C + 64. -/
def tempByte (t : Int) : Byte := BitVec.ofNat 8 (min 255 (max 0 (t / 4 + 64))).toNat

/-- A shutdown record (R396). -/
def State.shutBytes (s : State) (reason source seq count flags : Nat) : List Byte :=
  let th := s.thm
  let body :=
    leBytes 2 1 ++ leBytes 1 reason ++ leBytes 1 flags ++ leBytes 4 seq ++ leBytes 8 count
      ++ leBytes 8 (if s.gram.image.isSome then s.srv.tick else 0) ++ leBytes 2 s.pwr.inForce ++ leBytes 1 th.t ++ leBytes 1 source
      ++ leBytes 4 0 ++ (List.range 128).map (fun i => tempByte (th.regions.look 0 i))
      ++ (List.range 16).map (fun j => if bit th.dfail j then 0xFF else tempByte (th.diodes.look 0 j))
      ++ (List.range 67).flatMap (fun d => leBytes 2 (s.pwr.power.look 0 d)) ++ leBytes 2 0 ++ leBytes 16 s.pwr.monFail
      ++ (List.range 12).map (fun n =>
          if !(s.stackPresent n) || (s.stack n).sensorFail then 0xFF else tempByte (signed 12 (s.stack n).temp))
      ++ leBytes 168 0
  body ++ leBytes 4 (crc32 body)

/-- A record joins the 16 of the store, newest first: it replaces the oldest acknowledged one, or the oldest of all. -/
def storeShut (rs : List ShutRecord) (r : ShutRecord) : List ShutRecord :=
  if rs.length < 16 then r :: rs
  else
    let rev := rs.reverse
    match rev.findIdx? (·.acked) with
    | some i => r :: (rev.eraseIdx i).reverse
    | none => r :: rs.dropLast

/-- The shutdown record is written (step 2 of R395). -/
def State.writeShut (s : State) (reason source : Nat) : State :=
  let full := decide (s.flash.shutdowns.length ≥ 16) && s.flash.shutdowns.all fun r => !r.acked
  let (seq, s) := s.takeSeq
  let (count, s) := s.islandCount Obs.ofMgmt.island
  let flags := b2n s.pwr.alert + 2 * b2n s.pwr.restricted + 4 * b2n (reason == 2) + 8 * b2n full
  let r : ShutRecord := { bytes := s.shutBytes reason source seq count flags, seq := seq }
  { s with flash := { s.flash with shutdowns := storeShut s.flash.shutdowns r } }

/-- The waiting records that their rings can take are written: a record reaches its ring within 2 µs (R352), before what runs
for milliseconds takes the link down. -/
def State.flushRecords (s : State) : State := (List.range s.mgmt.store.length).foldl (fun s _ => s.writeRecord) s

/-- A shutdown (R390, R395): 1 MODEL, 2 HW_TRIP, 3 STACK, 4 REGULATOR, 5 ORDER. A second one changes nothing, nor does one in
reset, where every domain is off; where firmware does not run, only the comparator acts, and no record is written. -/
def State.shutdown (s : State) (reason source : Nat) : State :=
  let runs := s.mgmt.boot == .firmware || s.mgmt.boot == .ready
  if s.mgmt.boot == .shutdown || s.mgmt.boot == .reset || (!runs && reason != 2) then s
  else
    let s := match reason with
      | 1 => s.event Cls.thm Code.thermShutdown Obs.ofThm 0xFF source 0
      | 3 => s.event Cls.thm Code.thermShutdown Obs.ofThm 0xFF source 0
      | 4 => s.event Cls.pwr Code.regulatorFault Obs.ofPwr 0xFF source 0
      | _ => s
    let s := if reason = 2 then s else s.flushRecords
    let s := (if runs then s.writeShut reason source else s).powerDown
    { s with mgmt := { s.mgmt with thermTrip := true, faultPin := s.mgmt.faultPin || reason != 2, boot := .shutdown } }

/-- SHUTDOWN_ORDER -/
def execShutdownOrder (by_ : Master) (s : State) : Host.Outcome State Fault Refusal :=
  .next <|
    match by_ with
    | .peer _ _ => s
    | _ => (s.pwrStatus Code.ok).shutdown 5 0

/-- HW_TRIP: the comparator needs no firmware. -/
def execHwTrip (diode : Nat) (s : State) : Host.Outcome State Fault Refusal := .next (s.shutdown 2 (128 + diode % 16))

/-- PMBUS_ALERT: STATUS_WORD in the layout of PMBus 1.4 (PRESUMED): bits 6 to 2 OFF, VOUT_OV_FAULT, IOUT_OC_FAULT,
VIN_UV_FAULT and TEMPERATURE; bit 14 IOUT/POUT without a fault is the overcurrent warning (R382). -/
def execPmbusAlert (address statusWord : Nat) (s : State) : Host.Outcome State Fault Refusal :=
  .next <|
    if s.mgmt.boot != .ready then s
    else if bits statusWord 2 5 != 0 then s.shutdown 4 (address % 256)
    else if bit statusWord 14 then { s with thm := { s.thm with t := min 31 (s.thm.t + 4) } }
    else s

/-- PWR_REC_ACK (R397): the record with this SEQ is acknowledged; with none left unacknowledged the restriction ends. -/
def State.recAck (s : State) (seq : Nat) : State :=
  if !(s.flash.shutdowns.any fun r => r.seq == seq && !r.acked) then
    (s.pwrStatus Code.badValue).recordAccess Code.badValue 0x20A04
  else
    let rs := s.flash.shutdowns.map fun r => if r.seq = seq then { r with acked := true } else r
    ({ s with flash := { s.flash with shutdowns := rs } }.modPwr fun x =>
      { x with restricted := x.restricted && rs.any fun r => !r.acked }).pwrStatus Code.ok

/-- PWR_REC_ACK -/
def execPwrRecAck (by_ : Master) (seq : Nat) (s : State) : Host.Outcome State Fault Refusal :=
  .next <|
    match by_ with
    | .peer _ _ => s
    | _ => s.recAck (seq % 2 ^ 32)

/-! ### The decision window (R386) -/

/-- The gating rules that no command of their own carries out: the domains of an unowned cluster, a cluster whose cores are all
OFFLINE, a port the image disables (R377). -/
def State.gate (s : State) : State :=
  if s.gram.image.isNone then s
  else
    let s := (List.range 16).foldl (fun s c =>
      let ks := (List.range 12).filter fun k => s.corePresent c k
      let off := ks.all fun k => (s.core c k).run == .offline
      if (s.clusterPid c).isNone then
        let s := if s.domainReady (16 + c) then s.domainOff (16 + c) else s
        if s.domainReady c then s.domainOff c else s
      else if off && s.domainReady c then s.domainOff c else s) s
    (List.range 8).foldl (fun s f => if (s.fabRec f).enable = 0 && s.domainReady (56 + f) then s.domainOff (56 + f) else s) s

end Sys2Proof.Machine
end

