-- ==== Sys2Proof/Machine/Thermal.lean ====
section
/-!
DEFINITION. The thermal model, the throttle level, the diodes' calibration, and the decision window that runs them with the
power manager (R386 to R391).
-/

namespace Sys2Proof.Machine

/-- The state with the THM block changed. -/
def State.modThm (s : State) (f : Thm → Thm) : State := { s with thm := f s.thm }

/-! ### The model (R387) -/

/-- Every diode of a die has failed: its regions count 10 °C above their model temperatures (R388). -/
def Thm.blind (x : Thm) (die : Nat) : Bool := bits x.dfail (8 * die) 8 == 255

/-- The temperature a region counts at. -/
def Thm.counts (x : Thm) (i : Nat) : Int := x.regions.look 0 i + (if x.blind (i / 64) then 40 else 0)

/-- The hottest of some regions, the first of equals. -/
def Thm.hottest (x : Thm) : List Nat → Nat → Nat
  | [], best => best
  | i :: r, best => Thm.hottest x r (if x.counts i > x.counts best then i else best)

/-- The model's step in a window: each region lies above its die's reference by a rise that the fused coefficients give from
the domains' power, a free value. -/
def State.thermalStep (s : State) : State :=
  let regs : Tbl Int := (List.range 128).map fun i =>
    (i, s.thm.reference.look 0 (i / 64) + (Config.freeNat (s.fresh + i) : Int))
  let s := { s with fresh := s.fresh + 128 }.modThm fun x => { x with regions := regs }
  let hot := s.thm.hottest (List.range 128) 0
  let h := s.thm.counts hot
  s.modThm fun x =>
    { x with hotRegion := hot, hot := h, warnNow := decide (h ≥ 4 * (x.warn : Int)), windowH := h :: x.windowH }

/-! ### The throttle level (R389) -/

/-- The first region that has risen by at least RISE since the window 1 ms earlier. -/
def Thm.risen (x : Thm) : Option Nat :=
  if x.earlier.isEmpty then none
  else (List.range 128).find? fun i => decide (10 * (x.regions.look 0 i - x.earlier.look 0 i) ≥ 4 * (x.riseLimit : Int))

/-- Rate of rise: T rises by 2. -/
def State.riseRule (s : State) : State :=
  match s.thm.risen with
  | none => s.modThm fun x => { x with rise := false }
  | some i =>
    (s.modThm fun x => { x with rise := true, t := min 31 (x.t + 2) }).event Cls.thm Code.riseRate Obs.ofThm 0xFF i 0

/-- One window under the warning rule: whether the warning is armed, and whether it has been given. -/
def warnStep (warn : Nat) (a : Bool × Bool) (h : Int) : Bool × Bool :=
  let armed := a.1 || decide (h < 4 * (warn : Int) - 12)
  if armed && decide (h ≥ 4 * (warn : Int)) then (false, true) else (armed, a.2)

/-- THERM_WARN. -/
def State.warnRule (s : State) : State :=
  let r := s.thm.windowH.reverse.foldl (warnStep s.thm.warn) (s.thm.warnArmed, false)
  let s := s.modThm fun x => { x with warnArmed := r.1 }
  if r.2 then s.event Cls.thm Code.thermWarn Obs.ofThm 0xFF s.thm.hotRegion 0 else s

/-- The rise by 1 of a millisecond wholly at or above THROTTLE, and the fall of one wholly 3 °C below it. -/
def State.levelRule (s : State) : State :=
  let x := s.thm
  let limit : Int := 4 * (x.throttle : Int)
  if x.windowH.isEmpty then s
  else if x.windowH.all fun h => decide (h ≥ limit) then
    let s := s.modThm fun x => { x with t := min 31 (x.t + 1), throttleSaid := true }
    if x.throttleSaid then s else s.event Cls.thm Code.throttle Obs.ofThm 0xFF x.hotRegion 0
  else if !x.rise && x.windowH.all fun h => decide (h ≤ limit - 12) then
    s.modThm fun x => { x with t := x.t - 1, throttleSaid := x.throttleSaid && decide (x.t > 1) }
  else s

/-- Two windows in a row of some, oldest first, lay at or above a threshold. -/
def twice (limit : Int) : List Int → Bool
  | a :: b :: r => (decide (a ≥ limit) && decide (b ≥ limit)) || twice limit (b :: r)
  | _ => false

/-- The shutdown of the millisecond. -/
def State.shutRule (s : State) : State :=
  let x := s.thm
  let hs := x.beforeH.toList ++ x.windowH.reverse
  let s := s.modThm fun x => { x with beforeH := hs.getLast?, windowH := [], earlier := x.regions }
  if twice (4 * (x.shut : Int)) hs then s.shutdown 1 x.hotRegion else s

/-- THROTTLE_UPDATE -/
def execThrottleUpdate (s : State) : Host.Outcome State Fault Refusal :=
  .next (if s.mgmt.boot == .ready then s.riseRule.warnRule.levelRule.shutRule else s)

/-- STACK_TMAX_TIMEOUT: the stack has stayed at or above TMAX for 100 ms. -/
def execStackTmaxTimeout (n : Nat) (s : State) : Host.Outcome State Fault Refusal :=
  .next <|
    match (s.stack n).tmax with
    | none => s
    | some m =>
      if s.stackPresent n && decide (signed 12 (s.stack n).temp ≥ 4 * (m : Int)) then s.shutdown 3 (144 + n) else s

/-! ### Calibration (R388) -/

/-- The model temperature of the region a diode watches. -/
def Thm.watched (x : Thm) (j : Nat) : Int := x.regions.look 0 (64 * (j / 8) + Config.diodeRegion j % 64)

/-- One diode is read. -/
def State.readDiode (s : State) (j : Nat) (t : Int) : State :=
  let x := s.thm
  let apart := t - x.watched j > 40 || x.watched j - t > 40
  let count := if apart then x.disagree.look 0 j + 1 else 0
  let fails := t < -160 || 600 < t || 3 ≤ count
  let s := s.modThm fun x => { x with diodes := x.diodes.put j t, disagree := x.disagree.put j count }
  if bit x.dfail j || !fails then s
  else (s.modThm fun x => { x with dfail := putBit x.dfail j true }).event Cls.thm Code.diodeFail Obs.ofThm 0xFF j 0

/-- The reference of a die moves by the mean difference of its sound diodes, at most 2 °C; a mean that is no whole number of
0.25 °C is rounded as the manual leaves open. -/
def State.moveReference (s : State) (die : Nat) : State :=
  let js := ((List.range 8).map (8 * die + ·)).filter fun j => !bit s.thm.dfail j
  if js.isEmpty then s
  else
    let sum : Int := js.foldl (fun a j => a + (s.thm.diodes.look 0 j - s.thm.watched j)) 0
    let (up, s) := if sum % (js.length : Int) = 0 then (0, s) else s.drawBelow 2
    let mean : Int := sum / (js.length : Int) + (up : Int)
    s.modThm fun x => { x with reference := x.reference.upd 0 die (· + max (-8) (min 8 mean)) }

/-- DIODE_CALIBRATION -/
def execDiodeCalibration (readings : List Int) (s : State) : Host.Outcome State Fault Refusal :=
  .next <|
    if !(bit s.mgmt.bkgRun 2) then s
    else
      let s := (List.range 16).foldl (fun s j => s.readDiode j (readings.getD j 0)) s
      ((s.moveReference 0).moveReference 1).modThm fun x => { x with cal := (x.cal + 1) % 2 ^ 32 }

/-! ### The decision window (R386) -/

/-- Every monitor's average is read. -/
def State.readMonitors (s : State) (monitors : Tbl MonSample) : State :=
  (List.range 67).foldl (fun s d =>
    if s.domainReady d then s.monitor d (monitors.look {} d)
    else s.modPwr fun x => { x with power := x.power.put d 0 }) s

/-- Operating points and shares are set; the guard-bands apply (R429). -/
def State.setPoints (s : State) : State :=
  let s := s.modPwr fun x => { x with guardApplied := s.flash.guardbands }
  let s := (List.range 16).foldl State.operatingPoint s
  if s.gram.image.isSome then ((List.range 12).filter s.stackPresent).foldl State.stackShares s else s

/-- DECISION_WINDOW -/
def execDecisionWindow (monitors : Tbl MonSample) (lostRegulators : List Nat) (s : State) : Host.Outcome State Fault Refusal :=
  .next <|
    if s.mgmt.boot != .ready then s
    else
      let s := ((s.readMonitors monitors).readRegulators lostRegulators).thermalStep.computeLimit.divide.setPoints
      s.settleOrders.gate

end Sys2Proof.Machine
end

