-- ==== Sys2Proof/Machine/Security.lean ====
section
/-!
DEFINITION. Physical presence and the seal, the owner operations, firmware updates and attestation (R401 to R417).
-/

namespace Sys2Proof.Machine

/-- The state with the SEC block changed. -/
def State.modSec (s : State) (f : Sec → Sec) : State := { s with sec := f s.sec }

/-- SEC_STATE.LAST_CMD_STATUS. -/
def State.secStatus (s : State) (st : Status) : State := s.modSec fun x => { x with lastCmd := st }

/-- The record store changes. -/
def State.modFlash (s : State) (f : Flash → Flash) : State := { s with flash := f s.flash }

/-- Management-window offset of a register of the SEC block. -/
def secOffset (off : Nat) : Nat := 0x40000 + off

/-- The management-window offset of PWR_REC_ERASE. -/
abbrev pwrRecEraseOffset : Nat := 0x20A08

/-! ### Presence and the seal (R415, R416) -/

/-- One sample of PRESENCE_n. -/
def Sec.samplePresence (x : Sec) (low : Bool) : Sec :=
  if low then
    let run := min 20 (x.lowRun + 1)
    { x with lowRun := run, highRun := 0, presence := x.presence || (decide (run = 20) && !x.needRelease) }
  else
    let run := min 20 (x.highRun + 1)
    let y := { x with highRun := run, lowRun := 0 }
    if run = 20 then { y with presence := false, needRelease := false, presStuck := false } else y

/-- PRESENCE_SAMPLE -/
def execPresenceSample (low : Bool) (s : State) : Host.Outcome State Fault Refusal :=
  .next (if s.sec.sampling then s.modSec fun x => x.samplePresence low else s)

/-- PRESENCE_STUCK -/
def execPresenceStuck (s : State) : Host.Outcome State Fault Refusal :=
  .next (if s.sec.presence then
    (s.modSec fun x => { x with presence := false, needRelease := true, presStuck := true }).event Cls.sec Code.presenceStuck
      Obs.ofSec 0xFF 0 0
  else s)

/-- One sample of the seal loop: the second open one in a row records a break, once until two closed ones. -/
def State.sampleSeal (s : State) (closed : Bool) : State :=
  if !s.sec.sampling then s
  else if closed then
    s.modSec fun x =>
      { x with sealOpen := false, openRun := 0, closedRun := min 2 (x.closedRun + 1),
               sealArmed := x.sealArmed || decide (x.closedRun ≥ 1) }
  else
    let s := s.modSec fun x => { x with sealOpen := true, closedRun := 0, openRun := min 2 (x.openRun + 1) }
    if s.sec.openRun < 2 || !s.sec.sealArmed then s
    else
      ((s.modSec fun x => { x with sealArmed := false }).modFlash fun x =>
        { x with breaks := (x.breaks + 1) % 65536, sealBroken := true }).event Cls.sec Code.sealBroken Obs.ofSec 0xFF 0 0

/-- SEAL_SAMPLE -/
def execSealSample (closed : Bool) (s : State) : Host.Outcome State Fault Refusal := .next (s.sampleSeal closed)

/-! ### Owner operations (R411, R412) -/

/-- A refused owner operation or RW-P write is counted and recorded; the last status of the block it was written to holds it
too. -/
def State.secRefuse (s : State) (offset : Nat) (st : Status) : State :=
  let s := s.modSec fun x =>
    { x with refused := (x.refused + 1) % 2 ^ 32, refusedOff := offset % 2 ^ 24, refusedStatus := st }
  if offset / 0x10000 = 4 then s.secStatus st else if offset / 0x10000 = 2 then s.pwrStatus st else s

/-- Checks 1 and 2 of R412: the status of the first that fails. -/
def State.ownerGate (s : State) (sealCounts : Bool) : Option Status :=
  if !s.sec.presence then some Code.noPresence
  else if sealCounts && s.flash.sealBroken then some Code.sealBroken else none

/-- An owner operation at a register: the checks in order, then the operation. Only the companion reaches it. -/
def State.ownerOp (s : State) (by_ : Master) (offset : Nat) (sealCounts : Bool) (own : Option Status) (op : State → State) :
    State :=
  match by_ with
  | .companion =>
    match s.ownerGate sealCounts with
    | some st => s.secRefuse offset st
    | none =>
      match own with
      | some st => s.secRefuse offset st
      | none => op s
  | _ => s

/-- The staged owner key. -/
def Sec.stagedKey (x : Sec) : List Byte := slice ((List.range 8).flatMap fun i => leBytes 8 (x.staged.look 0 i)) 0 57

/-- The owner key becomes another, or none: the clause digest list empties. -/
def State.setOwner (s : State) (key : Option (List Byte)) : State :=
  (((s.modFlash fun x => { x with ownerKey := key, keyBad := false }).modSec fun x => { x with clauseList := [] }).secStatus
    Code.ok).event Cls.sec Code.ownerChanged Obs.ofSec 0xFF 0 0

/-- OWNER_SET -/
def execOwnerSet (by_ : Master) (s : State) : Host.Outcome State Fault Refusal :=
  let key := s.sec.stagedKey
  .next (s.ownerOp by_ (secOffset 0x10) true (if Config.ed448Key key then none else some Code.badValue) fun s =>
    s.setOwner (some key))

/-- OWNER_CLEAR -/
def execOwnerClear (by_ : Master) (s : State) : Host.Outcome State Fault Refusal :=
  .next (s.ownerOp by_ (secOffset 0x10) true (if s.flash.ownerKey.isNone then some Code.ownerKeyState else none) fun s =>
    s.setOwner none)

/-- DEBUG_UNLOCK: the debug modules are open until reset. -/
def execDebugUnlock (by_ : Master) (s : State) : Host.Outcome State Fault Refusal :=
  .next (s.ownerOp by_ (secOffset 0x68) true none fun s =>
    ((s.modSec fun x => { x with debug := true, unlockBit := true }).secStatus Code.ok).event Cls.sec Code.debugUnlocked
      Obs.ofSec 0xFF 0 0)

/-- SEAL_ACK: the break is acknowledged while the loop is sampled closed. -/
def execSealAck (by_ : Master) (s : State) : Host.Outcome State Fault Refusal :=
  .next (s.ownerOp by_ (secOffset 0x6C) false (if s.sec.sealOpen then some Code.sealOpen else none) fun s =>
    (s.modFlash fun x => { x with sealBroken := false }).secStatus Code.ok)

/-- The event of an erasure; DETAIL0 tells 0 shutdown, 1 mapping-out, 2 erasure records. -/
def State.recErased (s : State) (kind : Nat) : State := s.event Cls.sec Code.recErased Obs.ofSec 0xFF kind 0

/-- Every shutdown record is erased; the restriction ends. -/
def State.dropShutdowns (s : State) : State :=
  ((s.modFlash fun x => { x with shutdowns := [] }).modPwr fun x => { x with restricted := false }).recErased 0

/-- ERASE_SHUTDOWN_RECORDS -/
def execEraseShutdownRecords (by_ : Master) (s : State) : Host.Outcome State Fault Refusal :=
  .next (s.ownerOp by_ (secOffset 0x78) true none fun s => s.dropShutdowns.secStatus Code.ok)

/-- PWR_REC_ERASE -/
def execPwrRecErase (by_ : Master) (s : State) : Host.Outcome State Fault Refusal :=
  .next (s.ownerOp by_ pwrRecEraseOffset true none fun s => s.dropShutdowns.pwrStatus Code.ok)

/-- Every mapping-out record is erased. -/
def State.dropMapouts (s : State) : State := (s.modFlash fun x => { x with mapouts := [] }).recErased 1

/-- ERASE_MAPOUT_RECORDS -/
def execEraseMapoutRecords (by_ : Master) (s : State) : Host.Outcome State Fault Refusal :=
  .next (s.ownerOp by_ (secOffset 0x78) true none fun s => s.dropMapouts.secStatus Code.ok)

/-- Every erasure position is erased from the store. -/
def State.dropErasures (s : State) : State := (s.modFlash fun x => { x with erasures := [] }).recErased 2

/-- ERASE_ERASURE_RECORDS -/
def execEraseErasureRecords (by_ : Master) (s : State) : Host.Outcome State Fault Refusal :=
  .next (s.ownerOp by_ (secOffset 0x78) true none fun s => s.dropErasures.secStatus Code.ok)

/-- A write of SEC_REC_ERASE: each bit that is set erases its records. -/
def State.recErase (s : State) (by_ : Master) (v : Nat) : State :=
  s.ownerOp by_ (secOffset 0x78) true none fun s =>
    let s := if bit v 0 then s.dropShutdowns else s
    let s := if bit v 1 then s.dropMapouts else s
    (if bit v 2 then s.dropErasures else s).secStatus Code.ok

/-! ### Firmware (R402, R404, R405) -/

/-- What the checks of R402 say of a slot. -/
def State.slotStatus (s : State) (slot : List Byte) : Option Status := firmwareStatus s.fuses.floor s.fuses.revoked slot

/-- The slot that does not run, and that slot set. -/
def State.otherSlot (s : State) : List Byte := if s.mgmt.slotB then s.flash.slotA else s.flash.slotB
def State.setOtherSlot (s : State) (b : List Byte) : State :=
  s.modFlash fun x => if s.mgmt.slotB then { x with slotA := b } else { x with slotB := b }

/-- SEC_FW_STAT. -/
def State.fwStat (s : State) (state : Nat) (st : Status) : State := s.modSec fun x => { x with fwState := state, fwStatus := st }

/-- FW_ROLLBACK: the other slot, checked anew, is named for the next reset. -/
def execFwRollback (by_ : Master) (s : State) : Host.Outcome State Fault Refusal :=
  let st := s.slotStatus s.otherSlot
  let done := s.ownerOp by_ (secOffset 0x94) true st fun s =>
    ((s.modFlash fun x => { x with bootB := !s.mgmt.slotB }).modSec fun x =>
      { x with rollbackBit := true, fwStatus := Code.ok }).secStatus Code.ok
  .next (match by_, s.ownerGate true, st with
    | .companion, none, some bad => done.modSec fun x => { x with fwStatus := bad }
    | _, _, _ => done)

/-- FW_UPDATE: the slot that does not run is erased; the image is read and programmed. -/
def execFwUpdate (s : State) : Host.Outcome State Fault Refusal :=
  .next (if s.sec.fwState = 1 then s.secStatus Code.fwBusy
    else
      (((s.setOtherSlot []).modSec fun x => { x with fwJobLen := x.fwLen }).fwStat 1 Code.pending).secStatus Code.ok)

/-- FW_UPDATE_DONE: what was read and programmed passes the checks, and the boot-control record names it, or it is erased. Fewer
bytes than SEC_FW_LEN mean that the read failed. -/
def execFwUpdateDone (image : List Byte) (s : State) : Host.Outcome State Fault Refusal :=
  .next (if s.sec.fwState != 1 then s
    else if image.length < s.sec.fwJobLen then
      (s.setOtherSlot []).fwStat 2 (if s.linkUp then Code.compAccess else Code.linkDown)
    else
      let b := image.take s.sec.fwJobLen
      match s.slotStatus b with
      | some st => (s.setOtherSlot []).fwStat 2 st
      | none => ((s.setOtherSlot b).modFlash fun x => { x with bootB := !s.mgmt.slotB }).fwStat 2 Code.ok)

/-- FW_COMMIT: fuses rise to the running firmware's SVN and revoke the keys it names. -/
def execFwCommit (s : State) : Host.Outcome State Fault Refusal :=
  .next (if s.sec.fwState = 1 then s.secStatus Code.fwBusy
    else
      let fw := s.mgmt.firmware
      let fuses := { s.fuses with floor := max s.fuses.floor (leAt fw 0x0C 1),
                                  revoked := s.fuses.revoked ||| bits (leAt fw 0x0E 1) 0 4 }
      ({ s with fuses := fuses }.fwStat 2 Code.ok).secStatus Code.ok)

/-! ### Attestation (R406 to R410) -/

/-- The value of a measurement log. -/
def logValue (entries : List (List Byte)) : List Byte :=
  entries.foldl (fun v d => digest (v ++ slice d 0 64)) (List.replicate 64 0)

/-- The signed fields of a report, captured at one instant. -/
def State.reportBody (s : State) (nonce : List Byte) (seq : Nat) : List Byte :=
  let f := s.fuses
  let fw := s.mgmt.firmware
  let on := s.gram.image.isSome
  let flags := b2n s.flash.ownerKey.isSome + 2 * b2n s.sec.debug + 4 * b2n s.flash.sealBroken + 8 * b2n s.pwr.restricted
    + 16 * b2n on + 32 * b2n s.mgmt.fallback
  leBytes 4 0x54414B41 ++ leBytes 2 1 ++ leBytes 1 f.grade ++ leBytes 1 flags ++ leBytes 8 f.deviceId ++ slice nonce 0 32
    ++ leBytes 24 f.cores ++ leBytes 2 f.stk ++ leBytes 1 f.ports ++ leBytes 1 (b2n f.fp64) ++ leBytes 2 s.mgmt.fwVersion
    ++ leBytes 1 (leAt fw 0x0C 1) ++ leBytes 1 f.floor ++ leBytes 1 (b2n s.mgmt.slotB) ++ leBytes 3 0
    ++ leBytes 4 (if on then s.gram.serial else 0) ++ leBytes 2 s.sec.partialLog.length ++ leBytes 2 s.sec.clauseLog.length
    ++ leBytes 4 seq ++ imageDigest fw ++ (if on then slice s.gram.digest 0 64 else List.replicate 64 0)
    ++ logValue s.sec.partialLog ++ logValue s.sec.clauseLog
    ++ leBytes 8 (match s.flash.ownerKey with
      | some k => keyId k
      | none => 0) ++ leBytes 24 0

/-- The report with its trailer, signed by the identity key. -/
def signReport (body : List Byte) : List Byte :=
  body ++ slice (Config.identitySign (digest body)) 0 114 ++ leBytes 6 0 ++ leBytes 8 (keyId Config.identityKey)

/-- The output of CERTS. -/
def certOutput : List Byte :=
  leBytes 2 Config.deviceCert.length ++ leBytes 2 Config.caCert.length ++ leBytes 4 0 ++ Config.deviceCert ++ Config.caCert

/-- The output of LOGS. -/
def Sec.logOutput (x : Sec) : List Byte :=
  leBytes 2 x.partialLog.length ++ leBytes 2 x.clauseLog.length ++ leBytes 4 0 ++ x.partialLog.flatten ++ x.clauseLog.flatten

/-- A job of attestation starts: products by the bits of `mask`, the report with a nonce. -/
def State.attestStart (s : State) (mask : Nat) (writes : Bool) (nonce : List Byte) : State :=
  let (body, s) :=
    if bit mask 0 then
      let (seq, s) := s.takeSeq
      (s.reportBody nonce seq, s)
    else ([], s)
  s.modSec fun x =>
    { x with attState := 1, attStatus := Code.pending, attJob := mask % 8, attWrites := writes, attBody := body }

/-- The nonce in SEC_ATT_NONCE. -/
def Sec.nonceBytes (x : Sec) : List Byte := (List.range 4).flatMap fun i => leBytes 8 (x.nonce.look 0 i)

/-- A write of SEC_ATT_CMD. -/
def State.attestCmd (s : State) (mask : Nat) : State :=
  if s.sec.attState = 1 then s.secStatus Code.attestBusy
  else if mask % 8 = 0 then s.secStatus Code.ok
  else (s.attestStart mask true s.sec.nonceBytes).secStatus Code.ok

/-- ATTEST_REPORT -/
def execAttestReport (s : State) : Host.Outcome State Fault Refusal := .next (s.attestCmd 1)

/-- ATTEST_CERTS -/
def execAttestCerts (s : State) : Host.Outcome State Fault Refusal := .next (s.attestCmd 2)

/-- ATTEST_LOGS -/
def execAttestLogs (s : State) : Host.Outcome State Fault Refusal := .next (s.attestCmd 4)

/-- ATTEST_DONE: each product is written to SEC_ATT_DST as a release, in the order REPORT, CERTS, LOGS; then the event. -/
def execAttestDone (s : State) : Host.Outcome State Fault Refusal :=
  let x := s.sec
  .next (if x.attState != 1 then s
    else
      let report := if bit x.attJob 0 then signReport x.attBody else x.report
      let st := if x.attWrites && !s.linkUp then Code.linkDown else Code.ok
      let products := (if bit x.attJob 0 then [report] else []) ++ (if bit x.attJob 1 then [certOutput] else [])
        ++ (if bit x.attJob 2 then [x.logOutput] else [])
      let s := s.modSec fun x => { x with attState := 2, attStatus := st, report := report }
      if !x.attWrites then s
      else
        let s := if s.linkUp then products.foldl (fun s b => s.compWriteBytes x.attDst b .release) s else s
        s.event Cls.sec st Obs.ofSec 0xFF 0 0)

/-- An answer to the board management controller, which firmware gives. -/
def State.mctpAnswer (s : State) (st : Status) (b : List Byte) : State := s.emit (.mctpReply st b)

/-- MCTP_ATTEST -/
def execMctpAttest (nonce : List Byte) (s : State) : Host.Outcome State Fault Refusal :=
  .next (if s.mgmt.boot != .ready then s
    else if s.sec.attState = 1 then s.mctpAnswer Code.attestBusy []
    else (s.attestStart 1 false nonce).mctpAnswer Code.ok [])

/-- MCTP_REPORT_CHUNK: before a first report has been made the manual gives no bytes. -/
def execMctpReportChunk (index : Nat) (s : State) : Host.Outcome State Fault Refusal :=
  .next (if s.mgmt.boot != .ready then s
    else if s.sec.attState = 1 && bit s.sec.attJob 0 then s.mctpAnswer Code.attestBusy []
    else if index ≥ 8 then s.mctpAnswer Code.badValue []
    else if s.sec.report.isEmpty then
      let (b, s) := s.drawBytes 64
      s.mctpAnswer Code.ok b
    else s.mctpAnswer Code.ok (slice s.sec.report (64 * index) 64))

/-- MCTP_CERTS_CHUNK -/
def execMctpCertsChunk (index : Nat) (s : State) : Host.Outcome State Fault Refusal :=
  .next (if s.mgmt.boot != .ready then s
    else if index ≥ 64 then s.mctpAnswer Code.badValue []
    else s.mctpAnswer Code.ok (slice certOutput (64 * index) 64))

end Sys2Proof.Machine
end

