-- ==== Sys2Proof/Machine/Boot.lean ====
section
/-!
DEFINITION. Power and reset, the boot of the management complex, clocks and rails, management restart and factory reset (R403,
R414, R419 to R425, R440 to R444).
-/

namespace Sys2Proof.Machine

/-- The state with the management complex changed. -/
def State.modMgmt (s : State) (f : Mgmt → Mgmt) : State := { s with mgmt := f s.mgmt }

/-! ### Reset (R421) -/

/-- What the record store says of a stack's channels: erasure positions, and which of them are mapped out (R204, R214, R267). -/
def Flash.channels (x : Flash) (n : Nat) : Tbl Channel :=
  let t := x.erasures.foldl (fun (t : Tbl Channel) (g, e) => if g / 32 = n then t.put (g % 32) { erase := e } else t) []
  x.mapouts.foldl (fun (t : Tbl Channel) (g, r) =>
    if g / 32 = n then t.upd {} (g % 32) fun c => { c with state := .out, reason := r } else t) t

/-- A stack keeps through a reset only that its core dies are initialised; firmware finds its channels in the record store. -/
def Stack.afterReset (x : Stack) (channels : Tbl Channel) : Stack := { initialised := x.initialised, channels := channels }

/-- The stacks of which something is known after a reset. -/
def State.stacksAfter (s : State) (old : Nat → Stack) : Tbl Stack :=
  (List.range 12).foldl (fun t n =>
    let x := (old n).afterReset (s.flash.channels n)
    if x = {} then t else t.put n x) []

/-- Every unit at its reset state: what is fused or in flash, the queue of commands, what has been sent, XL_PERST_n, the cause
register, the slots failed since power-up and the counts of the base dies, whose supply is not gated, stay. -/
def State.resetUnits (s : State) : State :=
  { pending := s.pending, fuses := s.fuses, flash := s.flash, out := s.out, fresh := s.fresh,
    counts := s.counts.filter fun x => x.1 / 4096 == 4,
    stk := s.stacksAfter s.stack,
    xl := { perst := s.xl.perst },
    mgmt := { powerOn := s.mgmt.powerOn, resetPin := s.mgmt.resetPin, restarted := s.mgmt.restarted, factory := s.mgmt.factory,
              failedA := s.mgmt.failedA, failedB := s.mgmt.failedB },
    sec := { sealArmed := s.sec.sealArmed } }

/-- RESET_ASSERT: low for 1 µs or longer; in reset already, nothing changes. -/
def execResetAssert (lowNs : Nat) (s : State) : Host.Outcome State Fault Refusal :=
  .next (if lowNs < 1000 || s.mgmt.boot == .reset then s else s.resetUnits.modMgmt fun x => { x with resetPin := true })

/-- POWER_LOSS: the next power-up finds what fuses and flash hold. -/
def execPowerLoss (s : State) : Host.Outcome State Fault Refusal :=
  .next { pending := s.pending, fuses := s.fuses, flash := s.flash, out := s.out, fresh := s.fresh, stk := s.stacksAfter fun _ => {} }

/-! ### ROM (R403) -/

/-- The slot ROM takes among some, in order: one not marked failed that passes the checks of R402. -/
def State.pickSlot (s : State) : List Bool → Option Bool
  | [] => none
  | b :: r =>
    if (if b then s.mgmt.failedB else s.mgmt.failedA) || (s.slotStatus (if b then s.flash.slotB else s.flash.slotA)).isSome then
      s.pickSlot r
    else some b

/-- The board term that the power-class straps code (R440). -/
def boardTerm (straps : Nat) : Nat := 300 + 300 * (straps % 8)

/-- ROM stops: FAULT_n asserted, nothing further runs until RESET_n. -/
def State.romHalt (s : State) : State := s.modMgmt fun x => { x with faultPin := true, boot := .halted }

/-- ROM from step 1: sampling starts, a slot is chosen, and control passes to its firmware. -/
def State.romBoot (s : State) : State :=
  let s := (s.modSec fun x => { x with sampling := true }).modPwr fun x => { x with termBoard := boardTerm s.mgmt.straps }
  match s.pickSlot [s.flash.bootB, !s.flash.bootB] with
  | none => s.romHalt
  | some b =>
    let fw := imageOf (if b then s.flash.slotB else s.flash.slotA)
    s.modMgmt fun x =>
      { x with boot := .firmware, slotB := b, fallback := b != s.flash.bootB, firmware := fw, fwVersion := leAt fw 6 2 }

/-- The record store with a record whose copies have all failed their CRC: absent, but for the owner key, which sets KEY_BAD
(R416, R426). -/
def Flash.lose (x : Flash) (r : StoreRecord) : Flash :=
  match r with
  | .bootControl => { x with bootB := false }
  | .ownerKey => { x with ownerKey := none, keyBad := x.keyBad || x.ownerKey.isSome }
  | .sealLog => { x with breaks := 0, sealBroken := false }
  | .mapout n ch => { x with mapouts := x.mapouts.drop (32 * n + ch) }
  | .erasure n ch => { x with erasures := x.erasures.drop (32 * n + ch) }
  | .guardBand die => { x with guardbands := x.guardbands.drop die }
  | .shutdown i => { x with shutdowns := x.shutdowns.eraseIdx i }

/-- RESET_RELEASE: the flash as a programmer may have left it while RESET_n was low, and the records whose copies all fail; the
straps sampled and REFCLK_XL checked. -/
def execResetRelease (straps : Nat) (finds : BootFinds) (slotA slotB : Option (List Byte)) (s : State) :
    Host.Outcome State Fault Refusal :=
  .next <|
    if s.mgmt.boot != .reset then s
    else
      let s := s.modFlash fun x => finds.lost.foldl Flash.lose { x with slotA := slotA.getD x.slotA, slotB := slotB.getD x.slotB }
      let s := { s with stk := s.stacksAfter s.stack }
      let s := s.modMgmt fun x => { x with straps := straps % 64 }
      if bit straps 5 || !finds.refclkXl then s.romHalt else s.romBoot

/-- BOOT_WATCHDOG: the slot that runs is marked failed for this power-up; ROM boots the other. -/
def execBootWatchdog (s : State) : Host.Outcome State Fault Refusal :=
  .next <|
    if s.mgmt.boot != .firmware then s
    else
      (s.modMgmt fun x =>
        { x with failedA := x.failedA || !x.slotB, failedB := x.failedB || x.slotB }).romBoot

/-- 95 % of a number of watts; where that is no whole number, the manual leaves open which of the two beside it. -/
def State.ninetyFive (s : State) (w : Nat) : Nat × State :=
  if 95 * w % 100 = 0 then (95 * w / 100, s)
  else
    let (up, s) := s.drawBelow 2
    (95 * w / 100 + up, s)

/-- READINESS_SIGNAL: firmware has read the record store and scanned the regulators, each given with the sum over its outputs of
VOUT_COMMAND × IOUT_OC_WARN_LIMIT in watts. Training of the link starts. -/
def execReadinessSignal (regulators : List (Nat × Nat)) (s : State) : Host.Outcome State Fault Refusal :=
  .next <|
    if s.mgmt.boot != .firmware then s
    else
      let found := regulators.filter fun r => decide (0x40 ≤ r.1) && decide (r.1 ≤ 0x4F)
      let (w, s) := s.ninetyFive ((found.map (·.2)).foldl (· + ·) 0)
      let s := s.modPwr fun x =>
        { x with regFound := found.length % 32, termReg := min 4095 w, domOn := putBit x.domOn 66 true,
                 restricted := s.flash.shutdowns.any fun r => !r.acked }
      ((s.restartCounts 66).modMgmt fun x => { x with boot := .ready, faultPin := x.faultPin && !x.afterRestart }).startTraining

/-! ### Restarts from ROM (R414, R425) -/

/-- The management complex starts again from ROM: every unit as after a reset, the straps held, presence and the seal sampled on,
FAULT_n as it was. -/
def State.romRestart (s : State) : State :=
  let t := s.resetUnits
  { t with counts := s.counts.filter fun x => x.1 / 4096 == 4 || x.1 / 4096 == 8,
           mgmt := { t.mgmt with straps := s.mgmt.straps, faultPin := s.mgmt.faultPin },
           sec := { t.sec with presence := s.sec.presence, presStuck := s.sec.presStuck, sealOpen := s.sec.sealOpen,
                               lowRun := s.sec.lowRun, highRun := s.sec.highRun, needRelease := s.sec.needRelease,
                               openRun := s.sec.openRun, closedRun := s.sec.closedRun } }

/-- MGMT_RESTART -/
def execMgmtRestart (s : State) : Host.Outcome State Fault Refusal :=
  .next <|
    if s.mgmt.boot != .firmware && s.mgmt.boot != .ready then s
    else
      ((s.powerDown.romRestart).modMgmt fun x => { x with faultPin := true, restarted := true, afterRestart := true }).romBoot

/-- The owner operation of R414: the records erased, the running slot named, the event sent, every domain off, then ROM. -/
def State.factoryReset (s : State) : State :=
  let s := s.modFlash fun x =>
    { x with ownerKey := none, keyBad := false, shutdowns := [], breaks := 0, sealBroken := false, mapouts := [], erasures := [],
             bootB := s.mgmt.slotB }
  let s := (s.event Cls.sec Code.factoryReset Obs.ofSec 0xFF 0 0).flushRecords
  ((s.powerDown.romRestart).modMgmt fun x => { x with factory := true }).romBoot

/-- FACTORY_RESET -/
def execFactoryReset (by_ : Master) (key : Nat) (s : State) : Host.Outcome State Fault Refusal :=
  .next (s.ownerOp by_ (secOffset 0x7C) true (if key = 0x46414354 then none else some Code.badValue) State.factoryReset)

/-! ### Rails and clocks (R419, R442, R444) -/

/-- STACK_RAILS_UP: the base die initialises its core dies and holds them in self-refresh; its count starts (R24). -/
def execStackRailsUp (n : Nat) (s : State) : Host.Outcome State Fault Refusal :=
  .next (if s.stackPresent n then
    { s with counts := s.counts.drop (islandField 4 n) }.modStack n fun x => { x with initialised := true } else s)

/-- STACK_RAIL_FAULT: the contents of the die's stacks are lost. -/
def execStackRailFault (die : Nat) (s : State) : Host.Outcome State Fault Refusal :=
  .next (((List.range 6).map (6 * (die % 2) + ·)).foldl (fun s n =>
    s.modStack n fun x => { x with lost := true, initialised := false }) s)

/-- REFCLK_XL_LOSS while running: the internal oscillator, FAULT_n, every domain off, and a wait for RESET_n. -/
def execRefclkXlLoss (s : State) : Host.Outcome State Fault Refusal :=
  .next <|
    if s.mgmt.boot != .firmware && s.mgmt.boot != .ready then s
    else (s.powerDown.romHalt).modMgmt fun x => { x with internalClock := true }

/-- REFCLK_FAB_LOSS: every port that is up retrains. -/
def execRefclkFabLoss (s : State) : Host.Outcome State Fault Refusal :=
  .next ((List.range 8).foldl State.portRetrain s)

end Sys2Proof.Machine
end

