-- ==== Sys2Proof/Machine/Background.lean ====
section
/-!
DEFINITION. Background work: recalibration, telemetry, flash wear and the ageing monitors (R209, R373, R427 to R434).
-/

namespace Sys2Proof.Machine

/-- PHY_RECAL_WINDOW: up to 2 µs of a port's time; the window that a stack's failing transfers had asked for is over with it (R209,
R249, R373). -/
def execPhyRecalWindow (fabric : Bool) (unit : Nat) (s : State) : Host.Outcome State Fault Refusal :=
  .next (if fabric || !(s.stackPresent unit) then s else s.modStack unit fun x => { x with recalibrate := false })

/-- FLASH_SECTOR_ERASE: a stale sector of the record store is erased, while wear management runs (R428). -/
def execFlashSectorErase (sector : Nat) (s : State) : Host.Outcome State Fault Refusal :=
  .next (if bit s.mgmt.bkgRun 3 && decide (sector < 32) then s.modFlash fun x => { x with erases := x.erases.upd 0 sector (· + 1) } else s)

/-- AGEING_MONITOR_READ: a margin below its threshold raises the die's guard-band by 5 mV, to at most 60 mV (R429). -/
def execAgeingMonitorRead (die : Nat) (belowThreshold : Bool) (s : State) : Host.Outcome State Fault Refusal :=
  .next (if bit s.mgmt.bkgRun 4 && belowThreshold && decide (die < 2) then
    s.modFlash fun x => { x with guardbands := x.guardbands.upd 0 die fun v => min 60 (v + 5) }
  else s)

/-! ### Telemetry (R430 to R434) -/

/-- A write of TEL_BASE or TEL_CFG. -/
def State.telemetryConfig (s : State) (base : Bool) (v : Nat) : State :=
  let m := s.mgmt
  let off := if base then 0xA000 else 0xA008
  let log2 := bits v 0 4
  let bad := if base then v % 4096 != 0 || m.telEnable
    else decide (log2 < 6) || decide (14 < log2) || (m.telEnable && log2 != m.telLog2)
  if bad then s.badValue off
  else
    let s := if m.telEnable then s else s.modMgmt fun x => { x with telTail := 0, telPhase := true }
    if base then s.modMgmt fun x => { x with telBase := v % 2 ^ 64 }
    else s.modMgmt fun x => { x with telLog2 := log2, telEnable := bit v 4, telKinds := bits v 8 4 }

/-- TELEMETRY_CONFIG -/
def execTelemetryConfig (base : Bool) (v : Nat) (s : State) : Host.Outcome State Fault Refusal := .next (s.telemetryConfig base v)

/-- A telemetry source: its kind, 0 device to 3 fabric port, and its number. -/
structure TelSource where
  kind : Nat
  unit : Nat
  deriving DecidableEq, Repr

/-- The sources of the kinds sampled, in order. -/
def State.telSources (s : State) (kinds : Nat) : List TelSource :=
  let of (k n : Nat) (on : Nat → Bool) : List TelSource := if bit kinds k then ((List.range n).filter on).map fun i => ⟨k, i⟩ else []
  of 0 1 (fun _ => true) ++ of 1 16 (fun _ => true) ++ of 2 12 s.stackPresent ++ of 3 8 s.portPresent

/-- SOURCE and ISLAND of a source's record. -/
def TelSource.obs (t : TelSource) : Obs :=
  match t.kind with
  | 0 => ⟨0xC100, islandField 8 0⟩
  | 1 => ⟨coreStation t.unit 12, islandField 1 t.unit⟩
  | 2 => ⟨0x4000 + 0x400 * t.unit, islandField 4 t.unit⟩
  | _ => ⟨0xE010 + t.unit, islandField 7 t.unit⟩

/-- The counters of a source that its records show by their change. -/
def State.telCounters (s : State) (t : TelSource) : List Nat :=
  match t.kind with
  | 0 => [s.pwr.alerts]
  | 1 => [(s.cluster t.unit).sramCe]
  | 2 =>
    let x := s.stack t.unit
    [x.unitLines, x.portLines, ((List.range 32).map fun ch => (s.chan t.unit ch).ce).foldl (· + ·) 0]
  | _ =>
    let x := s.port t.unit
    [x.bytesOut, x.bytesIn, x.resent, x.fecCorrected]

/-- The number a source's previous counters are kept under. -/
def TelSource.key (t : TelSource) : Nat := 64 * t.kind + t.unit

/-- Every source's counters as they stand are what the next sample counts from. -/
def State.telMark (s : State) : State :=
  let prev := (s.telSources 15).map fun t => (t.key, s.telCounters t)
  s.modMgmt fun x => { x with telPrev := prev }

/-- The change of a counter of `n` bytes. -/
def counterRise (n new old : Nat) : Nat := (new + 2 ^ (8 * n) - old % 2 ^ (8 * n)) % 2 ^ (8 * n)

/-- Module power in units of 0.125 W; the always-on island's share is a free value up to its rated 46 W. -/
def State.modulePower (s : State) : Nat × State :=
  let (aon, s) := s.drawBelow 369
  (((List.range 67).map s.counted).foldl (· + ·) aon, s)

/-- The payload of a source's record (R433). The M, V and D cycles of a cluster are free values (log entry 1). -/
def State.telPayload (s : State) (t : TelSource) : List Byte × State :=
  let new := s.telCounters t
  let old := s.mgmt.telPrev.look [] t.key
  let ch (i n : Nat) : List Byte := leBytes n (counterRise n (new.getD i 0) (old.getD i 0))
  match t.kind with
  | 0 =>
    let (w, s) := s.modulePower
    (leBytes 8 s.srv.tick ++ leBytes 4 w ++ leBytes 2 s.pwr.inForce ++ leBytes 2 s.thm.hot.toNat ++ leBytes 1 s.thm.t
      ++ leBytes 1 s.sched.plan ++ ch 0 2 ++ leBytes 20 0, s)
  | 1 =>
    let c := t.unit
    let (cycles, s) := s.drawBytes 24
    let running := ((List.range 12).filter fun k => s.corePresent c k && (s.core c k).run == .running).length
    let dirty := ((s.cluster c).cache.filter fun l => l.2.dirty != 0).length
    (cycles ++ leBytes 1 (s.pwr.opp.look 0 c) ++ leBytes 1 running ++ leBytes 2 (s.pwr.power.look 0 c)
      ++ leBytes 2 (s.pwr.power.look 0 (16 + c)) ++ leBytes 2 0 ++ ch 0 4 ++ leBytes 4 dirty, s)
  | 2 =>
    let n := t.unit
    let x := s.stack n
    let owed := ((List.range 32).map fun c => (s.chan n c).owed).foldl max 0
    (ch 0 8 ++ ch 1 8 ++ leBytes 2 (if x.sensorFail then 0 else (signed 12 x.temp).toNat) ++ leBytes 1 x.admitMax ++ leBytes 1 x.share ++ leBytes 1 owed ++ leBytes 3 0 ++ ch 2 4
      ++ leBytes 2 (s.pwr.power.look 0 (32 + n)) ++ leBytes 2 (s.pwr.power.look 0 (44 + n)) ++ leBytes 8 0, s)
  | _ =>
    let f := t.unit
    let st := match (s.port f).state with
      | .off => 0
      | .negotiating => 1
      | .training => 2
      | .up => 3
      | .retraining => 4
      | .down => 5
    let flows := ((s.port f).flows.filter fun x => x.2.state == .open_).length
    (ch 0 8 ++ ch 1 8 ++ ch 2 4 ++ ch 3 4 ++ leBytes 1 st ++ leBytes 1 0 ++ leBytes 2 flows ++ leBytes 2 (s.pwr.power.look 0 (56 + f))
      ++ leBytes 10 0, s)

/-- FLAGS.PARTIAL of a source's record: a stack whose sensor has failed has no temperature, which reads zero (R210, R432). -/
def State.telPartial (s : State) (t : TelSource) : Bool := t.kind == 2 && (s.stack t.unit).sensorFail

/-- One record of a sample, written whole into the ring. -/
def State.telRecord (s : State) (sample index : Nat) (t : TelSource) : State :=
  let (seq, s) := s.takeSeq
  let (count, s) := s.islandCount t.obs.island
  let (payload, s) := s.telPayload t
  let m := s.mgmt
  let line := leBytes 1 t.kind ++ leBytes 1 (b2n m.telPhase + 2 * b2n (s.telPartial t)) ++ leBytes 2 t.obs.source ++ leBytes 4 seq ++ leBytes 2 t.obs.island
    ++ leBytes 2 index ++ leBytes 4 sample ++ leBytes 8 count ++ payload
  let s := s.compWriteBytes (m.telBase + 64 * m.telTail) line .ordered
  let next := (m.telTail + 1) % 2 ^ m.telLog2
  let counters := s.telCounters t
  s.modMgmt fun x =>
    { x with telTail := next, telPhase := if next = 0 then !x.telPhase else x.telPhase, telPrev := x.telPrev.put t.key counters }

/-- TELEMETRY_SAMPLE: at a multiple of BKG.TELEM; with the link down the sample is dropped whole and counted. -/
def execTelemetrySample (s : State) : Host.Outcome State Fault Refusal :=
  .next <|
    let m := s.mgmt
    if !(bit m.bkgRun 5) || !m.telEnable || s.srv.tick % s.srvImage.telem != 0 then s
    else
      let s := s.modMgmt fun x => { x with telNext := (x.telNext + 1) % 2 ^ 32 }
      if !s.linkUp then s.modMgmt fun x => { x with telMissed := (x.telMissed + 1) % 2 ^ 32 }
      else
        let ts := s.telSources m.telKinds
        (List.range ts.length).foldl (fun s i => s.telRecord m.telNext i (ts.getD i ⟨0, 0⟩)) s

end Sys2Proof.Machine
end

