-- ==== Sys2Proof/Machine/Grammar.lean ====
section
/-!
DEFINITION. Grammar images: their layout, the thirteen checks, and what they say (R32 to R57).
-/

namespace Sys2Proof.Machine

/-! ### Layout (R32 to R34, R37) -/

/-- A directory entry. -/
structure Sect where
  typ : Nat
  version : Nat
  off : Nat
  size : Nat
  count : Nat
  deriving DecidableEq, Repr

abbrev secPart : Nat := 1
abbrev secStat : Nat := 2
abbrev secPwr : Nat := 3
abbrev secPhas : Nat := 4
abbrev secMem : Nat := 5
abbrev secFab : Nat := 6
abbrev secXl : Nat := 7
abbrev secBsu : Nat := 8
abbrev secSrv : Nat := 9
abbrev secSched : Nat := 10
abbrev secBkg : Nat := 11
abbrev secMapo : Nat := 12

/-- RECORD of a fault in a COUNT, in a head, or in a section without records. -/
abbrev noRecord : Nat := 0xFFFF

/-- Where a refusal lies: status, GRAM_DETAIL and GRAM_RESOURCE. -/
structure ImgFault where
  status : Status
  section_ : Nat := 0
  record : Nat := 0
  rkind : Nat := 0
  rnum : Nat := 0
  deriving DecidableEq, Repr

/-- The directory of an image. -/
def directory (b : List Byte) : List Sect :=
  (List.range (leAt b 0x0C 2)).map fun i =>
    let o := 0x40 + 16 * i
    { typ := leAt b o 2, version := leAt b (o + 2) 2, off := leAt b (o + 4) 4, size := leAt b (o + 8) 4, count := leAt b (o + 12) 4 }

/-- Head and record size of a section type; a section without records is all head. -/
def sectSizes (typ : Nat) : Option (Nat × Nat) :=
  match typ with
  | 1 => some (0, 64)
  | 2 => some (0, 32)
  | 3 => some (8, 4)
  | 4 => some (0, 64)
  | 5 => some (32, 0)
  | 6 => some (8, 8)
  | 7 => some (16, 0)
  | 8 => some (0, 8)
  | 9 => some (16, 0)
  | 10 => some (16, 0)
  | 11 => some (16, 0)
  | 12 => some (16, 0)
  | _ => none

/-- Bytes of a section from an offset in its head, and in its record `i`. -/
def Sect.head (x : Sect) (b : List Byte) (o n : Nat) : Nat := leAt b (x.off + o) n
def Sect.rec_ (x : Sect) (b : List Byte) (i o n : Nat) : Nat :=
  match sectSizes x.typ with
  | some (h, r) => leAt b (x.off + h + r * i + o) n
  | none => 0
def Sect.recBytes (x : Sect) (b : List Byte) (i o n : Nat) : List Byte :=
  match sectSizes x.typ with
  | some (h, r) => slice b (x.off + h + r * i + o) n
  | none => []

/-- Two sections share a byte. -/
def Sect.overlaps (x y : Sect) : Bool := decide (x.off < y.off + y.size) && decide (y.off < x.off + x.size)

/-- A section of a listed type stands on a multiple of 8 between the directory and the trailer (R34). -/
def Sect.placed (x : Sect) (b : List Byte) (all : List Sect) : Bool :=
  (sectSizes x.typ).isSome && x.off % 8 == 0 && decide (0x40 + 16 * all.length ≤ x.off)
    && decide (x.off + x.size ≤ b.length - 128)

/-- A section of a type that R37 does not list holds the byte at an offset. -/
def Sect.foreignAt (x : Sect) (o : Nat) : Bool :=
  (sectSizes x.typ).isNone && decide (x.off ≤ o) && decide (o < x.off + x.size)

/-- The bytes between a section and the next one. The next is the first that begins at the section's end or later and holds a byte,
or begins later: among those of listed types, of those that stand where a section may; a section without a record therefore is not
its own next one. A section of another type, of which check 1 tests VERSION alone, ends the gap like any, and its bytes are no gap
(log entry 68). -/
def Sect.gap (x : Sect) (b : List Byte) (all : List Sect) : List Byte :=
  let e := x.off + x.size
  let next := all.filter fun y =>
    (y.placed b all || (sectSizes y.typ).isNone) && (decide (e < y.off) || y.off == e && decide (0 < y.size))
  match (next.map (·.off)).min? with
  | none => []
  | some o => ((List.range (min o (b.length - 128) - e)).filter fun i => !(all.any fun y => y.foreignAt (e + i))).map fun i => b.getD (e + i) 0

/-- A directory entry under R34; one of a type that R37 does not list by its VERSION alone. -/
def Sect.ok (x : Sect) (b : List Byte) (earlier all : List Sect) : Bool :=
  x.version == 1 && (match sectSizes x.typ with
    | none => true
    | some (h, r) =>
      x.size == h + r * x.count && (r != 0 || x.count == 0) && x.placed b all
        && !(earlier.any fun y => (sectSizes y.typ).isSome && x.overlaps y) && (x.gap b all).all (· == 0))

/-- GRAM_LEN as R57 allows it. -/
def gramLenOk (len : Nat) : Bool := len % 8 == 0 && decide (0xD0 ≤ len) && decide (len ≤ 0x30000)

/-- A fault in the header at an offset. -/
def headFault (st : Status) (off : Nat) : ImgFault := { status := st, section_ := 0xFFFF, record := off }

/-- Check 1 on an image read, in the order the table lists it. -/
def checkFormat (b : List Byte) (len cmd : Nat) : Option ImgFault :=
  let dir := directory b
  if leAt b 8 4 != len then some (headFault Code.imgFormat 8)
  else if leAt b 0 4 != 0x49474B41 then some (headFault Code.imgFormat 0)
  else if leAt b 4 2 != 3 then some (headFault Code.imgFormat 4)
  else if leAt b 6 1 + 1 != cmd then some (headFault Code.imgFormat 6)
  else if leAt b 0x0C 2 = 0 || 12 < leAt b 0x0C 2 then some (headFault Code.imgFormat 0x0C)
  else
    match (List.range dir.length).find? fun i =>
        !((dir.getD i ⟨0, 0, 0, 0, 0⟩).ok b (dir.take i) dir) with
    | none => none
    | some i => some { status := Code.imgFormat, section_ := i }

/-! ### Section types (check 5) -/

/-- Types required and allowed of a full and of a partial image. -/
def sectRequired (part : Bool) : List Nat := if part then [1] else [1, 2, 3, 4, 5, 8, 9, 10]
def sectAllowed (part : Bool) : List Nat := if part then [1, 2, 8] else [1, 2, 3, 4, 5, 6, 7, 8, 9, 10, 11, 12]

/-- Check 5: the first entry not allowed or repeated, then the first required type that is missing. -/
def checkSections (dir : List Sect) (part : Bool) : Option ImgFault :=
  let bad := (List.range dir.length).find? fun i =>
    let t := (dir.getD i ⟨0, 0, 0, 0, 0⟩).typ
    !((sectAllowed part).contains t) || (dir.take i).any (·.typ == t)
  match bad with
  | some i => some { status := Code.imgSection, section_ := (dir.getD i ⟨0, 0, 0, 0, 0⟩).typ }
  | none =>
    match (sectRequired part).find? fun t => !(dir.any (·.typ == t)) with
    | some t => some { status := Code.imgSection, section_ := t }
    | none => none

/-! ### Reserved values (check 6) -/

/-- A value within a range. -/
def within (x lo hi : Nat) : Bool := decide (lo ≤ x) && decide (x ≤ hi)

/-- ASCII bytes, NUL-padded. -/
def asciiPadded (x : List Byte) : Bool := x.all (fun c => decide (c.toNat < 0x80)) && (x.dropWhile (· != 0)).all (· == 0)

/-- COUNT under R38. -/
def countOk (typ count : Nat) (part : Bool) : Bool :=
  match typ with
  | 1 => if part then count == 1 else within count 1 16
  | 2 => decide (count ≤ 4096)
  | 3 => count == 67
  | 4 => within count 1 8
  | 6 => count == 8
  | 8 => if part then count == 1 else decide (count ≤ 16)
  | _ => true

/-- What check 6 needs beside the section: the image's kind, the partitions its PART records define, its plans. -/
structure ImgNames where
  part : Bool
  pids : List Nat
  plans : List Nat
  deriving DecidableEq, Repr

/-- The head of a section, or the whole of one without records. -/
def sectHeadOk (b : List Byte) (k : ImgNames) (x : Sect) : Bool :=
  let f := x.head b
  match x.typ with
  | 3 => within (f 0 2) 300 2400 && within (f 2 2) 300 (f 0 2) && f 4 4 == 0
  | 4 => k.plans.contains 0
  | 5 => within (f 0 1) 0 2 && within (f 1 1) 8 12 && f 2 2 == 0 && decide (1024 ≤ f 4 4) && f 12 20 == 0
  | 6 => decide (f 0 8 ≤ 1)
  | 7 => within (f 0 1) 1 3 && within (f 1 1) 0 1 && within (f 2 1) 0 1 && within (f 3 1) 1 16 && f 4 12 == 0
  | 9 => within (f 0 2) 1 4096 && within (f 2 2) 0 1024 && within (f 4 1) 1 64 && within (f 5 1) 1 8 && within (f 6 1) 1 (f 5 1)
      && f 7 1 == 0 && f 10 6 == 0
  | 10 => within (f 0 1) 0 1 && k.plans.contains (f 1 1) && f 2 2 == 0 && within (f 4 4) 10000 10000000 && f 8 8 == 0
  | 11 => decide (f 0 1 < 64) && bit (f 0 1) 2 && bit (f 0 1) 4 && f 1 1 == 0 && within (f 2 2) 1 50 && within (f 4 4) 1000 100000000
      && f 8 8 == 0
  | 12 => decide (1 ≤ f 0 2) && decide (1 ≤ f 2 2) && within (f 4 1) 0 1 && f 5 11 == 0
  | _ => true

/-- The shares of a PHAS record: 1 to 1000 for a defined partition, 0 for another (R46). -/
def sharesOk (pids shares : List Nat) : Bool :=
  (List.range 16).all fun p => let v := shares.getD p 0
    if pids.contains p then within v 1 1000 else v == 0

/-- One record of a section. `limit` is PWR's LIMIT. -/
def sectRecordOk (b : List Byte) (k : ImgNames) (x : Sect) (i : Nat) : Bool :=
  let f := x.rec_ b i
  match x.typ with
  | 1 => within (f 0 1) 0 15 && (if k.part then decide (f 1 1 ≤ 1) else f 1 1 == 1) && within (f 2 2) 1 1000 && within (f 0x20 2) 64 4096
      && f 0x20 2 % 64 == 0 && within (f 0x22 1) 0 2 && within (f 0x23 1) 40 52 && f 0x24 12 == 0 && asciiPadded (x.recBytes b i 0x30 16)
  | 2 => asciiPadded (x.recBytes b i 0 24) && f 0 1 != 0 && station (f 0x18 2) != .reserved && within (f 0x1A 1) 0 15 && f 0x1B 5 == 0
  | 3 => f 0 1 == i && within (f 1 1) 0 1 && within (f 2 2) 0 (x.head b 0 2)
  | 4 => within (f 0 1) 0 7 && f 1 1 == 0 && sharesOk k.pids ((List.range 16).map fun p => f (8 + 2 * p) 2)
      && asciiPadded (x.recBytes b i 0x28 16) && f 0x38 8 == 0
  | 6 => f 0 1 == i && within (f 1 1) 0 1 && within (f 2 1) 0 2 && within (f 3 1) 0 1 && (within (f 4 1) 0 15 || f 4 1 == 0xFF) && f 5 3 == 0
  | 8 => within (f 0 1) 0 15 && f 1 1 == 0 && decide (f 2 2 < 4096) && within (f 4 2) 1 384 && f 6 2 == 0
  | _ => true

/-- The header's reserved values, in offset order: the offset of the first. -/
def headerReserved (b : List Byte) (part : Bool) : Option Nat :=
  let target := leAt b 0x0E 1
  if (if part then decide (15 < target) else target != 0xFF) then some 0x0E
  else if leAt b 0x0F 1 != 0 then some 0x0F
  else if 8 ≤ leAt b 0x10 1 then some 0x10
  else if leAt b 0x11 1 != 0 then some 0x11
  else if !part && leAt b 0x18 32 != 0 then some 0x18
  else if leAt b 0x3C 4 != 0 then some 0x3C
  else none

/-- Check 6 on one section: the record that fails. -/
def sectReserved (b : List Byte) (k : ImgNames) (x : Sect) : Option Nat :=
  if !(countOk x.typ x.count k.part) || !(sectHeadOk b k x) then some noRecord
  else (List.range x.count).find? fun i => !(sectRecordOk b k x i)

/-- The first fault that a judgement finds among the sections, in directory order. -/
def firstFault (dir : List Sect) (judge : Sect → Option ImgFault) : Option ImgFault := dir.findSome? judge

/-- Check 6. -/
def checkReserved (b : List Byte) (dir : List Sect) (k : ImgNames) : Option ImgFault :=
  match headerReserved b k.part with
  | some off => some (headFault Code.imgReserved off)
  | none => firstFault dir fun x =>
      (sectReserved b k x).map fun r => { status := Code.imgReserved, section_ := x.typ, record := r }

/-! ### What an image says -/

/-- The section of a type. -/
def sectOf (dir : List Sect) (typ : Nat) : Option Sect := dir.find? (·.typ == typ)

/-- The records of a section, each read by `f` from its number. -/
def records {α : Type} (dir : List Sect) (typ : Nat) (f : Sect → Nat → α) : List α :=
  match sectOf dir typ with
  | none => []
  | some x => (List.range x.count).map (f x)

/-- A field of a section without records, or of a head. -/
def headField (b : List Byte) (dir : List Sect) (typ off n default_ : Nat) : Nat :=
  match sectOf dir typ with
  | none => default_
  | some x => x.head b off n

/-- The image that bytes spell, the defaults of absent sections filled in. -/
def parseImage (b : List Byte) : Image :=
  let dir := directory b
  let h := headField b dir
  { partial_ := leAt b 6 1 == 1, target := leAt b 0x0E 1, grades := leAt b 0x10 1, serial := leAt b 0x14 4, digest := imageDigest b,
    parts := records dir secPart fun x i =>
      { pid := x.rec_ b i 0 1, flags := x.rec_ b i 1 1, share := x.rec_ b i 2 2, cores := x.rec_ b i 4 24, quota := x.rec_ b i 0x1C 4,
        nouns := x.rec_ b i 0x20 2, pages := x.rec_ b i 0x22 1, vabits := x.rec_ b i 0x23 1, name := x.recBytes b i 0x30 16 },
    stats := records dir secStat fun x i =>
      { name := x.recBytes b i 0 24, station := x.rec_ b i 0x18 2, pid := x.rec_ b i 0x1A 1 },
    hasStat := (sectOf dir secStat).isSome,
    limit := h secPwr 0 2 300, floor := h secPwr 2 2 300,
    pwr := records dir secPwr fun x i => { domain := x.rec_ b i 0 1, on := x.rec_ b i 1 1, budget := x.rec_ b i 2 2 },
    phas := records dir secPhas fun x i =>
      { plan := x.rec_ b i 0 1, bsuPm := x.rec_ b i 2 2, portPm := x.rec_ b i 4 2, cluPm := x.rec_ b i 6 2,
        shares := (List.range 16).map fun p => x.rec_ b i (8 + 2 * p) 2, name := x.recBytes b i 0x28 16 },
    hash := h secMem 0 1 0, granule := h secMem 1 1 8, reserve := h secMem 4 4 1024, models := h secMem 8 4 0,
    remoteMgmt := h secFab 0 1 0 == 1,
    fab := records dir secFab fun x i =>
      { port := x.rec_ b i 0 1, enable := x.rec_ b i 1 1, rate := x.rec_ b i 2 1, carriage := x.rec_ b i 3 1, owner := x.rec_ b i 4 1 },
    maxgen := h secXl 0 1 3, pcieOk := h secXl 1 1 1, cacheComp := h secXl 2 1 1, rings := h secXl 3 1 1,
    bsu := records dir secBsu fun x i => { pid := x.rec_ b i 0 1, stk := x.rec_ b i 2 2, inflight := x.rec_ b i 4 2 },
    requests := h secSrv 0 2 1, prefixes := h secSrv 2 2 0, srvModels := h secSrv 4 1 1, draftMax := h secSrv 5 1 1,
    draftDef := h secSrv 6 1 1, served := h secSrv 8 2 0,
    weightSwitch := h secSched 0 1 0 == 1, plan0 := h secSched 1 1 0, quantum := h secSched 4 4 10000,
    enables := h secBkg 0 1 0x3F, scrub := h secBkg 2 2 50, telem := h secBkg 4 4 1000000,
    ueLimit := h secMapo 0 2 16, ceEvent := h secMapo 2 2 1024, refetch := h secMapo 4 1 0 == 1 }

/-! ### Presence (check 7) -/

/-- A station of an absent core, stack or fabric port (R42). -/
def State.stationUnitAbsent (s : State) (x : Nat) : Bool :=
  match station x with
  | .core c k _ => !(s.corePresent c k)
  | .unit n _ _ => !(s.stackPresent n)
  | .flow f _ => !(s.portPresent f)
  | _ => false

/-- The domain of an absent unit (R43). -/
def State.domainAbsent (s : State) (d : Nat) : Bool :=
  if 32 ≤ d && d < 44 then !(s.stackPresent (d - 32)) else if 44 ≤ d && d < 56 then !(s.stackPresent (d - 44))
  else if 56 ≤ d && d < 64 then !(s.portPresent (d - 56)) else false

/-- The first of some numbered things that a judgement faults: its number with the resource it names. -/
def firstOf {α : Type} (xs : List α) (judge : α → Option (Nat × Nat)) : Option (Nat × Nat × Nat) :=
  (List.range xs.length).findSome? fun i =>
    match xs[i]? with
    | none => none
    | some x => (judge x).map fun r => (i, r.1, r.2)

/-- A fault of a section's record, with its resource. -/
def recordFault (st : Status) (typ : Nat) (r : Option (Nat × Nat × Nat)) : Option ImgFault :=
  r.map fun (i, k, n) => { status := st, section_ := typ, record := i, rkind := k, rnum := n }

/-- Check 7 on one section. -/
def State.sectAbsent (s : State) (img : Image) (typ : Nat) : Option ImgFault :=
  recordFault Code.resourceAbsent typ <|
    match typ with
    | 1 => firstOf img.parts fun r =>
        ((List.range 192).find? fun n => bit r.cores n && !(bit s.fuses.cores n)).map fun n => (1, n)
    | 2 => firstOf img.stats fun r => if s.stationUnitAbsent r.station then some (2, r.station) else none
    | 3 => firstOf img.pwr fun r => if s.domainAbsent r.domain && (r.on != 0 || r.budget != 0) then some (5, r.domain) else none
    | 6 => firstOf img.fab fun r => if r.enable = 1 && !(s.portPresent r.port) then some (4, r.port) else none
    | 8 => firstOf img.bsu fun r => ((List.range 12).find? fun n => bit r.stk n && !(s.stackPresent n)).map fun n => (3, n)
    | _ => none

/-! ### Ownership and uniqueness (check 8) -/

/-- The clusters a core mask holds a core of. -/
def maskClusters (cores : Nat) : List Nat := (List.range 16).filter fun c => bits cores (12 * c) 12 != 0

/-- The lowest core of a mask in some clusters. -/
def lowestIn (cores : Nat) (clusters : List Nat) : Option Nat :=
  (List.range 192).find? fun n => bit cores n && clusters.contains (n / 12)

/-- The cluster of a cluster unit's station. -/
def stationCluster (x : Nat) : Option Nat := if bits x 14 2 = 0 then some (bits x 10 4) else none

/-- Records before one that share something with it. -/
def earlier {α : Type} (xs : List α) (i : Nat) (p : α → Bool) : Bool := (xs.take i).any p

/-- A partition may name a cluster unit's station. -/
def mayName (owned : Nat) (x : Nat) : Bool :=
  match stationCluster x with
  | none => true
  | some c => bits owned (12 * c) 12 != 0

/-- Numbered records judged with their number. -/
def numbered {α : Type} (xs : List α) : List (Nat × α) := (List.range xs.length).zip xs

/-- Check 8 on one section of a full image. -/
def conflictFull (img : Image) (typ : Nat) : Option ImgFault :=
  let coresOf (p : Nat) : Nat := ((img.part p).map (·.cores)).getD 0
  match typ with
  | 1 => recordFault Code.resourceConflict typ <| firstOf (numbered img.parts) fun (i, r) =>
      if earlier img.parts i (·.pid == r.pid) then some (6, r.pid)
      else (lowestIn r.cores ((img.parts.take i).flatMap fun y => maskClusters y.cores)).map fun n => (1, n)
  | 2 => recordFault Code.resourceConflict typ <| firstOf (numbered img.stats) fun (i, r) =>
      if earlier img.stats i fun y => y.pid == r.pid && y.name == r.name then some (2, r.station)
      else if (img.part r.pid).isSome && !(mayName (coresOf r.pid) r.station) then some (2, r.station)
      else if (img.part r.pid).isNone then some (6, r.pid) else none
  | 4 => recordFault Code.resourceConflict typ <| firstOf (numbered img.phas) fun (i, r) =>
      if earlier img.phas i (·.plan == r.plan) then some (0, 0) else none
  | 6 => recordFault Code.resourceConflict typ <| firstOf img.fab fun r =>
      if r.owner != 0xFF && (img.part r.owner).isNone then some (6, r.owner) else none
  | 8 => recordFault Code.resourceConflict typ <| firstOf (numbered img.bsu) fun (i, r) =>
      if (img.part r.pid).isNone || earlier img.bsu i (·.pid == r.pid) then some (6, r.pid) else none
  | 9 =>
    match (List.range 16).find? fun p => bit img.served p && (img.part p).isNone with
    | some p => some { status := Code.resourceConflict, section_ := typ, record := noRecord, rkind := 6, rnum := p }
    | none => none
  | _ => none

/-- Check 8 on one section of a partial image, against the core sets in force (R315). -/
def State.conflictPartial (s : State) (img : Image) (typ : Nat) : Option ImgFault :=
  let held := s.sched.parts.filter fun (p, _) => p != img.target
  let mine := ((img.part img.target).map (·.cores)).getD 0
  recordFault Code.resourceConflict typ <|
    match typ with
    | 1 => firstOf img.parts fun r => (lowestIn r.cores (held.flatMap fun (_, y) => maskClusters y.cores)).map fun n => (1, n)
    | 2 => firstOf (numbered img.stats) fun (i, r) =>
        if earlier img.stats i fun y => y.pid == r.pid && y.name == r.name then some (2, r.station)
        else if r.pid == img.target && !(mayName mine r.station) then some (2, r.station) else none
    | _ => none

/-! ### Power (check 9) -/

/-- BUDGET and ON of a domain in an image. -/
def Image.budgetOf (i : Image) (d : Nat) : Nat := ((i.pwr.find? (·.domain == d)).map (·.budget)).getD 0

/-- The die of a cluster, stack-port or fabric-port domain. -/
def domainDie (d : Nat) : Option Nat :=
  if d < 32 then some (d % 16 / 8) else if d < 44 then some ((d - 32) / 6) else if d < 56 then none
  else if d < 64 then some ((d - 56) / 4) else none

/-- A domain record breaks R44. -/
def budgetBad (img : Image) (owned : List Nat) (r : PwrRec) : Bool :=
  let d := r.domain
  let has := r.budget != 0
  (decide (d < 16) && has && img.budgetOf (16 + d) == 0)
    || (decide (44 ≤ d) && decide (d < 56) && has && img.budgetOf (d - 12) == 0)
    || (has && (match domainDie d with
      | some k => img.budgetOf (64 + k) == 0
      | none => false))
    || ((d == 64 || d == 66) && r.on == 0) || (decide (d < 16) && owned.contains d && !has)

/-- Check 9 on one section of a full image. -/
def budgetFull (img : Image) (typ : Nat) : Option ImgFault :=
  let owned := img.parts.flatMap fun y => maskClusters y.cores
  recordFault Code.budget typ <|
    match typ with
    | 3 => firstOf img.pwr fun r => if budgetBad img owned r then some (5, r.domain) else none
    | 4 => firstOf img.phas fun r => if r.bsuPm + r.portPm + r.cluPm != 1000 then some (0, 0) else none
    | _ => none

/-- Check 9 on a partial image: a cluster it takes must have a compute budget. -/
def State.budgetPartial (s : State) (img : Image) : Option ImgFault :=
  recordFault Code.budget secPart <| firstOf img.parts fun r =>
    ((maskClusters r.cores).find? fun c => s.budget c == 0).map fun c => (5, c)

/-! ### Capacity (check 10) -/

/-- The interleave sets of a channel list under a hash; a set without a channel is left out (R199). -/
def setsOf (hash : Nat) (chans : List Nat) : List (List Nat) :=
  (match hash with
    | 0 => [chans]
    | 1 => (List.range 2).map fun d => chans.filter fun g => g / 192 == d
    | _ => (List.range 12).map fun n => chans.filter fun g => g / 32 == n).filter fun l => !l.isEmpty

/-- 2 MiB pages of a channel. -/
abbrev chanPages : Nat := 1024

/-- The total of R48 and the placement of R49 over some sets. -/
def carveFits (img : Image) (quotas : Nat) (sets : List (List Nat)) : Bool :=
  let regions := modelRegions sets img.models
  let pages := (sets.map List.length).foldl (· + ·) 0 * chanPages
  decide (img.reserve + img.models + quotas ≤ pages)
    && (List.range sets.length).all fun i =>
      let r := regions.getD i (0, 0)
      decide ((r.2 - r.1) / pageBytes + (if i = 0 then img.reserve else 0) ≤ (sets.getD i []).length * chanPages)

/-- The sum of the quotas of some partitions. -/
def quotaSum (parts : List PartRec) : Nat := (parts.map (·.quota)).foldl (· + ·) 0

/-- The channels of the part without those the record store holds as mapped out (R48). -/
def State.recordedChannels (s : State) : List Nat :=
  (List.range 384).filter fun g => s.chanPresent (g / 32) (g % 32) && (s.flash.mapouts.seek g).isNone

/-- A capacity failure that lies in a total or a placement. -/
def capacityFault : ImgFault := { status := Code.capacity, section_ := secMem, record := noRecord }

/-- Check 10 on a full image against a channel list. -/
def capacityFull (img : Image) (chans : List Nat) : Option ImgFault :=
  if carveFits img (quotaSum img.parts) (setsOf img.hash chans) then none else some capacityFault

/-- Check 10 on a partial image: the total of R48, and no quota below KV_USED (R63). -/
def State.capacityPartial (s : State) (img : Image) : Option ImgFault :=
  let force := s.srvImage
  let others := quotaSum (force.parts.filter fun r => r.pid != img.target)
  let mine := img.parts.filter fun r => bit r.flags 0
  if s.recordedChannels.length * chanPages < force.reserve + force.models + others + quotaSum mine then some capacityFault
  else if mine.any fun r => decide (r.quota < (s.psrv img.target).kvUsed) then
    some { status := Code.capacity, section_ := secPart, record := 0 }
  else none

/-! ### Partial images (checks 11 to 13) -/

/-- Check 12: the section and the field offset that lie out of reach. -/
def State.checkScope (s : State) (dir : List Sect) (img : Image) : Option ImgFault :=
  let fault (typ off : Nat) : ImgFault := { status := Code.partialScope, section_ := typ, record := off }
  let old := s.srvImage.part img.target
  firstFault dir fun x =>
    match x.typ with
    | 1 => img.parts.findSome? fun r =>
        if r.pid != img.target then some (fault 1 0)
        else
          match old with
          | none => none
          | some o =>
            if r.nouns != o.nouns then some (fault 1 0x20) else if r.pages != o.pages then some (fault 1 0x22)
            else if r.vabits != o.vabits then some (fault 1 0x23) else none
    | 2 => if img.stats.any fun r => r.pid != img.target then some (fault 2 0x1A) else none
    | 8 => if img.bsu.any fun r => r.pid != img.target then some (fault 8 0) else none
    | _ => none

/-- A core is quiescent: offline, or with every queue empty and no clause running (R63). -/
def CoreSt.quiet (x : CoreSt) : Bool :=
  x.run == .offline || (x.run == .quiescent && x.queues.m.isEmpty && x.queues.v.isEmpty && x.queues.s.isEmpty && x.queues.d.isEmpty)

/-- The core set a partial image gives its target. -/
def Image.newCores (img : Image) : Nat :=
  match img.part img.target with
  | some r => if bit r.flags 0 then r.cores else 0
  | none => 0

/-- A partial image removes its target. -/
def Image.removes (img : Image) : Bool := img.parts.any fun r => !(bit r.flags 0)

/-- Something of a partition that its removal waits for: a request, a sequence, a pin of a model loaded from its memory (R63), a
switch that takes a cluster from it or gives it one (R329). -/
def State.partitionHeld (s : State) (p : Nat) : Bool :=
  (s.srv.table.any fun (_, r) => r.state != .free && r.pid == p) || (s.seqs.any fun (_, q) => q.pid == p)
    || (s.sched.mc.any fun (_, x) => x.pinned && x.srcKind == 1 && x.srcPid == p)
    || s.sched.switching.any fun (_, w) => w.source == p || w.target == p

/-- Check 13. GRAM_DETAIL names the busy resource; SECTION 1 (PART) and RECORD 0 go with it, since the PART record takes the resource
away and R57 gives the resource alone (DESIGN CHOICE, log entry 83). -/
def State.checkBusy (s : State) (img : Image) : Option ImgFault :=
  let old := (s.psched img.target).cores
  match (List.range 192).find? fun n => bit old n && !(bit img.newCores n) && !((s.core (n / 12) (n % 12)).quiet) with
  | some n => some { status := Code.partialBusy, section_ := secPart, rkind := 1, rnum := n }
  | none =>
    if img.removes && s.partitionHeld img.target then
      some { status := Code.partialBusy, section_ := secPart, rkind := 6, rnum := img.target }
    else none

/-! ### The checks in order -/

/-- Checks 3 to 13 on an image whose signature is good. -/
def State.judgeImage (s : State) (b : List Byte) : Option ImgFault :=
  let dir := directory b
  let img := parseImage b
  let k : ImgNames := { part := img.partial_, pids := img.parts.map (·.pid), plans := img.phas.map (·.plan) }
  let overSects (judge : Nat → Option ImgFault) : Option ImgFault := firstFault dir fun x => judge x.typ
  if !(bit img.grades s.fuses.grade) then some { status := Code.imgGrade }
  else if s.mgmt.fwVersion < leAt b 0x12 2 then some { status := Code.imgFirmware }
  else (checkSections dir img.partial_).or <| (checkReserved b dir k).or <| (overSects (s.sectAbsent img)).or <|
    if img.partial_ then
      (overSects (s.conflictPartial img)).or <| (s.budgetPartial img).or <| (s.capacityPartial img).or <|
        (if slice b 0x18 32 == s.gram.digest.take 32 then none else some { status := Code.partialBase }).or <|
          (s.checkScope dir img).or (s.checkBusy img)
    else
      (overSects (conflictFull img)).or <| (overSects (budgetFull img)).or (capacityFull img s.recordedChannels)

end Sys2Proof.Machine
end

