-- ==== Sys2Proof/Machine/Load.lean ====
section
/-!
DEFINITION. Loading of grammar images: the load command, reading, checking, bring-up of the stacks, and the replacement of the
structure by a full or a partial image; the scheduling-quantum boundary (R26, R58 to R63, R196, R197, R310, R315, R318, R333).
-/

namespace Sys2Proof.Machine

/-- The state with the GRAM block changed. -/
def State.modGram (s : State) (f : Gram → Gram) : State := { s with gram := f s.gram }

/-! ### The command and the end of a load (R58, R60) -/

/-- A load runs (R58). -/
def Gram.busy (x : Gram) : Bool := x.state == .fetch || x.state == .verify || x.state == .check || x.state == .apply

/-- A load ends: STATUS set and the event sent. -/
def State.gramEnd (s : State) (st : Status) : State :=
  (s.modGram fun x =>
    { x with state := if x.image.isSome then .inForce else .empty, status := st, job := none, pending := none, groupWait := [],
             mapped := false, testing := [] }).event Cls.gram st Obs.ofGram 0xFF 0 0

/-- A load ends at a failed check, GRAM_DETAIL and GRAM_RESOURCE filled. -/
def State.gramRefuse (s : State) (f : ImgFault) : State :=
  (s.modGram fun x => { x with section_ := f.section_, record := f.record, rkind := f.rkind, rnum := f.rnum }).gramEnd f.status

/-- GRAM_CMD with CMD 1 or 2. -/
def State.gramCmd (s : State) (cmd : Nat) : State :=
  if s.gram.busy then s.modGram fun x => { x with lastCmd := Code.loadBusy }
  else
    let s := s.modGram fun x => { x with lastCmd := Code.ok, kind := cmd - 1 }
    if cmd = 2 && s.gram.image.isNone then s.gramEnd Code.noImage
    else if !(gramLenOk s.gram.len) then s.gramRefuse (headFault Code.imgFormat 8)
    else s.modGram fun x => { x with state := .fetch, job := some { cmd := cmd, src := x.src, len := x.len } }

/-- LOAD_FULL_IMAGE -/
def execLoadFullImage (s : State) : Host.Outcome State Fault Refusal := .next (s.gramCmd 1)

/-- LOAD_PARTIAL_IMAGE -/
def execLoadPartialImage (s : State) : Host.Outcome State Fault Refusal := .next (s.gramCmd 2)

/-- The image has been read: check 1, then VERIFY. -/
def State.imageRead (s : State) (b : List Byte) : State :=
  match s.gram.job with
  | some j =>
    if s.gram.state != .fetch then s
    else
      let b := slice b 0 j.len
      match checkFormat b j.len j.cmd with
      | some f => s.gramRefuse f
      | none => s.modGram fun x =>
          { x with state := .verify,
                   job := some { j with bytes := b, ownerKey := s.flash.ownerKey, keyBad := s.flash.keyBad } }
  | none => s

/-- IMAGE_FETCH_DONE -/
def execImageFetchDone (image : List Byte) (s : State) : Host.Outcome State Fault Refusal := .next (s.imageRead image)

/-- IMAGE_FETCH_TIMEOUT -/
def execImageFetchTimeout (s : State) : Host.Outcome State Fault Refusal :=
  .next (if s.gram.state == .fetch then s.gramEnd Code.fetchFault else s)

/-! ### The first full load: bring-up (R196, R197) -/

/-- The channels in service, by global number: those of trained stacks, in the interleave or appended. -/
def State.channelsInService (s : State) : List Nat :=
  (List.range 384).filter fun g =>
    let st := (s.gchan g).state
    s.chanPresent (g / 32) (g % 32) && (s.stack (g / 32)).trained && (st == .inService || st == .appended)

/-- The limit in force lies below 500 W, T's share of it taken exactly (R382, R389). -/
def State.below500 (s : State) : Bool :=
  let l := s.moduleLimit.2
  (leastTerm s.heldTerms (0, l)).2 < 500 || decide (31 * l - s.thm.t * (l - 300) < 15500)

/-- The stacks that the APPLY step of an image brings up: present, untrained, not failed, with a port budget. -/
def State.stacksToTrain (s : State) (img : Image) : List Nat :=
  (List.range 12).filter fun n =>
    s.stackPresent n && !(s.stack n).trained && (s.stack n).state != .failed && img.budgetOf (32 + n) != 0

/-- Bring-up begins, in two groups where the device is restricted or its limit lies below 500 W. -/
def State.bringup (s : State) (img : Image) : State :=
  let ns := s.stacksToTrain img
  if s.pwr.restricted || s.below500 then
    ((s.modGram fun x => { x with groupWait := ns.filter fun n => decide (6 ≤ n) }).beginBringup
      (ns.filter fun n => decide (n < 6))).nextGroup
  else s.beginBringup ns

/-- The first full load ends under R197: the domains it switched on go off, the stacks return to self-refresh, untrained. -/
def State.undoBringup (s : State) : State :=
  let doms := ((List.range 12).map fun n => 2 ^ (32 + n)).foldl (· + ·) 0
  let s := (List.range 12).foldl (fun s n => s.restartCounts (32 + n)) s
  { s with pwr := { s.pwr with domOn := s.pwr.domOn - (s.pwr.domOn &&& doms) },
           stk := s.stk.map fun (n, x) =>
             (n, { x with state := .selfRefresh, trained := false, asleep := true, tries := 0, descFailed := false, tg := {} }) }

/-- Every stack has finished: those trained enter service. In the first load the channel list is taken, the interleave sets
built and check 10 judged against them. -/
def State.bringupComplete (s : State) : State :=
  match s.gram.job.bind (·.image) with
  | some img =>
    if s.gram.state != .apply || img.partial_ || (s.stk.any fun x => x.2.busy) || !s.gram.groupWait.isEmpty then s
    else
      let s := { s with stk := s.stk.map fun (n, x) => (n, if x.state = .training then { x with state := .inService } else x) }
      if s.gram.mapped then s
      else
        let sets := setsOf img.hash s.channelsInService
        if carveFits img (quotaSum img.parts) sets then { s with sets := sets }.modGram fun x => { x with mapped := true }
        else s.undoBringup.gramRefuse capacityFault
  | none => s

/-- STACK_BRINGUP_COMPLETE -/
def execStackBringupComplete (s : State) : Host.Outcome State Fault Refusal := .next (s.bringupComplete)

/-! ### Replacing the structure (R61) -/

/-- A core as R61 leaves it: its registers at reset, queues and banks empty; the local store keeps its bytes, and an OFFLINE
core stays so (R333). -/
def CoreSt.replaced (x : CoreSt) : CoreSt :=
  { localStore := x.localStore, lsBad := x.lsBad, disp := { nextId := x.disp.nextId },
    run := if x.run = .offline then .offline else .quiescent }

/-- A cluster's control core stops with its partition; its cache, written back, holds no line of the old addresses, and no binding
survives. -/
def Cluster.stopped (x : Cluster) : Cluster :=
  { x with reservation := none, irq := false, ccRunning := false, ccFault := none, ccSent := [], cache := [], ccPorts := [], cachePorts := [] }

/-- Memory content follows its cells to the addresses the new map gives them; a channel outside it has no address. -/
def State.rebind (s : State) (img : Image) (sets : List (List Nat)) : State :=
  let new : State :=
    { s with sets := sets, gram := { s.gram with image := some img },
             stk := s.stk.map fun (n, x) => (n, { x with channels := x.channels.map fun (c, y) =>
               (c, { y with state := if y.state = .appended then .inService else y.state, slot := 0, served := none }) }) }
  let place (pa : Nat) : Option Nat := (s.cellAt pa).bind fun (g, off) => new.addressOf g off
  let line (l : Nat) : Option Nat := (place (64 * l)).map (· / 64)
  let op (w : WriteOp) : Option WriteOp := (line w.line).map fun l => { w with line := l }
  { new with
    mem := s.mem.foldl (fun m (a, b) => match place a with
      | some x => Memory.write m x b
      | none => m) [],
    poison := s.poison.foldl (fun t l => match line l with
      | some x => insertLine x t
      | none => t) [],
    upsets := s.upsets.foldl (fun t (l, u) => match line l with
      | some x => t.put x u
      | none => t) [],
    stuck := s.stuck.foldl (fun t (l, u) => match line l with
      | some x => t.put x u
      | none => t) [],
    transfers := s.transfers.foldl (fun t (l, k) => match line l with
      | some x => t.put x k
      | none => t) [],
    stk := new.stk.map fun (n, x) => (n, { x with wakeQueue := x.wakeQueue.filterMap op }),
    xl := { new.xl with withdraws := new.xl.withdraws.map fun (l, w) => (l, w.bind op) } }

/-- Registers of a stack's blocks take the values the manual gives at acceptance, those set by software with the first full image alone
(R214); counts since acceptance start again with each. -/
def Stack.accepted (x : Stack) (first : Bool) : Stack :=
  let x := if first then { x with throttle := 95, early := 91, portMin := 4, stallLimit := 146, bTherm := 16 } else x
  { x with shareCycles := [], retries := 0,
           channels := x.channels.map fun (c, y) =>
             (c, { y with passes := 0, pauses := 0, ports := [], intakeBound := [], intake := [] }) }

/-- A FAB block at acceptance: every flow closed without a message; a port enabled before and after keeps its link. -/
def FabPort.accepted (x : FabPort) (mac : Nat) : FabPort :=
  { state := x.state, rate := x.rate, width4 := x.width4, half := x.half, lanes := x.lanes, downSent := x.downSent, mac := mac,
    bytesOut := x.bytesOut, bytesIn := x.bytesIn }

/-- The bytes from `lo` up to `hi` of the stacks read as zero. A line of which the companion holds a copy is written once more when the
copy has been withdrawn (R187). -/
def State.zeroRange (s : State) (lo hi : Nat) : State :=
  let hit (pa : Nat) : Bool := decide (lo ≤ pa) && decide (pa < hi)
  let held := s.xl.directory.filter fun l => decide (lo < 64 * l + 64) && decide (64 * l < hi) && s.companionHolds .device l
  let mask (l : Nat) : Nat := (List.range 64).foldl (fun m i => if hit (64 * l + i) then putBit m i true else m) 0
  let s := held.foldl (fun s l =>
    s.withdraw l (some { writer := .device, line := l, bytes := List.replicate 64 0, mask := mask l })) s
  { s with mem := s.mem.filter fun x => !hit x.1, poison := s.poison.filter fun l => !hit (64 * l),
           upsets := s.upsets.filter fun x => !hit (64 * x.1) }

/-- The device defines a partition: its translation starts empty and every entry of its noun table is zero (R61, R70). -/
def State.definePartition (s : State) (r : PartRec) : State :=
  let root := r.pid * 0x10000
  (s.zeroRange root (root + 8 * 2 ^ (r.vabits - 39))).zeroRange (nounTablePa r.pid) (nounTablePa r.pid + 64 * r.nouns)

/-- What an accepted full image sets at once, first or later: registers at their values at acceptance, the structure's plan,
the XL section, empty measurement logs (R10, R51, R316, R407). -/
def State.accept (s : State) (img : Image) : State :=
  let first := s.gram.image.isNone
  let s := s.modGram fun x => { x with image := some img }
  let held : Tbl PartSched := img.parts.foldl (fun t (r : PartRec) => t.put r.pid { cores := r.cores }) []
  let s : State := { s with
    stk := s.stk.map fun (e : Nat × Stack) => (e.1, e.2.accepted first),
    fab := (List.range 8).foldl (fun t f => t.put f ((s.port f).accepted (s.fuses.macs.look 0 f))) s.fab,
    sched := { parts := held },
    xl := { s.xl with maxgen := img.maxgen, pcieOk := img.pcieOk == 1 },
    sec := { s.sec with partialLog := [], clauseLog := [], clauseList := [] } }
  (img.parts.foldl (fun s r => s.definePartition r) s).planInForce img.plan0

/-- The domains of a structure: off where the budget is zero or a port is disabled, on where ON is 1 or a port is enabled. -/
def State.setDomains (s : State) (img : Image) : State :=
  (List.range 67).foldl (fun s d =>
    let on := ((img.pwr.find? (·.domain == d)).map (·.on)).getD 0
    let port := decide (56 ≤ d) && decide (d < 64)
    let enabled := (s.fabRec (d - 56)).enable == 1 && s.portPresent (d - 56)
    let want := if port then enabled else on == 1
    if img.budgetOf d = 0 || (port && !enabled) then (if s.domainReady d then s.domainOff d else s)
    else if want then (if s.domainReady d then s else s.domainOn d)
    else s) s

/-- A later full image is applied: R61 and R310. -/
def State.replaceStructure (s : State) (img : Image) (chans : List Nat) : State :=
  let s := s.abortSequences
  let s := s.stk.keys.foldl (fun s n => (s.modScrub n fun x => { x with stopped := true }).rscrubEnd n true) s
  let s := s.serveReload
  let s : State := { s with cores := s.cores.map fun (e : Nat × CoreSt) => (e.1, e.2.replaced) }
  let s := (List.range 16).foldl (fun s c => s.cleanCluster c) s
  let s : State := { s with clusters := s.clusters.map fun (e : Nat × Cluster) => (e.1, e.2.stopped) }
  let s := (List.range 12).foldl (fun s n => if (s.stack n).asleep then s else s.drainStack n) s
  let s := (s.rebind img (setsOf img.hash chans)).accept img
  let s : State := { s with transit := [], answers := [] }
  let s := if img.cacheComp = 0 then s.trimLinkCache (·.watched) else s
  let s := s.setDomains img
  ((s.modSrv fun x => { x with state := 2 }).modMgmt fun x => { x with bkgRun := 0, telNext := 0 }).modGram fun x =>
    { x with mapped := true }

/-- An accepted full image enters APPLY. -/
def State.applyFull (s : State) (img : Image) : State :=
  let s' := s.modGram fun x => { x with state := .apply, job := x.job.map fun j => { j with image := some img } }
  if s.gram.image.isNone then (s'.modGram fun x => { x with mapped := false }).bringup img
  else
    let chans := s.channelsInService
    match capacityFull img chans with
    | some f => s.gramRefuse f
    | none => (s'.replaceStructure img chans).bringup img

/-- APPLY of a full image has finished: the image is in force (step 7 of R60; R26, R283, R427). -/
def State.fullInForce (s : State) (img : Image) : State :=
  let first := s.gram.image.isNone
  let s := if first then (s.accept img).setDomains img else s
  let s := s.modGram fun x =>
    { x with digest := img.digest, serial := img.serial, loads := (x.loads + 1) % 2 ^ 32, pdigest := [] }
  let s := (s.modSrv fun x => { x with state := 1, tick := 0, ticking := true }).modMgmt fun x =>
    { x with bkgRun := img.enables, telNext := 0 }
  s.telMark.gramEnd Code.ok

/-- IMAGE_APPLY_DONE -/
def execImageApplyDone (s : State) : Host.Outcome State Fault Refusal :=
  .next <|
    match s.gram.job.bind (·.image) with
    | some img =>
      if s.gram.state != .apply || img.partial_ || !s.gram.mapped || (s.stk.any fun x => x.2.state == .training)
          || !s.gram.groupWait.isEmpty then s
      else s.fullInForce img
    | none => s

/-! ### Partial images (R62, R63, R315, R333) -/

/-- A share of one partition in every plan of a structure. -/
def Image.setShare (i : Image) (p share : Nat) : Image :=
  { i with phas := i.phas.map fun r => { r with shares := r.shares.set p share } }

/-- The structure with a partial image's records laid over it. -/
def Image.overlaid (i img : Image) : Image :=
  let p := img.target
  let i := match img.part p with
    | none => i
    | some r =>
      if !(bit r.flags 0) then
        { i with parts := i.parts.filter (·.pid != p), stats := i.stats.filter (·.pid != p), bsu := i.bsu.filter (·.pid != p) }
      else
        let old := i.part p
        let i := { i with parts := i.parts.filter (·.pid != p) ++ [r] }
        match old with
        | some o => if o.share = r.share then i else i.setShare p r.share
        | none => i.setShare p r.share
  if img.removes then i
  else
    let i := if img.hasStat then { i with stats := i.stats.filter (·.pid != p) ++ img.stats } else i
    if img.bsu.isEmpty then i else { i with bsu := i.bsu.filter (·.pid != p) ++ img.bsu }

/-- The cores that return from OFFLINE with a partial image. -/
def State.returning (s : State) (img : Image) : List Nat :=
  (List.range 192).filter fun n => bit img.newCores n && (s.core (n / 12) (n % 12)).run == .offline

/-- The end of a partial image: its digest recorded, the event sent. -/
def State.partialInForce (s : State) (img : Image) : State :=
  let s := s.modGram fun x =>
    { x with loads := (x.loads + 1) % 2 ^ 32,
             pdigest := x.pdigest.put img.target img.digest }
  (s.modSec fun x => { x with partialLog := x.partialLog ++ [img.digest] }).gramEnd Code.ok

/-- A partial image is applied: the structure, the core set in force, the cores added, what a removed partition held. -/
def State.applyPartial (s : State) (img : Image) : State :=
  let p := img.target
  let old := (s.psched p).cores
  let s := match img.part p with
    | some r => if img.removes || s.defined p then s else s.definePartition r
    | none => s
  let force := s.srvImage.overlaid img
  let testing := s.returning img
  let s := s.modGram fun x => { x with image := some force, pending := none, testing := testing }
  let added := (List.range 192).filter fun n => bit img.newCores n && !(bit old n)
  let s := added.foldl (fun s n => s.modCore (n / 12) (n % 12) CoreSt.fresh) s
  let s :=
    if img.removes then
      { s with sched := { s.sched with parts := s.sched.parts.drop p },
               srv := { s.srv with parts := s.srv.parts.drop p, prefixes := s.srv.prefixes.filter fun (_, x) => x.pid != p } }
    else
      let share := ((force.phas.find? (·.plan == s.sched.plan)).map fun r => r.shares.getD p 0).getD 0
      s.modPsched p fun x => { x with cores := img.newCores, share := share }
  if testing.isEmpty then s.partialInForce img else s

/-- A partial image has passed its checks: a partition it creates is made at once, anything else waits for the target's
quantum boundary. -/
def State.acceptPartial (s : State) (img : Image) : State :=
  let s := s.modGram fun x => { x with state := .apply, job := x.job.map fun j => { j with image := some img } }
  if s.defined img.target then s.modGram fun x => { x with pending := some img } else s.applyPartial img

/-- The signature check has ended: checks 2 to 13, then the application or the refusal. -/
def State.imageVerified (s : State) : State :=
  match s.gram.job with
  | some j =>
    if s.gram.state != .verify then s
    else if !(signatureGood s.mgmt.firmware j.ownerKey j.keyBad (leAt j.bytes 7 1) j.bytes) then
      s.gramRefuse { status := Code.imgSignature }
    else
      match s.judgeImage j.bytes with
      | some f => s.gramRefuse f
      | none =>
        let img := parseImage j.bytes
        if img.partial_ then s.acceptPartial img else s.applyFull img
  | none => s

/-- IMAGE_VERIFY_DONE -/
def execImageVerifyDone (s : State) : Host.Outcome State Fault Refusal := .next (s.imageVerified)

/-- A returning core's test ends: it starts QUIESCENT, or stays OFFLINE with an event. The load ends with the last test. -/
def State.coreTested (s : State) (c k : Nat) (pass : Bool) : State :=
  let n := 12 * c + k
  match s.gram.job.bind (·.image) with
  | some img =>
    if !(s.gram.testing.contains n) then s
    else
      let s := if pass then s.modCore c k fun x => { x.fresh with run := .quiescent }
        else s.event Cls.sched Code.stationOffline Obs.ofSched (pidField (s.corePid c k)) n 0
      let s := s.modGram fun x => { x with testing := x.testing.erase n }
      if s.gram.testing.isEmpty then s.partialInForce img else s
  | none => s

/-- CORE_TEST_DONE -/
def execCoreTestDone (c k : Nat) (pass : Bool) (s : State) : Host.Outcome State Fault Refusal := .next (s.coreTested c k pass)

/-! ### The scheduling-quantum boundary (R318) -/

/-- A quantum boundary: requests in no step pass a boundary, a waiting partial image is applied, a rebalance goes on. -/
def State.quantum (s : State) : State :=
  let s := s.partitions.foldl (fun s p => s.quantumServe p) s
  let s := match s.gram.pending with
    | some img => s.applyPartial img
    | none => s
  s.rebalanceNow

/-- QUANTUM_BOUNDARY -/
def execQuantumBoundary (s : State) : Host.Outcome State Fault Refusal :=
  .next (if s.gram.image.isSome && s.srv.state == 1 && s.srv.tick % s.srvImage.quantum == 0 then s.quantum else s)

end Sys2Proof.Machine
end

