-- ==== Sys2Proof/Machine/ReadRegs.lean ====
section
/-!
DEFINITION. Reading the management window: the blocks of R341 and R448, register by register, in the order of their tables (R7,
R31, R59, R112, R135, R147, R214, R243, R267 to R269, R312, R334, R335, R355, R356, R375, R398, R399, R413, R417, R434, R449).
-/

namespace Sys2Proof.Machine

/-- What lies at an offset of the management window: a register of `width` bytes with the value a read returns; a unit that this
part lacks; or nothing. -/
inductive RegAt where
  | reg (width value : Nat)
  | lacking
  | hole
  deriving DecidableEq, Repr

/-- Registers listed with their offset, width in bytes, and value. -/
abbrev RegList := List (Nat × Nat × Nat)

/-- The register at an offset of a list, or what `other` says. -/
def RegList.at_ (l : RegList) (off : Nat) (other : RegAt) : RegAt :=
  match l.find? fun r => r.1 == off with
  | some (_, w, v) => .reg w v
  | none => other

/-- Member number of a family of registers `stride` bytes apart, with the offset inside the member. -/
def member (off base stride count : Nat) : Option (Nat × Nat) :=
  if off < base || base + stride * count ≤ off then none else some ((off - base) / stride, (off - base) % stride)

/-- A register that reads zero for now: before an image, or of a partition that lacks it (R31). -/
def RegAt.zeroed : RegAt → RegAt
  | .reg w _ => .reg w 0
  | x => x

/-! ### MGMT (R356, R434, R449) -/

/-- Event ring r. -/
def State.ringRegs (s : State) (r : Nat) : RegList :=
  let x := s.ring r
  [(0x00, 8, x.base),
   (0x08, 4, field 0 4 x.log2 + field 4 1 (b2n x.enable) + field 5 5 (x.vec.getD r) + field 16 16 x.holdoff),
   (0x0C, 4, field 0 14 x.tail + field 14 1 (b2n x.phase)), (0x10, 8, x.headPtr), (0x18, 4, x.dropped)]

/-- Interrupt vector v. -/
def State.vecRegs (s : State) (v : Nat) : RegList :=
  let x := s.vec v
  [(0x00, 8, x.addr), (0x08, 4, x.data), (0x0C, 4, b2n x.mask)]

/-- Ring r exists: ring 0, or one below RINGS (R349). -/
def State.ringThere (s : State) (r : Nat) : Bool := r == 0 || decide (r < s.rings)

/-- The MGMT block. -/
def State.mgmtRegs (s : State) (off : Nat) : RegAt :=
  let f := s.fuses
  let m := s.mgmt
  let pend := ((List.range 32).map fun v => b2n (s.vec v).pend * 2 ^ v).foldl (· + ·) 0
  RegList.at_
    [(0x0000, 4, field 0 2 f.grade + field 8 8 f.stepping), (0x0008, 8, f.deviceId), (0x0010, 4, f.vendor),
     (0x0018, 8, bits f.cores 0 64), (0x0020, 8, bits f.cores 64 64), (0x0028, 8, bits f.cores 128 64),
     (0x0030, 4, field 0 12 f.stk + field 16 8 f.ports), (0x0034, 4, b2n f.fp64),
     (0x0080, 4, field 0 8 m.errStatus + field 8 24 m.errOffset), (0x0084, 4, m.errCount),
     (0x8400, 4, m.evSeq), (0x8404, 4, m.store.length), (0x9200, 4, pend),
     (0xA000, 8, m.telBase), (0xA008, 4, field 0 4 m.telLog2 + field 4 1 (b2n m.telEnable) + field 8 4 m.telKinds),
     (0xA00C, 4, field 0 14 m.telTail + field 14 1 (b2n m.telPhase)), (0xA010, 4, m.telNext), (0xA014, 4, m.telMissed),
     (0xA040, 4, m.bkgRun), (0xA080, 4, m.resetCause)] off <|
    match member off 0x0040 4 12, member off 0x8000 0x40 16, member off 0x9000 0x10 32 with
    | some (n, 0), _, _ => .reg 4 (if s.stackPresent n then s.fuses.channels.look 0xFFFFFFFF n else 0)
    | _, some (r, o), _ =>
      let x := (s.ringRegs r).at_ o .hole
      if s.ringThere r then x else x.zeroed
    | _, _, some (v, o) => (s.vecRegs v).at_ o .hole
    | _, _, _ => .hole

/-! ### GRAM (R59) -/

/-- GRAM_STATE.STATE. -/
def GramState.code : GramState → Nat
  | .empty => 0
  | .fetch => 1
  | .verify => 2
  | .check => 3
  | .apply => 4
  | .inForce => 5

/-- The GRAM block. -/
def State.gramRegs (s : State) (off : Nat) : RegAt :=
  let g := s.gram
  let parts := (s.partitions.map (2 ^ ·)).foldl (· + ·) 0
  RegList.at_
    [(0x0000, 4, g.state.code + field 4 1 g.kind + field 8 8 g.status + field 16 8 g.lastCmd), (0x0004, 4, 0), (0x0008, 8, g.src),
     (0x0010, 4, g.len), (0x0014, 4, field 0 16 g.section_ + field 16 16 g.record),
     (0x0018, 4, field 0 4 g.rkind + field 16 16 g.rnum), (0x001C, 4, parts), (0x0020, 4, g.serial), (0x0024, 4, g.loads)] off <|
    match member off 0x0040 8 8, member off 0x0100 0x40 16 with
    | some (i, 0), _ => .reg 8 (leAt g.digest (8 * i) 8)
    | _, some (p, o) => if o % 8 = 0 then .reg 8 (leAt (g.pdigest.look [] p) o 8) else .hole
    | _, _ => .hole

/-! ### PWR and THM (R398, R399) -/

/-- The slot a master reads and writes through PWR_ORDER. -/
def State.slotOf (s : State) (by_ : Master) : Nat :=
  match by_ with
  | .bmc => s.pwr.slotBmc
  | .peer _ _ => s.pwr.slotPeer
  | .companion => s.pwr.slotCompanion
  | .controlCore _ => s.pwr.slotCompanion

/-- The PWR block, as a master reads it. -/
def State.pwrRegs (s : State) (by_ : Master) (off : Nat) : RegAt :=
  let x := s.pwr
  let state := if s.gram.image.isNone then 0 else if x.alert then 2 else if x.restricted then 3 else 1
  let image := if s.gram.image.isNone then 0 else s.imageLimit
  let unacked := (s.flash.shutdowns.filter fun r => !r.acked).length
  RegList.at_
    [(0x0000, 4, state + field 3 1 (b2n x.alertPin) + field 4 1 (b2n x.alertStuck) + field 16 8 x.lastCmd),
     (0x0004, 4, field 0 12 x.inForce + field 12 3 x.binds),
     (0x0008, 8, field 0 12 image + field 16 12 x.termBoard + field 32 12 x.termReg), (0x0010, 4, s.slotOf by_),
     (0x0018, 8, field 0 12 x.slotBmc + field 16 12 x.slotCompanion + field 32 12 x.slotPeer + field 44 12 x.slotPresence),
     (0x0020, 4, field 0 5 x.alertFreq + field 5 5 x.alertB + field 10 10 x.alertHold), (0x0024, 4, x.alerts),
     (0x0028, 8, bits x.domOn 0 64), (0x0030, 4, bits x.domOn 64 3), (0x0038, 8, bits x.monFail 0 64),
     (0x0040, 4, bits x.monFail 64 3), (0x0048, 4, 0), (0x0300, 4, field 0 5 x.regFound + field 5 5 x.regLost.length),
     (0x0A00, 4, field 0 5 s.flash.shutdowns.length + field 5 5 unacked), (0x0A04, 4, 0), (0x0A08, 4, 0), (0x0A0C, 4, x.recSel)] off <|
    match member off 0x0100 4 67, member off 0x0280 4 16, member off 0x0800 8 64 with
    | some (d, 0), _, _ => .reg 4 (field 0 16 (x.power.look 0 d) + field 16 12 (x.allot.look 0 d))
    | _, some (c, 0), _ => .reg 4 (x.opp.look 0 c)
    | _, _, some (i, 0) => .reg 8 (leAt ((s.flash.shutdowns.getD x.recSel {}).bytes) (8 * i) 8)
    | _, _, _ => .hole

/-- A temperature as a register shows it: below 0 °C it reads 0. -/
def shownTemp (t : Int) : Nat := (max 0 t).toNat % 4096

/-- The THM block. -/
def State.thmRegs (s : State) (off : Nat) : RegAt :=
  let x := s.thm
  RegList.at_
    [(0x0000, 4, field 0 5 x.t + field 5 1 (b2n x.warnNow) + field 6 1 (b2n x.rise) + field 8 7 x.hotRegion + field 16 8 x.lastCmd),
     (0x0004, 4, shownTemp x.hot), (0x0008, 4, field 0 8 x.warn + field 8 8 x.throttle + field 16 8 x.shut + field 24 8 x.riseLimit),
     (0x000C, 4, x.cal), (0x0010, 4, x.dfail)] off <|
    match member off 0x0100 4 128, member off 0x0300 4 16 with
    | some (i, 0), _ => .reg 4 (shownTemp (x.regions.look 0 i))
    | _, some (j, 0) => .reg 4 (shownTemp (x.diodes.look 0 j) + field 12 1 (b2n (bit x.dfail j)))
    | _, _ => .hole

/-! ### SEC (R413, R417) -/

/-- The SEC block without its debug module. -/
def State.secRegs (s : State) (off : Nat) : RegAt :=
  let x := s.sec
  let f := s.flash
  let kid := match f.ownerKey with
    | some k => keyId k
    | none => 0
  RegList.at_
    [(0x0000, 4, b2n x.presence + field 1 1 (b2n x.presStuck) + field 2 1 (b2n x.sealOpen) + field 3 1 (b2n f.sealBroken)
        + field 4 1 (b2n f.ownerKey.isSome) + field 5 1 (b2n f.keyBad) + field 6 1 (b2n x.debug) + field 16 8 x.lastCmd),
     (0x0004, 4, field 0 7 s.fuses.floor + field 8 4 s.fuses.revoked), (0x0008, 4, x.refused),
     (0x000C, 4, field 0 24 x.refusedOff + field 24 8 x.refusedStatus), (0x0010, 4, 0), (0x0060, 8, kid),
     (0x0068, 4, b2n x.unlockBit), (0x006C, 4, 0), (0x0070, 4, field 0 16 f.breaks), (0x0078, 4, 0), (0x007C, 4, 0),
     (0x0080, 8, x.fwSrc), (0x0088, 4, x.fwLen), (0x008C, 4, 0), (0x0090, 4, field 0 2 x.fwState + field 8 8 x.fwStatus),
     (0x0094, 4, b2n x.rollbackBit), (0x00C0, 8, x.attDst), (0x00C8, 4, 0),
     (0x00CC, 4, field 0 2 x.attState + field 8 8 x.attStatus)] off <|
    match member off 0x0020 8 8, member off 0x00A0 8 4 with
    | some (i, 0), _ => .reg 8 (x.staged.look 0 i)
    | _, some (i, 0) => .reg 8 (x.nonce.look 0 i)
    | _, _ => .hole

/-! ### SRV (R312) -/

/-- The serving registers of partition p. -/
def State.psrvRegs (s : State) (p : Nat) : RegList :=
  let x := s.psrv p
  [(0x00, 8, x.cmdBase), (0x08, 4, field 0 4 x.cmdLog2 + field 4 1 (b2n x.cmdEnable)),
   (0x0C, 4, field 0 12 x.cmdHead + field 12 1 (b2n x.cmdPhase)), (0x10, 8, x.cplBase),
   (0x18, 4, field 0 4 x.cplLog2 + field 4 1 (b2n x.cplEnable) + field 5 1 (b2n x.cplIrq)),
   (0x1C, 4, field 0 12 x.cplTail + field 12 1 (b2n x.cplPhase)), (0x20, 8, x.cplHeadPtr), (0x28, 8, x.kvaBase),
   (0x30, 4, x.kvaPages), (0x34, 4, x.kvLimit), (0x38, 4, x.kvUsed), (0x3C, 4, x.pool.length), (0x40, 8, 0),
   (0x48, 4, field 0 12 x.nounBase + field 16 12 x.nounCount), (0x4C, 4, x.steps), (0x50, 8, x.tmpl), (0x58, 8, x.tokens)]

/-- The SRV block once an image is in force. -/
def State.srvRegs (s : State) (off : Nat) : RegAt :=
  let x := s.srv
  let live := (x.table.filter fun (_, r) => r.state != .free).length
  RegList.at_
    [(0x0000, 4, x.state + field 8 8 x.lastCmd), (0x0008, 8, x.tick), (0x0010, 4, field 0 5 x.bsuMax + field 16 13 x.batchMax),
     (0x0014, 4, x.stepLimit), (0x0018, 4, field 0 13 live + field 16 13 (s.srvImage.requests - live)),
     (0x0020, 4, field 0 12 x.peekIndex + field 16 10 x.peekPfx)] off <|
    match member off 0x0040 8 16, member off 0x00C0 8 8, member off 0x1000 0x100 16 with
    | some (i, 0), _, _ => .reg 8 (leAt x.peekD (8 * i) 8)
    | _, some (i, 0), _ => .reg 8 (leAt x.pfxD (8 * i) 8)
    | _, _, some (p, o) =>
      let r := (s.psrvRegs p).at_ o .hole
      if s.isServed p then r else r.zeroed
    | _, _, _ => .hole

/-! ### SCHED (R334) -/

/-- MC_ENTRY.STATE. -/
def McState.code : McState → Nat
  | .empty => 0
  | .loading => 1
  | .resident => 2
  | .damaged => 3
  | .evicted => 4

/-- The four words of a model-cache entry. -/
def McEntry.regs (m : McEntry) : RegList :=
  [(0x00, 8, m.state.code + field 3 1 (b2n m.pinned) + field 4 5 m.damaged.length + field 12 20 m.pages + field 32 16 m.users
      + field 48 8 m.base + field 56 8 m.layers),
   (0x08, 8, m.src), (0x10, 8, field 0 24 m.ctx + field 24 16 m.kvt + field 40 2 m.srcKind + field 42 4 m.srcPid), (0x18, 8, m.last)]

/-- The scheduling registers of partition p. -/
def State.pschedRegs (s : State) (p : Nat) : RegList :=
  let x := s.psched p
  [(0x00, 4, x.share), (0x08, 8, x.saveVa), (0x10, 8, x.ccEntry), (0x18, 8, bits x.cores 0 64), (0x20, 8, bits x.cores 64 64),
   (0x28, 8, bits x.cores 128 64), (0x30, 8, x.acctM), (0x38, 8, x.acctV), (0x40, 8, x.acctD), (0x48, 8, x.acctB), (0x50, 4, 0)]

/-- The SCHED block once an image is in force. -/
def State.schedRegs (s : State) (off : Nat) : RegAt :=
  let x := s.sched
  let cs := List.range 16
  let holder := (cs.map fun c => (s.clusterPid c).getD 0 * 2 ^ (4 * c)).foldl (· + ·) 0
  let owned := (cs.map fun c => b2n (s.clusterPid c).isSome * 2 ^ c).foldl (· + ·) 0
  let pinned := ((x.mc.filter fun (_, m) => m.pinned).map fun (_, m) => m.pages).foldl (· + ·) 0
  RegList.at_
    [(0x0000, 4, field 0 3 x.plan + field 3 1 (b2n x.phaseBusy.isSome) + field 4 1 (b2n x.phaseHeld.isSome)
        + field 8 5 x.switching.length + field 16 8 x.lastCmd), (0x0004, 4, 0),
     (0x0008, 4, b2n x.rebal + field 8 8 x.drainLimit + field 16 5 x.moves), (0x000C, 4, s.srvImage.quantum), (0x0010, 4, 0),
     (0x0014, 4, 0), (0x0018, 8, holder), (0x0020, 4, owned),
     (0x0024, 4, field 0 4 x.swCluster + field 4 4 x.swFrom + field 8 4 x.swTo + field 12 1 x.swKind + field 16 8 x.swStatus),
     (0x0028, 4, x.swTime), (0x0100, 4, 0), (0x0104, 4, field 0 8 x.mcLastCmd + field 8 1 (b2n x.mcBusy.isSome)), (0x0108, 8, x.mcSrc),
     (0x0110, 8, x.mcList), (0x0118, 8, field 0 20 x.mcPages + field 20 2 x.mcSrcKind + field 22 4 x.mcSrcPid + field 32 8 x.mcLayers
        + field 40 16 x.mcKvt + field 56 8 x.mcBase),
     (0x0120, 8, field 0 24 x.mcCtx + field 32 16 x.mcUsers), (0x0128, 8, field 0 32 s.freePages.length + field 32 32 pinned)] off <|
    match member off 0x0040 4 16, member off 0x0400 0x20 64, member off 0x1000 0x100 16 with
    | some (c, 0), _, _ => .reg 4 (((List.range 12).map fun k => b2n ((s.core c k).run == .offline) * 2 ^ k).foldl (· + ·) 0)
    | _, some (e, o), _ => ((s.mcEntry e).regs).at_ o .hole
    | _, _, some (p, o) =>
      let r := (s.pschedRegs p).at_ o .hole
      if s.defined p then r else r.zeroed
    | _, _, _ => .hole

/-! ### XL (R355) -/

/-- XL_STATE.STATE. -/
def LinkState.code : LinkState → Nat
  | .down => 0
  | .training => 1
  | .up => 2
  | .retraining => 3

/-- The XL block. In PCI Express mode the windows are BARs, whose bases the root port chooses: free values (log entry 34). -/
def State.xlRegs (s : State) (off : Nat) : RegAt :=
  let x := s.xl
  let watched := (x.cache.filter fun (_, l) => l.watched).length
  let base (i : Nat) : Nat := if x.rootPort then Config.windowBase s.fresh i % 2 ^ 64 else x.windows.look 0 i
  RegList.at_
    [(0x0000, 4, x.state.code + field 3 3 x.mode + field 6 5 x.width + field 11 4 x.feat + field 16 8 x.lastCmd),
     (0x0004, 4, field 16 10 x.poll), (0x0008, 4, field 0 2 x.maxgen + field 2 1 (b2n x.pcieOk)), (0x000C, 4, x.lanes),
     (0x0010, 8, base 0), (0x0018, 8, base 1), (0x0020, 8, base 2),
     (0x0028, 4, x.directory.length), (0x002C, 4, x.recalls), (0x0030, 4, field 0 17 x.cache.length + field 17 11 watched),
     (0x0038, 8, field 0 32 x.replays + field 32 16 x.retrains + field 48 16 x.downs), (0x0040, 8, x.faultAddr)] off .hole

/-! ### FAB (R375) -/

/-- FAB_STATE.STATE. -/
def PortState.code : PortState → Nat
  | .off => 0
  | .negotiating => 1
  | .training => 2
  | .up => 3
  | .retraining => 4
  | .down => 5

/-- FAB_FSTATE.STATE. -/
def FlowState.code : FlowState → Nat
  | .closed => 0
  | .hello => 1
  | .open_ => 2
  | .error => 3

/-- The four words of a flow entry. -/
def Flow.regs (x : Flow) : RegList :=
  [(0x00, 8, b2n x.enable + field 1 1 (b2n x.stream) + field 2 4 x.pid + field 6 1 (b2n x.mgmt) + field 7 10 x.rflow
      + field 17 1 (b2n x.vlanEn) + field 18 12 x.vid + field 30 3 x.pcp + field 33 6 x.dscp + field 48 16 x.local_),
   (0x08, 8, x.dmac), (0x10, 8, bits x.peerIp 0 64), (0x18, 8, bits x.peerIp 64 64)]

/-- The FAB block of port f once an image is in force. -/
def State.fabRegs (s : State) (f off : Nat) : RegAt :=
  let x := s.port f
  RegList.at_
    [(0x0000, 4, x.state.code + field 3 2 x.rate + field 5 1 (b2n x.width4) + field 6 1 (b2n x.half) + field 16 8 x.lastCmd),
     (0x0004, 4, field 1 1 x.media + field 8 8 x.downLimit), (0x0008, 8, x.mac), (0x0010, 8, x.ip0), (0x0018, 8, x.ip1),
     (0x0020, 4, field 0 16 x.etype + field 16 16 x.udp), (0x0024, 4, x.mtu),
     (0x0028, 4, field 0 16 x.rto + field 16 4 x.retry + field 24 8 x.helloLimit), (0x0030, 4, x.lanes),
     (0x0038, 8, field 0 32 x.fecCorrected + field 32 32 x.fecUncorrected),
     (0x0040, 8, field 0 16 x.dropAddr + field 16 16 x.dropCtrl + field 32 16 x.dropHdr + field 48 16 x.dropFcs),
     (0x0048, 8, field 0 32 x.resent + field 32 32 x.naks), (0x0050, 8, field 0 32 x.rmAccepted + field 32 32 x.rmRefused)] off <|
    match member off 0x4000 4 1024, member off 0x8000 32 1024 with
    | some (n, 0), _ =>
      let fl := s.flow f n
      .reg 4 (fl.state.code + field 2 2 fl.payload + field 4 4 fl.feat + field 8 8 fl.err + field 16 8 fl.peerStatus)
    | _, some (n, o) => ((s.flow f n).regs).at_ o .hole
    | _, _ => .hole

/-! ### STK (R214, R243, R267) -/

/-- STK_STATE.STATE. -/
def StackState.code : StackState → Nat
  | .absent => 0
  | .selfRefresh => 1
  | .training => 2
  | .inService => 3
  | .failed => 4

/-- STK_CHc.STATE. -/
def ChannelState.code : ChannelState → Nat
  | .inService => 0
  | .out => 1
  | .appended => 2
  | .testing => 3

/-- A mask of the present channels of a stack that satisfy a test. -/
def State.chanMask (s : State) (n : Nat) (p : Nat → Bool) : Nat :=
  (((List.range 32).filter fun c => s.chanPresent n c && p c).map (2 ^ ·)).foldl (· + ·) 0

/-- The registers of channel c, each with its offset from the block: its state, its checker result, its unit, its integrity
words. -/
def State.chanRegs (s : State) (n c : Nat) : RegList :=
  let x := s.chan n c
  let g := 32 * n + c
  let unit := if x.state == .out || x.state == .testing then 0 else if (s.unitSeq g).isNone then 1 else if x.paused then 3 else 2
  let here := (s.admittedOn n).filter fun (_, q) => q.phase == .reading && !(q.work.look [] g).isEmpty && !q.stopped.contains g
  [(0x0100 + 8 * c, 8, x.state.code + field 2 2 x.spares + field 4 4 x.owed + field 8 7 x.wcb.length
      + field 16 9 (if x.state = .appended then x.slot else 0) + field 32 8 x.reason),
   (0x0500 + 8 * c, 8, field 0 32 x.fails + field 32 25 x.first + field 63 1 (b2n (x.mark0 && x.mark1))),
   (0x1100 + 8 * c, 8, unit + field 8 6 (here.length - 1) + field 32 32 x.pauses),
   (0x2100 + 16 * c, 8, field 0 32 x.ce + field 32 16 x.ue + field 48 5 x.erase), (0x2108 + 16 * c, 8, x.erased)]

/-- The channel a per-channel register belongs to. -/
def chanOf (off : Nat) : Option Nat :=
  ((member off 0x0100 8 32).or <| (member off 0x0500 8 32).or <| (member off 0x1100 8 32).or (member off 0x2100 16 32)).map (·.1)

/-- The two words of an error-log entry. -/
def LogEntry.regs (e : LogEntry) : RegList :=
  [(0x00, 8, field 0 40 e.addr + field 40 5 e.channel + field 45 3 e.kind + field 48 4 e.symbols + field 52 1 (b2n e.erasure)
      + field 53 3 e.reader),
   (0x08, 8, field 0 18 e.positions + field 32 32 e.repeats)]

/-- The STK block of stack n once an image is in force. -/
def State.stackRegs (s : State) (n off : Nat) : RegAt :=
  let x := s.stack n
  let is (st : ChannelState) (c : Nat) : Bool := (s.chan n c).state == st
  let serving := (List.range 32).filter fun c => s.chanPresent n c && (is .inService c || is .appended c)
  let least (f : Channel → Nat) : Nat := ((serving.map fun c => f (s.chan n c)).min?).getD 0
  let busy := s.admittedOn n
  RegList.at_
    [(0x0000, 4, x.state.code + field 3 2 x.rate + field 5 1 (b2n x.refresh2) + field 6 5 (if x.trained then x.admitMax else 0) + field 16 8 x.lastCmd),
     (0x0004, 4, x.rateCap), (0x0008, 4, field 0 8 x.throttle + field 8 8 x.early),
     (0x000C, 4, shownTemp (signed 12 x.temp) + field 12 1 (b2n x.sensorFail) + field 13 1 (b2n x.hot)),
     (0x0010, 4, s.chanMask n fun c => s.sets.any (·.contains (32 * n + c))),
     (0x0014, 4, s.chanMask n fun c => is .out c || is .testing c), (0x0018, 4, s.chanMask n (is .appended)), (0x001C, 4, 0),
     (0x0400, 4, x.tg.mask), (0x0408, 4, x.tg.lo), (0x040C, 4, x.tg.hi), (0x0410, 4, field 0 2 x.tg.pattern + field 2 1 (b2n x.tg.both)),
     (0x0414, 4, x.tg.seed), (0x0418, 4, 0), (0x041C, 4, x.tg.state + field 8 8 x.tg.status),
     (0x1000, 4, (if !(s.domainReady (44 + n)) then 0 else if busy.isEmpty then 1 else 2) + field 8 6 busy.length
        + field 16 8 x.bsuLastCmd),
     (0x1004, 4, field 0 4 x.portMin + field 16 12 x.stallLimit),
     (0x1008, 4, field 0 5 x.bTherm + field 8 5 x.bPower + field 16 5 x.share),
     (0x100C, 4, field 0 11 x.held.length + field 16 1 (b2n x.heldFull)), (0x1010, 8, 0),
     (0x2000, 4, field 0 6 x.log.length + field 8 8 x.intLastCmd + field 16 16 x.dropped), (0x2004, 4, x.retries), (0x2008, 8, 0),
     (0x2010, 8, field 0 32 (least (·.passes)) + field 32 26 (least (·.patrol))), (0x2800, 8, x.scrub.lo), (0x2808, 8, x.scrub.hi),
     (0x2810, 8, x.scrub.dst), (0x2818, 8, 0), (0x2820, 4, x.scrub.state + field 8 8 x.scrub.status)] off <|
    match chanOf off, member off 0x0020 8 8, member off 0x2400 16 32 with
    | some c, _, _ =>
      match (s.chanRegs n c).at_ off .hole with
      | .reg w v => if s.chanPresent n c then .reg w v else .lacking
      | y => y
    | _, some (i, 0), _ => .reg 8 (leAt x.descriptor (8 * i) 8)
    | _, _, some (e, o) => ((x.log.getD e {}).regs).at_ o .hole
    | _, _, _ => .hole

/-! ### CLU (R112, R135, R147, R268, R269, R335) -/

/-- CORE_STATE.STATE. -/
def CoreRun.code : CoreRun → Nat
  | .quiescent => 0
  | .running => 1
  | .draining => 2
  | .faulted => 3
  | .offline => 4

/-- IBb_STAT.STATE. -/
def BankState.code : BankState → Nat
  | .empty => 0
  | .loading => 1
  | .ready => 2
  | .failed => 3

/-- A QFAULT register. -/
def QFault.value (x : QFault) : Nat := field 0 8 x.status + field 8 12 x.word + field 20 1 x.bank + field 31 1 (b2n x.valid)

/-- IBb_STAT. -/
def IBank.stat (b : IBank) : Nat := b.state.code + field 8 8 b.status + field 16 8 b.name

/-- The registers of a core. -/
def CoreSt.regs (x : CoreSt) (off : Nat) : RegAt :=
  let q := x.qfault
  let t := x.stat
  RegList.at_
    [(0x000, 4, x.run.code + field 3 1 x.disp.fetched + field 4 1 (b2n q.m.valid) + field 5 1 (b2n q.v.valid) + field 6 1 (b2n q.s.valid)
        + field 7 1 (b2n q.d.valid) + field 16 8 x.lastCmd), (0x004, 4, 0),
     (0x008, 4, field 0 12 x.nextEntry + field 12 1 x.nextBank + field 31 1 (b2n x.nextValid)),
     (0x00C, 4, field 0 16 x.joinLimit + field 16 1 (b2n x.event)), (0x010, 4, q.m.value), (0x014, 4, q.v.value), (0x018, 4, q.s.value),
     (0x01C, 4, q.d.value), (0x020, 4, x.strapCode), (0x024, 4, b2n x.strapPend), (0x028, 8, x.ib0.src), (0x030, 4, x.ib0.len),
     (0x034, 4, x.ib0.stat), (0x038, 8, x.ib1.src), (0x040, 4, x.ib1.len), (0x044, 4, x.ib1.stat), (0x048, 4, x.afifo.length),
     (0x050, 8, 0), (0x060, 4, x.preds),
     (0x0C0, 4, b2n t.mNan + field 1 1 (b2n t.mInf) + field 2 1 (b2n t.mClipped) + field 3 1 (b2n t.mWrapped) + field 8 8 t.lastKind),
     (0x0C4, 4, b2n t.vNan + field 1 1 (b2n t.vInf) + field 2 1 (b2n t.vClipped) + field 3 1 (b2n t.vSampleNan)),
     (0x0C8, 4, b2n t.cvMismatch + field 1 1 (b2n (x.cv == {})) + field 8 7 x.cv.width), (0x0D0, 8, t.cvLast), (0x0D8, 8, t.cvRecv),
     (0x0E0, 8, field 0 52 t.faultAddr + field 52 1 (b2n t.faultLocal) + field 56 8 t.faultStatus), (0x0F0, 4, x.lsLive)] off <|
    match member off 0x080 4 16 with
    | some (i, 0) => .reg 4 (x.counters.look 0 i)
    | _ => .hole

/-- The CLU block of cluster c without its debug module. -/
def State.cluRegs (s : State) (c off : Nat) : RegAt :=
  let x := s.cluster c
  if off < 0xC000 then
    if s.corePresent c (off / 0x1000) then (s.core c (off / 0x1000)).regs (off % 0x1000) else .lacking
  else
    RegList.at_
      [(0xE000, 4, x.sramCe), (0xE004, 4, x.sramUe),
       (0xE008, 4, field 0 4 x.sramMemory + field 4 4 x.sramUnit + field 8 1 (b2n x.sramLastUe))] off .hole

/-! ### The window (R31, R341, R448) -/

/-- The blocks. -/
inductive Block where
  | mgmt
  | gram
  | pwr
  | thm
  | sec
  | srv
  | sched
  | xl
  | fab (f : Nat)
  | stk (n : Nat)
  | clu (c : Nat)
  /-- the debug module of the management processor or of a control core -/
  | debug
  deriving DecidableEq, Repr

/-- The block of a management-window offset, with the offset inside it. -/
def blockAt (off : Nat) : Option (Block × Nat) :=
  let r := off % 0x10000
  let r2 := off % 0x20000
  if 0x100000 ≤ off && off < 0x180000 then some (.fab ((off - 0x100000) / 0x10000), r)
  else if 0x400000 ≤ off && off < 0x580000 then some (.stk ((off - 0x400000) / 0x20000), r2)
  else if 0x800000 ≤ off && off < 0xA00000 then
    if 0xF000 ≤ r2 && r2 < 0x10000 then some (.debug, r2) else some (.clu ((off - 0x800000) / 0x20000), r2)
  else
    match off / 0x10000 with
    | 0 => some (.mgmt, r)
    | 1 => some (.gram, r)
    | 2 => some (.pwr, r)
    | 3 => some (.thm, r)
    | 4 => if 0x8000 ≤ r && r < 0x9000 then some (.debug, r) else some (.sec, r)
    | 5 => some (.srv, r)
    | 6 => some (.sched, r)
    | 7 => some (.xl, r)
    | _ => none

/-- The block reads zero before an image (R31). -/
def Block.needsImage : Block → Bool
  | .srv => true
  | .sched => true
  | .fab _ => true
  | .stk _ => true
  | .clu _ => true
  | _ => false

/-- The unit behind a block is absent. -/
def State.blockLacks (s : State) : Block → Bool
  | .fab f => !(s.portPresent f)
  | .stk n => !(s.stackPresent n)
  | _ => false

/-- What a block holds at an offset, whether or not an image is in force. -/
def State.blockRegs (s : State) (by_ : Master) (b : Block) (off : Nat) : RegAt :=
  match b with
  | .mgmt => s.mgmtRegs off
  | .gram => s.gramRegs off
  | .pwr => s.pwrRegs by_ off
  | .thm => s.thmRegs off
  | .sec => s.secRegs off
  | .srv => s.srvRegs off
  | .sched => s.schedRegs off
  | .xl => s.xlRegs off
  | .fab f => s.fabRegs f off
  | .stk n => s.stackRegs n off
  | .clu c => s.cluRegs c off
  | .debug => .hole

/-- What a master finds at an offset of the window. -/
def State.regAt (s : State) (by_ : Master) (off : Nat) : RegAt :=
  match blockAt off with
  | none => .hole
  | some (.debug, _) => .lacking
  | some (b, o) =>
    if s.blockLacks b then .lacking
    else
      let r := s.blockRegs by_ b o
      if b.needsImage && s.gram.image.isNone then r.zeroed else r

/-- All ones in n bytes. -/
def allOnes (n : Nat) : Nat := 2 ^ (8 * n) - 1

/-- A read of the window: the value, with the access recorded where R7 or R448 says so. An unlocked debug module answers what the
manual leaves to another standard: a free value. -/
def State.readReg (s : State) (by_ : Master) (off size : Nat) : Nat × State :=
  match blockAt off with
  | some (.debug, _) => if s.sec.debug then s.drawBelow (2 ^ (8 * size)) else (allOnes size, s)
  | _ =>
    match s.regAt by_ off with
    | .reg w v => if w = size then (v, s) else (allOnes size, s.recordAccess Code.badAccess off)
    | .lacking => (allOnes size, s)
    | .hole => (allOnes size, s.recordAccess Code.badAccess off)

end Sys2Proof.Machine
end

