-- ==== Sys2Proof/Machine/Registers.lean ====
section
/-!
DEFINITION. Writing the management window: the access rules, the named fields and the commands of every block (R7 to R9, R31, R341,
R448), and the board management controller's register access (R394).
-/

namespace Sys2Proof.Machine

/-- The state a step answers; the state as it was where it answers none. -/
def State.after (s : State) (o : Host.Outcome State Fault Refusal) : State :=
  match o with
  | .next t => t
  | _ => s

/-- A write of a reserved value: no field changes; MGMT_ERR and the block's last status record it once (R9). -/
def State.reservedValue (s : State) (off : Nat) (status : State → State) : State := (status s).recordAccess Code.badValue off

/-- A register write whose values are judged by `ok`: `set_` sets the named fields, or the write is refused. -/
def State.writeFields (s : State) (off : Nat) (status : State → State) (ok : Bool) (set_ : State → State) : State :=
  if ok then set_ s else s.reservedValue off status

/-- Values the Meaning column allows: lo to hi. -/
def inRange (x lo hi : Nat) : Bool := decide (lo ≤ x) && decide (x ≤ hi)

/-! ### MGMT (R353, R356, R434) -/

/-- A register of event ring r. -/
def State.writeRing (s : State) (r o v : Nat) : State :=
  let off := 0x8000 + 0x40 * r + o
  if !(s.ringThere r) then s.badValue off
  else
    match o with
    | 0x00 => s.writeRingBase r v
    | 0x08 => s.writeRingCfg r v
    | 0x10 => s.writeFields off id (v % 4 == 0) fun s => s.modRing r fun x => { x with headPtr := v }
    | _ => s

/-- A register of vector v. -/
def State.writeVec (s : State) (n o v : Nat) : State :=
  match o with
  | 0x00 => s.writeFields (0x9000 + 0x10 * n) id (v % 4 == 0) fun s => s.modVec n fun x => { x with addr := v }
  | 0x08 => s.modVec n fun x => { x with data := v }
  | _ => if bit v 0 then s.modVec n fun x => { x with mask := true } else s.unmask n

/-- MGMT_RESET: a 1 clears its bit. -/
def Mgmt.clearCauses (m : Mgmt) (v : Nat) : Mgmt :=
  { m with powerOn := m.powerOn && !bit v 0, resetPin := m.resetPin && !bit v 1, restarted := m.restarted && !bit v 2,
           factory := m.factory && !bit v 3 }

/-- The MGMT block. -/
def State.writeMgmt (s : State) (o v : Nat) : State :=
  if o = 0xA000 then s.telemetryConfig true v
  else if o = 0xA008 then s.telemetryConfig false v
  else if o = 0xA080 then s.modMgmt fun m => m.clearCauses v
  else
    match member o 0x8000 0x40 16, member o 0x9000 0x10 32 with
    | some (r, i), _ => s.writeRing r i v
    | _, some (n, i) => s.writeVec n i v
    | _, _ => s

/-! ### GRAM (R58, R59) -/

/-- GRAM_STATE.LAST_CMD_STATUS takes BAD_VALUE. -/
def State.gramBad (s : State) : State := s.modGram fun x => { x with lastCmd := Code.badValue }

/-- The GRAM block. -/
def State.writeGram (s : State) (o v : Nat) : State :=
  match o with
  | 0x04 =>
    match v % 4 with
    | 1 => s.gramCmd 1
    | 2 => s.gramCmd 2
    | _ => s.reservedValue 0x10004 State.gramBad
  | 0x08 => s.writeFields 0x10008 State.gramBad (v % 64 == 0) fun s => s.modGram fun x => { x with src := v }
  | 0x10 => s.modGram fun x => { x with len := v }
  | _ => s

/-! ### PWR and THM (R392, R393, R397 to R399) -/

/-- PWR_ALERT. -/
def State.writeAlert (s : State) (v : Nat) : State :=
  let f := bits v 0 5
  let b := bits v 5 5
  let h := bits v 10 10
  s.writeFields 0x20020 (fun s => s.pwrStatus Code.badValue) (inRange f 10 30 && inRange b 2 16 && inRange h 1 1000) fun s =>
    (s.modPwr fun x => { x with alertFreq := f, alertB := b, alertHold := h }).pwrStatus Code.ok

/-- A write of an RW-P field: without presence it is refused and counted, whatever its value (R8, R412). -/
def State.presenceWrite (s : State) (off : Nat) (f : State → State) : State :=
  if s.sec.presence then f s else s.secRefuse off Code.noPresence

/-- The PWR block. -/
def State.writePwr (s : State) (by_ : Master) (o v : Nat) : State :=
  match o with
  | 0x010 => s.limitOrder by_ (v % 4096)
  | 0x020 => s.writeAlert v
  | 0x048 => if bit v 0 then (s.pwrStatus Code.ok).shutdown 5 0 else s.pwrStatus Code.ok
  | 0xA04 => s.recAck v
  | 0xA08 =>
    if bit v 0 then s.after (execPwrRecErase by_ s) else s.presenceWrite pwrRecEraseOffset fun s => s.pwrStatus Code.ok
  | 0xA0C => (s.modPwr fun x => { x with recSel := v % 16 }).pwrStatus Code.ok
  | _ => s

/-- THM_STATE.LAST_CMD_STATUS. -/
def State.thmStatus (s : State) (st : Status) : State := s.modThm fun x => { x with lastCmd := st }

/-- THM_THRESH: each field written is an order of its decision window; SHUT takes presence. -/
def State.writeThresh (s : State) (by_ : Master) (v : Nat) : State :=
  let s := if s.sec.presence then s else s.secRefuse 0x30008 Code.noPresence
  let warn := bits v 0 8
  let throttle := bits v 8 8
  let shut := if s.sec.presence then bits v 16 8 else s.thm.shut
  let rise := bits v 24 8
  let ok := inRange throttle 80 105 && inRange warn 70 throttle && inRange shut (throttle + 5) 115 && inRange rise 5 40
  s.writeFields 0x30008 (fun s => s.thmStatus Code.badValue) ok fun s =>
    let s := ((s.order by_ none 1 warn).order by_ none 2 throttle).order by_ none 4 rise
    (if s.sec.presence then s.order by_ none 3 shut else s).thmStatus Code.ok

/-- The THM block. -/
def State.writeThm (s : State) (by_ : Master) (o v : Nat) : State :=
  match o with
  | 0x08 => s.writeThresh by_ v
  | _ => s

/-! ### SEC (R404, R405, R409 to R417) -/

/-- SEC_STATE.LAST_CMD_STATUS takes BAD_VALUE. -/
def State.secBad (s : State) : State := s.secStatus Code.badValue

/-- A field of the SEC block that takes any value `ok` allows. -/
def State.setSec (s : State) (o : Nat) (ok : Bool) (f : Sec → Sec) : State :=
  s.writeFields (secOffset o) State.secBad ok fun s => (s.modSec f).secStatus Code.ok

/-- The SEC block. -/
def State.writeSec (s : State) (by_ : Master) (o v : Nat) : State :=
  if o = 0x10 then
    match v % 4 with
    | 1 => s.after (execOwnerSet by_ s)
    | 2 => s.after (execOwnerClear by_ s)
    | _ => s.presenceWrite (secOffset o) fun s => s.reservedValue (secOffset o) State.secBad
  else if o = 0x68 then
    if bit v 0 then s.after (execDebugUnlock by_ s)
    else s.presenceWrite (secOffset o) fun s => (s.modSec fun x => { x with unlockBit := false }).secStatus Code.ok
  else if o = 0x6C then
    if bit v 0 then s.after (execSealAck by_ s) else s.presenceWrite (secOffset o) fun s => s.secStatus Code.ok
  else if o = 0x78 then
    if v % 8 = 0 then s.presenceWrite (secOffset o) fun s => s.secStatus Code.ok else s.recErase by_ v
  else if o = 0x7C then s.after (execFactoryReset by_ v s)
  else if o = 0x80 then s.setSec o (v % 64 == 0) fun x => { x with fwSrc := v }
  else if o = 0x88 then s.setSec o true fun x => { x with fwLen := v }
  else if o = 0x8C then
    match v % 4 with
    | 1 => s.after (execFwUpdate s)
    | 2 => s.after (execFwCommit s)
    | _ => s.reservedValue (secOffset o) State.secBad
  else if o = 0x94 then
    if bit v 0 then s.after (execFwRollback by_ s)
    else s.presenceWrite (secOffset o) fun s => (s.modSec fun x => { x with rollbackBit := false }).secStatus Code.ok
  else if o = 0xC0 then s.setSec o (v % 64 == 0) fun x => { x with attDst := v }
  else if o = 0xC8 then s.attestCmd (v % 8)
  else
    match member o 0x20 8 8, member o 0xA0 8 4 with
    | some (i, _), _ => s.setSec o (i != 7 || decide (v < 256)) fun x => { x with staged := x.staged.put i v }
    | _, some (i, _) => s.setSec o true fun x => { x with nonce := x.nonce.put i v }
    | _, _ => s

/-! ### SRV (R312) -/

/-- A device-wide field of the SRV block. -/
def State.setSrv (s : State) (o : Nat) (ok : Bool) (f : Srv → Srv) : State :=
  s.writeFields (0x50000 + o) (fun s => s.srvStatus Code.badValue) ok fun s => s.modSrv f

/-- A field of a partition's serving registers; some are closed while it has a live request. -/
def State.setPsrv (s : State) (p o : Nat) (ok idle : Bool) (f : PartSrv → PartSrv) : State :=
  if !ok then s.srvBad p o else if idle && s.hasLive p then s.srvStatus Code.badValue else s.modPsrv p f

/-- The serving registers of partition p. -/
def State.writePsrv (s : State) (p o v : Nat) : State :=
  if !(s.isServed p) then s.srvBad p o
  else if o = 0x00 then s.writeCmdBase p v
  else if o = 0x08 then s.writeCmdCfg p v
  else if o = 0x10 then s.writeCplBase p v
  else if o = 0x18 then s.writeCplCfg p v
  else if o = 0x20 then s.setPsrv p o (v % 4 == 0) false fun x => { x with cplHeadPtr := v }
  else if o = 0x28 then s.setPsrv p o (v % 2 ^ 52 % pageBytes == 0) true fun x => { x with kvaBase := v % 2 ^ 52 }
  else if o = 0x30 then s.setPsrv p o true true fun x => { x with kvaPages := v }
  else if o = 0x34 then s.setPsrv p o true false fun x => { x with kvLimit := v }
  else if o = 0x40 then s.poolPush p v
  else if o = 0x48 then
    s.setPsrv p o true false fun x => { x with nounBase := bits v 0 12, nounCount := bits v 16 12, nounNext := 0, nounTags := [] }
  else if o = 0x50 then s.setPsrv p o (v % 64 == 0) true fun x => { x with tmpl := v }
  else s

/-- The SRV block. -/
def State.writeSrv (s : State) (o v : Nat) : State :=
  if o = 0x10 then
    let m := bits v 0 5
    let b := bits v 16 13
    s.setSrv o (inRange m 1 16 && inRange b 1 4096) fun x => { x with bsuMax := m, batchMax := b }
  else if o = 0x14 then s.setSrv o true fun x => { x with stepLimit := bits v 0 16 }
  else if o = 0x20 then s.srvPeek (bits v 0 12) (bits v 16 10)
  else
    match member o 0x1000 0x100 16 with
    | some (p, i) => s.writePsrv p i v
    | none => s

/-! ### SCHED (R330, R334) -/

/-- MC_CMD. -/
def State.mcCommand (s : State) (v : Nat) : State :=
  let e := bits v 0 6
  match bits v 8 3 with
  | 1 => s.mcLoad e
  | 2 => s.mcEvict e
  | 3 => s.mcUnload e
  | 4 => s.after (execMcPin e s)
  | 5 => s.after (execMcUnpin e s)
  | 6 => s.after (execMcTouch e s)
  | _ => s.reservedValue 0x60100 fun s => s.mcStatus Code.badValue

/-- MC_ARG. -/
def State.writeMcArg (s : State) (v : Nat) : State :=
  let base := bits v 56 8
  let ok := decide (bits v 20 2 ≤ 1) && decide (bits v 32 8 ≠ 0) && (decide (base < 64) || base == 0xFF)
  s.writeFields 0x60118 (fun s => s.mcStatus Code.badValue) ok fun s => s.modSched fun x =>
    { x with mcPages := bits v 0 20, mcSrcKind := bits v 20 2, mcSrcPid := bits v 22 4, mcLayers := bits v 32 8, mcKvt := bits v 40 16,
             mcBase := base }

/-- The scheduling registers of partition p. A save area that moves holds nothing yet. -/
def State.writePsched (s : State) (p o v : Nat) : State :=
  let off := 0x61000 + 0x100 * p + o
  if !(s.defined p) then s.reservedValue off fun s => s.schedStatus Code.badValue
  else if o = 0x08 then
    s.writeFields off (fun s => s.schedStatus Code.badValue) (v % 2 ^ 52 % pageBytes == 0) fun s =>
      (s.modPsched p fun x => { x with saveVa := v % 2 ^ 52 }).modSched fun x =>
        { x with saved := if (s.psched p).saveVa = v % 2 ^ 52 then x.saved else x.saved.filter fun (k, _) => k / 16 != p }
  else if o = 0x10 then s.modPsched p fun x => { x with ccEntry := v % 2 ^ 52 }
  else if o = 0x50 then s.acctClr p (v % 16)
  else s

/-- The SCHED block. A BAD_VALUE of MC_SRC, MC_LIST, MC_ARG and MC_CMD goes to MC_STATUS, any other to SCHED_STATE: R9 says 'the block's
LAST_CMD_STATUS' where the block has two (DESIGN CHOICE, log entry 81). -/
def State.writeSched (s : State) (by_ : Master) (o v : Nat) : State :=
  let bad (s : State) : State := s.schedStatus Code.badValue
  if o = 0x04 then s.phaseCommand by_ none (v % 8)
  else if o = 0x08 then
    let d := bits v 8 8
    let m := bits v 16 5
    s.writeFields 0x60008 bad (inRange d 1 255 && inRange m 1 16) fun s =>
      s.modSched fun x => { x with rebal := bit v 0, drainLimit := d, moves := m }
  else if o = 0x10 then
    let (st, s) := s.startSwitch (bits v 0 4) (bits v 4 4)
    s.schedStatus st
  else if o = 0x14 then s.coreOffline (bits v 0 4) (bits v 4 4)
  else if o = 0x100 then s.mcCommand v
  else if o = 0x108 then
    s.writeFields 0x60108 (fun s => s.mcStatus Code.badValue) (v % 64 == 0) fun s => s.modSched fun x => { x with mcSrc := v }
  else if o = 0x110 then
    s.writeFields 0x60110 (fun s => s.mcStatus Code.badValue) (v % 64 == 0) fun s => s.modSched fun x => { x with mcList := v }
  else if o = 0x118 then s.writeMcArg v
  else if o = 0x120 then s.modSched fun x => { x with mcCtx := bits v 0 24, mcUsers := bits v 32 16 }
  else
    match member o 0x1000 0x100 16 with
    | some (p, i) => s.writePsched p i v
    | none => s

/-! ### XL (R355) -/

/-- The XL block: XL_CTL sets the poll interval and, with its RETRAIN bit, retrains the link. -/
def State.writeXl (s : State) (o v : Nat) : State :=
  match o with
  | 0x04 =>
    let poll := bits v 16 10
    s.writeFields 0x70004 (fun s => s.modXl fun x => { x with lastCmd := Code.badValue }) (inRange poll 1 1000) fun s =>
      let s := s.modXl fun x => { x with poll := poll, lastCmd := Code.ok }
      if bit v 0 then s.xlRetrain else s
  | _ => s

/-! ### FAB (R375) -/

/-- Word 0 of a flow entry but for ENABLE. -/
def Flow.setWord0 (x : Flow) (v : Nat) : Flow :=
  { x with stream := bit v 1, pid := bits v 2 4, mgmt := bit v 6, rflow := bits v 7 10, vlanEn := bit v 17, vid := bits v 18 12,
           pcp := bits v 30 3, dscp := bits v 33 6, local_ := bits v 48 16 }

/-- Words 1 to 3 of a flow entry. -/
def Flow.setWord (x : Flow) (o v : Nat) : Flow :=
  match o with
  | 0x08 => { x with dmac := v % 2 ^ 48 }
  | 0x10 => { x with peerIp := x.peerIp / 2 ^ 64 * 2 ^ 64 + v }
  | _ => { x with peerIp := x.peerIp % 2 ^ 64 + v * 2 ^ 64 }

/-- A word of a flow entry. An enabled entry takes only the write that clears ENABLE. -/
def State.writeFlow (s : State) (f n o v : Nat) : State :=
  let fl := s.flow f n
  if o != 0 then
    if fl.enable then s.fabStatus f Code.flowInvalid else (s.modFlow f n fun x => x.setWord o v).fabStatus f Code.ok
  else if fl.enable then
    if bit v 0 then s.fabStatus f Code.flowInvalid
    else ((s.closeFlow f n).modFlow f n fun x => x.setWord0 v).fabStatus f Code.ok
  else if bit v 0 then
    if (fl.setWord0 v).stream && station (fl.setWord0 v).local_ == .reserved then s.fabStatus f Code.flowInvalid
    else (s.modFlow f n fun x => x.setWord0 v).flowOpen f n
  else (s.modFlow f n fun x => x.setWord0 v).fabStatus f Code.ok

/-- The FAB block of port f. -/
def State.writeFab (s : State) (f o v : Nat) : State :=
  let bad (s : State) : State := s.fabStatus f Code.badValue
  let set_ (ok : Bool) (g : FabPort → FabPort) : State := s.writeFields (fabOffset f o) bad ok fun s => s.modPort f g
  if o = 0x04 then
    let d := bits v 8 8
    s.writeFields (fabOffset f o) bad (inRange d 1 255) fun s =>
      let s := (s.modPort f fun x => { x with media := bits v 1 1, downLimit := d }).fabStatus f Code.ok
      if bit v 0 then s.portRetrain f else s
  else if o = 0x08 then set_ true fun x => { x with mac := v % 2 ^ 48 }
  else if o = 0x10 then set_ true fun x => { x with ip0 := v }
  else if o = 0x18 then set_ true fun x => { x with ip1 := v }
  else if o = 0x20 then set_ true fun x => { x with etype := bits v 0 16, udp := bits v 16 16 }
  else if o = 0x24 then set_ (bits v 0 2 != 3) fun x => { x with mtu := bits v 0 2 }
  else if o = 0x28 then
    set_ (bits v 0 16 != 0 && bits v 16 4 != 0 && bits v 24 8 != 0) fun x =>
      { x with rto := bits v 0 16, retry := bits v 16 4, helloLimit := bits v 24 8 }
  else
    match member o 0x8000 32 1024 with
    | some (n, i) => s.writeFlow f n i v
    | none => s

/-! ### STK (R214, R243, R267) -/

/-- STK_THERM: EARLY is judged against the THROTTLE of the same write. -/
def State.writeStackTherm (s : State) (n v : Nat) : State :=
  let throttle := bits v 0 8
  let early := bits v 8 8
  let top := match (s.stack n).tmax with
    | some m => m - 5
    | none => 255
  s.writeFields (stackOffset n 8) (fun s => s.stackStatus n Code.badValue) (inRange throttle 80 top && inRange early 70 throttle) fun s =>
    s.modStack n fun x => { x with throttle := throttle, early := early }

/-- STK_CHCMD. -/
def State.channelCommand (s : State) (n v : Nat) : State :=
  match bits v 5 2 with
  | 1 => s.channelMapout n (bits v 0 5)
  | 2 => s.channelReturn n (bits v 0 5)
  | _ => s.reservedValue (stackOffset n 0x1C) fun s => s.stackStatus n Code.badValue

/-- TG_CMD. -/
def State.tgCommand (s : State) (n v : Nat) : State :=
  let s := if bit v 0 then s.tgStart n else s.stackStatus n Code.ok
  if bit v 1 then s.modTg n fun t => { t with stopped := t.stopped || t.run.isSome } else s

/-- The checker's registers. -/
def State.writeTg (s : State) (n o v : Nat) : State :=
  let set_ (ok : Bool) (g : Checker → Checker) : State :=
    s.writeFields (stackOffset n o) (fun s => s.stackStatus n Code.badValue) ok fun s => s.modTg n g
  match o with
  | 0x400 => set_ ((bitsSet 32 v).all (s.chanPresent n)) fun t => { t with mask := v }
  | 0x408 => set_ true fun t => { t with lo := bits v 0 26 }
  | 0x40C => set_ (decide (bits v 0 26 ≤ 0x2000000)) fun t => { t with hi := bits v 0 26 }
  | 0x410 => set_ true fun t => { t with pattern := bits v 0 2, both := bit v 2 }
  | 0x414 => set_ true fun t => { t with seed := v }
  | 0x418 => s.tgCommand n v
  | _ => s

/-- INT_CLR. -/
def State.intClear (s : State) (n v : Nat) : State :=
  let s := (bitsSet 32 v).foldl (fun s ch => s.modChan n ch fun c => { c with ce := 0, erased := 0 }) s
  (s.modStack n fun x =>
    { x with log := if bit v 32 then [] else x.log, dropped := if bit v 33 then 0 else x.dropped }).intStatus n Code.ok

/-- RSCRUB_CMD. -/
def State.rscrubCommand (s : State) (n v : Nat) : State :=
  let s := if bit v 32 then s.rscrubStart n (bits v 0 32) else s.intStatus n Code.ok
  if bit v 33 then s.modScrub n fun x => { x with stopped := x.stopped || x.state == 1 } else s

/-- The bank-side and integrity registers of a stack. A BAD_VALUE goes to the LAST_CMD_STATUS of the register's own group: BSU_STATE for
BSU registers, INT_STAT for the integrity registers, STK_STATE for the others. R9 says 'the block's LAST_CMD_STATUS' where the block has
three (DESIGN CHOICE, log entry 81). -/
def State.writeStackUnits (s : State) (n o v : Nat) : State :=
  let intBad (s : State) : State := s.intStatus n Code.badValue
  if o = 0x1004 then
    let m := bits v 0 4
    let l := bits v 16 12
    s.writeFields (stackOffset n o) (fun s => s.modStack n fun x => { x with bsuLastCmd := Code.badValue })
      (decide (m ≤ 8) && decide (l ≠ 0)) fun s => s.modStack n fun x => { x with portMin := m, stallLimit := l }
  else if o = 0x100C then s.modStack n fun x => { x with heldFull := x.heldFull && !bit v 16 }
  else if o = 0x1010 then s.bsuCancelWrite n (bits v 32 4) (bits v 0 32)
  else if o = 0x2008 then s.intClear n v
  else if o = 0x2800 then s.modScrub n fun x => { x with lo := bits v 0 40 }
  else if o = 0x2808 then s.modScrub n fun x => { x with hi := bits v 0 41 }
  else if o = 0x2810 then s.writeFields (stackOffset n o) intBad (v % 64 == 0) fun s => s.modScrub n fun x => { x with dst := v }
  else if o = 0x2818 then s.rscrubCommand n v
  else
    match member o 0x2100 16 32 with
    | some (c, 0) => s.erasureSet n c (bits v 48 5)
    | _ => s

/-- The STK block of stack n. -/
def State.writeStack (s : State) (n o v : Nat) : State :=
  if o = 0x04 then
    s.writeFields (stackOffset n o) (fun s => s.stackStatus n Code.badValue) (bits v 0 2 != 3) fun s =>
      s.modStack n fun x => { x with rateCap := bits v 0 2 }
  else if o = 0x08 then s.writeStackTherm n v
  else if o = 0x0C then s.modStack n fun x => { x with hot := x.hot && !bit v 13 }
  else if o = 0x1C then s.channelCommand n v
  else if 0x400 ≤ o && o < 0x500 then s.writeTg n o v
  else s.writeStackUnits n o v

/-! ### CLU (R112, R135, R147, R268, R335) -/

/-- CORE_CMD. -/
def State.coreCommand (s : State) (c k v : Nat) : State :=
  match bits v 0 3 with
  | 1 => s.coreStart c k (bits v 3 1) (bits v 16 12)
  | 2 => s.coreStop c k
  | 3 => s.coreAbort c k
  | _ => s.reservedValue (coreOffset c k 4) fun s => s.coreStatus c k Code.badValue

/-- The status registers of a core: a 1 clears its bit. -/
def CoreStat.clear (t : CoreStat) (o v : Nat) : CoreStat :=
  match o with
  | 0xC0 => { t with mNan := t.mNan && !bit v 0, mInf := t.mInf && !bit v 1, mClipped := t.mClipped && !bit v 2,
                     mWrapped := t.mWrapped && !bit v 3 }
  | 0xC4 => { t with vNan := t.vNan && !bit v 0, vInf := t.vInf && !bit v 1, vClipped := t.vClipped && !bit v 2,
                     vSampleNan := t.vSampleNan && !bit v 3 }
  | 0xC8 => { t with cvMismatch := t.cvMismatch && !bit v 0 }
  | _ => t

/-- QFAULT.VALID: a 1 clears it. -/
def QFault.clear (x : QFault) (v : Nat) : QFault := { x with valid := x.valid && !bit v 31 }

/-- A core's registers without a command. -/
def CoreSt.writeField (x : CoreSt) (o v : Nat) : CoreSt :=
  match o with
  | 0x08 => { x with nextEntry := bits v 0 12, nextBank := bits v 12 1, nextValid := bit v 31 }
  | 0x0C => { x with joinLimit := bits v 0 16, event := bit v 16 }
  | 0x10 => { x with qfault := { x.qfault with m := x.qfault.m.clear v } }
  | 0x14 => { x with qfault := { x.qfault with v := x.qfault.v.clear v } }
  | 0x18 => { x with qfault := { x.qfault with s := x.qfault.s.clear v } }
  | 0x1C => { x with qfault := { x.qfault with d := x.qfault.d.clear v } }
  | 0x24 => { x with strapPend := x.strapPend && !bit v 0 }
  | 0x30 => { x with ib0 := { x.ib0 with len := v } }
  | 0x40 => { x with ib1 := { x.ib1 with len := v } }
  | 0xF0 => { x with lsLive := v }
  | _ => { x with stat := x.stat.clear o v }

/-- The registers of core k of cluster c. -/
def State.writeCore (s : State) (by_ : Master) (c k o v : Nat) : State :=
  let bad (s : State) : State := s.coreStatus c k Code.badValue
  match o with
  | 0x04 => s.coreCommand c k v
  | 0x28 => s.writeFields (coreOffset c k o) bad (v % 64 == 0) fun s => s.modCore c k fun x => { x with ib0 := { x.ib0 with src := v } }
  | 0x38 => s.writeFields (coreOffset c k o) bad (v % 64 == 0) fun s => s.modCore c k fun x => { x with ib1 := { x.ib1 with src := v } }
  | 0x34 => if bit v 2 then s.bankLoad c k 0 else s
  | 0x44 => if bit v 2 then s.bankLoad c k 1 else s
  | 0x50 => s.afifoPush by_ c k v
  | _ => s.modCore c k fun x => x.writeField o v

/-- The CLU block of cluster c: the SRAM error registers are read-only. -/
def State.writeClu (s : State) (by_ : Master) (c o v : Nat) : State :=
  if o < 0xC000 then s.writeCore by_ c (o / 0x1000) (o % 0x1000) v else s

/-! ### The window -/

/-- A write of a register of a block. -/
def State.writeBlock (s : State) (by_ : Master) (b : Block) (o v : Nat) : State :=
  match b with
  | .mgmt => s.writeMgmt o v
  | .gram => s.writeGram o v
  | .pwr => s.writePwr by_ o v
  | .thm => s.writeThm by_ o v
  | .sec => s.writeSec by_ o v
  | .srv => s.writeSrv o v
  | .sched => s.writeSched by_ o v
  | .xl => s.writeXl o v
  | .fab f => s.writeFab f o v
  | .stk n => s.writeStack n o v
  | .clu c => s.writeClu by_ c o v
  | .debug => s

/-- A write to the window: access rules, then the register. -/
def State.writeReg (s : State) (by_ : Master) (off size v : Nat) : State :=
  match s.regAt by_ off, blockAt off with
  | .reg w _, some (b, o) =>
    if w != size then s.recordAccess Code.badAccess off
    else if b.needsImage && s.gram.image.isNone then s.recordAccess Code.noImage off
    else s.writeBlock by_ b o (v % 2 ^ (8 * size))
  | .lacking, some (.debug, _) => s
  | _, _ => s.recordAccess Code.badAccess off

/-- An offset lies in a debug module that is unlocked. -/
def State.debugOpen (s : State) (off : Nat) : Bool :=
  s.sec.debug && (match blockAt off with
    | some (.debug, _) => true
    | _ => false)

/-- The core registers of a control core's own cluster: all it reaches (R112). -/
def ownCores (c off : Nat) : Bool := decide (coreOffset c 0 0 ≤ off) && decide (off < coreOffset c 12 0)

/-- REGISTER_WRITE: `width` is the access's size in bytes. The companion reaches the whole window, a control core the core registers
of its cluster; the board management controller and fabric peers have commands of their own. -/
def execRegisterWrite (by_ : Master) (offset width v : Nat) (s : State) : Host.Outcome State Fault Refusal :=
  match by_ with
  | .companion => if s.debugOpen offset then .refused .debugModule else .next (s.writeReg by_ offset width v)
  | .controlCore c => .next (if ownCores c offset then s.writeReg by_ offset width v else s)
  | _ => .next s

/-! ### The board management controller (R394) -/

/-- A block the controller may read. -/
def bmcReads (off : Nat) : Bool :=
  match blockAt off with
  | some (.mgmt, _) => true
  | some (.pwr, _) => true
  | some (.thm, _) => true
  | _ => false

/-- The registers it may write: PWR_ORDER, PWR_SHUTDOWN, PWR_REC_ACK, THM_THRESH and SCHED_PHASE. -/
def bmcWrites : List Nat := [0x20010, 0x20048, 0x20A04, 0x30008, 0x60004]

/-- Firmware answers the controller: while it runs, and after a shutdown. -/
def State.bmcServed (s : State) : Bool :=
  s.mgmt.boot == .firmware || s.mgmt.boot == .ready || s.mgmt.boot == .shutdown

/-- MCTP_READ -/
def execMctpRead (offset : Nat) (s : State) : Host.Outcome State Fault Refusal :=
  .next <|
    if !s.bmcServed then s
    else
      match bmcReads offset, s.regAt .bmc offset with
      | true, .reg _ v => s.mctpAnswer Code.ok (leBytes 8 v)
      | true, _ => (s.recordAccess Code.badAccess offset).mctpAnswer Code.badAccess (leBytes 8 0)
      | false, _ => s.mctpAnswer Code.badAccess (leBytes 8 0)

/-- The status a write left in the last-status field of the block it went to. -/
def State.orderStatus (s : State) (off : Nat) : Status :=
  if off / 0x10000 = 2 then s.pwr.lastCmd else if off / 0x10000 = 3 then s.thm.lastCmd else s.sched.lastCmd

/-- MCTP_WRITE -/
def execMctpWrite (offset v : Nat) (s : State) : Host.Outcome State Fault Refusal :=
  .next <|
    if !s.bmcServed then s
    else if !(bmcWrites.contains offset) then s.mctpAnswer Code.badAccess (leBytes 8 0)
    else if offset = 0x60004 && s.gram.image.isNone then
      (s.recordAccess Code.noImage offset).mctpAnswer Code.noImage (leBytes 8 0)
    else
      let s := s.writeReg .bmc offset 4 v
      s.mctpAnswer (s.orderStatus offset) (leBytes 8 0)

end Sys2Proof.Machine
end

