-- ==== Sys2Proof/Machine/Companion.lean ====
section
/-!
DEFINITION. The companion's accesses through its three windows, and the accesses of a control core (R112, R169, R180, R183, R187,
R198, R251, R262, R340 to R347).
-/

namespace Sys2Proof.Machine

/-! ### Local-store windows (R198, R262) -/

/-- A word of a core's local store has an uncorrectable error. -/
def State.badWord (s : State) (c k off : Nat) : State :=
  (s.modCore c k fun y => { y with lsBad := insertLine (off / 8 * 8) y.lsBad }).sramError c k 0

/-- The core behind an offset of the local-store windows, where it is there and in service. -/
def State.windowCore (s : State) (off : Nat) : Option (Nat × Nat) :=
  let g := off / pageBytes
  if g < 192 && s.corePresent (g / 12) (g % 12) && (s.core (g / 12) (g % 12)).run != .offline then some (g / 12, g % 12) else none

/-! ### Device memory (R171, R340, R342, R347) -/

/-- End of the companion's window of device physical space. -/
abbrev windowTop : Nat := 0xC000000000

/-- The 64-byte lines of a range of bytes. -/
def lineRange (off n : Nat) : List Nat := if n = 0 then [] else (List.range ((off + n - 1) / 64 - off / 64 + 1)).map (· + off / 64)

/-- The station the companion's accesses carry: the link's block (R350). -/
abbrev companionStation : Nat := Obs.ofXl.source

/-- Lines read for the companion: their bytes with whether any is poisoned, or the status that ends the read, or a wait. What a
poisoned line's bytes are is left open. -/
def State.readForCompanion : List Nat → State → Except Halt (List Byte × Bool) × State
  | [], s => (.ok ([], false), s)
  | l :: r, s =>
    match s.readLine companionStation 0 l with
    | (.wait, s) => (.error .wait, s)
    | (.data b, s) =>
      match State.readForCompanion r s with
      | (.ok (t, p), s) => (.ok (b ++ t, p), s)
      | (.error h, s) => (.error h, s)
    | (.fault st, s) =>
      if st = Code.ueData || st = Code.poisoned then
        let (b, s) := s.drawBytes 64
        match State.readForCompanion r s with
        | (.ok (t, _), s) => (.ok (b ++ t, true), s)
        | (.error h, s) => (.error h, s)
      else (.error (.fault (if st = Code.domainFault then st else Code.windowRange)), s)

/-- A flagged answer can be given: POISON is in force, or the partner is a root port (R347). -/
def State.canFlag (s : State) : Bool := s.xl.rootPort || bit s.xl.feat 2

/-- Every line of a range lies in a channel that serves it. -/
def State.linesServed (s : State) (ls : List Nat) : Bool :=
  ls.all fun l => match s.locate (64 * l) with
    | .cell _ _ => true
    | .absent _ => false

/-- A companion read of device memory: its lines are recorded in the directory while COH_D is in force. -/
def State.companionLines (s : State) (off size : Nat) (u : Upset) : State :=
  let ls := lineRange off size
  if windowTop < off + size || !(s.linesServed ls) then s.emit (.readReply Code.windowRange false [])
  else
    match State.readForCompanion ls (s.strike u) with
    | (.error .wait, t) => t
    | (.error (.fault st), t) => t.emit (.readReply st false [])
    | (.ok (b, poisoned), t) =>
      let t := if t.cohD then ls.foldl (fun t l => t.recordFill l) t else t
      if poisoned && !t.canFlag then t.emit (.readReply Code.poisoned false [])
      else t.emit (.readReply Code.ok poisoned (slice b (off % 64) size))

/-- A companion read of a local-store window; a word with an uncorrectable error is answered as an uncorrectable line is. -/
def State.companionLocal (s : State) (off size : Nat) (u : Upset) : State :=
  match s.windowCore off with
  | none => s.emit (.readReply Code.windowRange false [])
  | some (c, k) =>
    let o := off % pageBytes
    if pageBytes < o + size then s.emit (.readReply Code.windowRange false [])
    else
      let s := match u.localStore with
        | some w => s.badWord c k w
        | none => s
      let bad := (s.core c k).lsBad.any fun w => decide (w < o + size) && decide (o < w + 8)
      if !bad then s.emit (.readReply Code.ok false (Memory.readList (s.core c k).localStore o size))
      else if s.canFlag then
        let (b, s) := s.drawBytes size
        s.emit (.readReply Code.ok true b)
      else s.emit (.readReply Code.poisoned false [])

/-- COMPANION_READ -/
def execCompanionRead (window offset size : Nat) (u : Upset) (s : State) : Host.Outcome State Fault Refusal :=
  .next <|
    match window with
    | 0 =>
      let (v, s) := s.readReg .companion offset size
      s.emit (.readReply Code.ok false (leBytes size v))
    | 1 => s.companionLines offset size u
    | 2 => s.companionLocal offset size u
    | _ => s.emit (.readReply Code.windowRange false [])

/-! ### Companion writes (R187, R346, R347) -/

/-- The order of a companion write, as its tag carries it. -/
def orderTag : Ordering → Nat
  | .relaxed => 0
  | .ordered => 1
  | .release => 2

/-- Every write that waits at a base die. -/
def State.waitingWrites (s : State) : List WriteOp :=
  s.stk.flatMap (fun (e : Nat × Stack) => e.2.held.map (·.2) ++ e.2.heldWaiting.map (·.2) ++ e.2.wakeQueue)
    ++ s.xl.withdraws.filterMap (·.2)

/-- Earlier companion writes that a write of some order follows: none, the ordered ones, or all (R346). -/
def State.companionMustWait (s : State) (order : Ordering) : Bool :=
  let mine := s.waitingWrites.filter (·.writer == .companion)
  match order with
  | .relaxed => false
  | .ordered => mine.any (·.tag != 0)
  | .release => !mine.isEmpty

/-- The part of a write that falls on one line. -/
def writeOfLine (off : Nat) (b : List Byte) (line tag : Nat) (poison : Bool) : WriteOp :=
  let first := 64 * line
  let lo := max off first
  let hi := min (off + b.length) (first + 64)
  { writer := .companion, line := line, bytes := overlay (List.replicate 64 0) (lo - first) (slice b (lo - off) (hi - lo)),
    mask := (2 ^ (hi - lo) - 1) * 2 ^ (lo - first), poison := poison, tag := tag }

/-- A companion write of device memory: each line is answered as its base die performs it. -/
def State.companionStore (s : State) (off : Nat) (order : Ordering) (poisoned : Bool) (b : List Byte) : State :=
  let ls := lineRange off b.length
  if windowTop < off + b.length || !(s.linesServed ls) then s.emit (.writeReply Code.windowRange)
  else ls.foldl (fun s l => s.submit (writeOfLine off b l (orderTag order) (poisoned && s.canFlag))) s

/-- A companion write of a local-store window. -/
def State.companionLocalStore (s : State) (off : Nat) (b : List Byte) : State :=
  match s.windowCore off with
  | none => s.emit (.writeReply Code.windowRange)
  | some (c, k) =>
    if pageBytes < off % pageBytes + b.length then s.emit (.writeReply Code.windowRange)
    else (s.localWrite c k (off % pageBytes) b.length b (2 ^ b.length - 1)).emit (.writeReply Code.ok)

/-- COMPANION_WRITE: an ordered write or a release waits for the earlier writes it follows. -/
def execCompanionWrite (window offset : Nat) (order : Ordering) (poisoned : Bool) (b : List Byte) (s : State) :
    Host.Outcome State Fault Refusal :=
  if s.companionMustWait order then .next s
  else
    match window with
    | 0 => if s.debugOpen offset then .refused .debugModule
           else .next ((s.writeReg .companion offset b.length (leNat b)).emit (.writeReply Code.ok))
    | 1 => .next (s.companionStore offset order poisoned b)
    | 2 => .next (s.companionLocalStore offset b)
    | _ => .next (s.emit (.writeReply Code.windowRange))

/-! ### The control core (R183) -/

/-- The control core of cluster c as an issuer: unit 12 of its cluster. -/
def State.controlCore (s : State) (c : Nat) (u : Upset) : Issuer :=
  { c := c, k := 12, q := .s, id := 0, pid := pidField (s.clusterPid c), upset := u, direct := true }

/-- The new value of an AMO of RV64A on `size` bytes: 0 SWAP, 1 ADD, 2 XOR, 3 AND, 4 OR, 5 MIN, 6 MAX, 7 MINU, 8 MAXU. -/
def amoResult (op size old x : Nat) : Nat :=
  let w := 8 * size
  match op with
  | 0 => x
  | 1 => (old + x) % 2 ^ w
  | 2 => old ^^^ x
  | 3 => old &&& x
  | 4 => old ||| x
  | 5 => if signed w x < signed w old then x else old
  | 6 => if signed w old < signed w x then x else old
  | 7 => if x < old then x else old
  | _ => if old < x then x else old

/-- The cache line behind an address of the control core, where it lies in device memory. -/
def lineOf (a : Issuer) (va : Nat) (write : Bool) : VM (Option Nat) := do
  match ← walk a (va / 128 * 128) write with
  | .dram pa => pure (some (pa / 128))
  | _ => pure none

/-- The access of a control core: what it returns. -/
def ccBody (a : Issuer) : CcAccess → VM Nat
  | .load va size => do
    let b ← readBytes a {} va size
    pure (leNat b)
  | .store va size v => do
    writeBytes a {} va (leBytes size v)
    pure ((← get).cluster a.c).ccData
  | .amo op va size x => do
    let _ ← lineOf a va true
    let b ← readBytes a {} va size
    writeBytes a {} va (leBytes size (amoResult op size (leNat b) (x % 2 ^ (8 * size))))
    pure (leNat b)
  | .loadReserved va size => do
    let line ← lineOf a va false
    let b ← readBytes a {} va size
    change fun s => s.modCluster a.c fun x => { x with reservation := line }
    pure (leNat b)
  | .storeConditional va size v => do
    let line ← lineOf a va true
    let s ← get
    change fun s => s.modCluster a.c fun x => { x with reservation := none }
    if line.isSome && (s.cluster a.c).reservation == line then
      writeBytes a {} va (leBytes size v)
      pure 0
    else pure 1
  | .fence full => do
    let s ← get
    let sent := (s.cluster a.c).ccSent
    if full then
      match s.sentFailed sent with
      | some (i, st) =>
        change fun s => s.modCluster a.c fun x => { x with ccSent := x.ccSent.drop i }
        fail st
      | none => if !(s.sentDone sent) then throw .wait
    pure (s.cluster a.c).ccData
  | .loadRegister off size => modifyGet fun s => s.readReg (.controlCore a.c) (0x800000 + a.c * 0x20000 + off % 0x20000) size

/-- A word with an uncorrectable error that an access of a control core meets through a local-store window. -/
def State.ccUpset (s : State) (a : Issuer) (va : Nat) : State :=
  match a.upset.localStore, (s.translate a.station a.pid (va / 128 * 128) false).1 with
  | some w, .ok (.window c k _) => s.badWord c k w
  | _, _ => s

/-- The address of an access. -/
def ccAddress : CcAccess → Nat
  | .load va _ => va
  | .store va _ _ => va
  | .amo _ va _ _ => va
  | .loadReserved va _ => va
  | .storeConditional va _ _ => va
  | .fence _ => 0
  | .loadRegister _ _ => 0

/-- CONTROL_CORE_ACCESS -/
def execControlCoreAccess (c : Nat) (x : CcAccess) (u : Upset) (s : State) : Host.Outcome State Fault Refusal :=
  .next <|
    let a := s.controlCore c u
    match (ccBody a x).run ((s.strike u).ccUpset a (ccAddress x)) with
    | (.ok v, t) => t.modCluster c fun y => { y with ccData := v }
    | (.error .wait, t) => t
    | (.error (.fault st), t) => t.modCluster c fun y => { y with ccFault := some st }

end Sys2Proof.Machine
end

