-- ==== Sys2Proof/Machine/Matrix.lean ====
section
/-!
DEFINITION. The matrix engine: MMA, MDRAIN and MZERO (R116 to R130, R134, R135).
-/

namespace Sys2Proof.Machine

/-! ### Operands (R129, R130) -/

/-- The padded extent of a matrix operand's dimension; the slot of a port has one place along its slot dimension. -/
def Tensor.mext (t : Tensor) (d : Nat) : Nat := if d < t.rank then t.view.noun.padded d else 1

/-- The index of padded coordinates of a matrix operand; a port's slot takes its tail later. -/
def Tensor.mindex (t : Tensor) (i0 i1 : Nat) : List Int :=
  let x0 : Int := (i0 : Int) - t.view.noun.lo 0
  if t.rank < 2 then [x0] else [x0, (i1 : Int) - t.view.noun.lo 1]

/-- The format pairs of R119: accumulator kind, 4-bit class, and whether scale nouns are required. -/
def mmaClass (fa fb : Nat) : Option (AccKind × Bool × Bool) :=
  let fp8 (f : Nat) : Bool := f == fmtE4M3 || f == fmtE5M2
  let int (f : Nat) : Bool := f == fmtINT8 || f == fmtINT4
  if fp8 fa && fp8 fb then some (.fp32, false, false)
  else if fmtIsMx fa && fmtIsMx fb then some (.fp32, fa == 7 && fb == 7, true)
  else if int fa && int fb then some (.int32, fa == fmtINT4 && fb == fmtINT4, false)
  else if fa == fb && (fa == fmtBF16 || fa == fmtFP16 || fa == fmtFP32) then some (.fp32, false, false)
  else if fa == fmtFP64 && fb == fmtFP64 then some (.fp64, false, false)
  else none

/-- kb of R118. -/
def kBlock (array4 : Bool) (array : Bool) : Nat := (if array then 16 else 32) * (if array4 then 2 else 1)

/-- A scale noun of R129, R151 and R159: E8M0, SPACE 1, LAYOUT 0, the operand's shape with K divided by 32. -/
def scaleOk (t : View) (k other : Nat) (kFirst : Bool) : Bool :=
  let n := t.noun
  n.format == fmtE8M0 && n.space == 1 && n.layout == 0 && n.rank == 2 && k % 32 == 0
    && n.ext 0 == (if kFirst then k / 32 else other) && n.ext 1 == (if kFirst then other else k / 32)

/-- An operand of an MMA as loaded: its value at place k along K and place r along the other dimension. -/
structure Loaded where
  k : Nat
  other : Nat
  fmt : Nat
  raws : Array Nat
  scales : Array Nat
  mx : Bool
  /-- positions that are padding -/
  pads : Array Bool

/-- The raw element. -/
def Loaded.raw (l : Loaded) (k r : Nat) : Nat := l.raws.getD (r * l.k + k) 0

/-- The value of an element, scaled where it is an MX element (R121); padding reads its pad value whatever the scale (R160). -/
def Loaded.value (l : Loaded) (k r : Nat) : Num :=
  let v := valueOf l.fmt (l.raw k r)
  if l.mx && !(l.pads.getD (r * l.k + k) false) then v.mul (valueOf fmtE8M0 (l.scales.getD (r * (l.k / 32) + k / 32) 0)) else v

/-- The value of an integer element. -/
def Loaded.int (l : Loaded) (k r : Nat) : Int := signed (fmtBits l.fmt) (l.raw k r)

/-- An operand loaded: `kFirst` where K is dimension 0. -/
def load (x : Ctx) (t : Tensor) (scale : Option View) (kFirst : Bool) : VM Loaded := do
  let k := if kFirst then t.mext 0 else t.mext 1
  let other := if kFirst then t.mext 1 else t.mext 0
  let places := (List.range other).flatMap fun r => (List.range k).map fun j => (j, r)
  let idx := places.map fun (j, r) => if kFirst then t.mindex j r else t.mindex r j
  let raws ← readTensor x t idx
  let scales ← match scale with
    | none => pure []
    | some v =>
      readElems x.a v v.noun.path ((List.range other).flatMap fun (r : Nat) => (List.range (k / 32)).map fun (j : Nat) =>
        if kFirst then [Int.ofNat j, Int.ofNat r] else [Int.ofNat r, Int.ofNat j])
  pure { k := k, other := other, fmt := t.fmt, raws := raws.toArray, scales := scales.toArray, mx := scale.isSome,
         pads := (idx.map fun i => t.view.noun.isPad (i ++ t.tail)).toArray }

/-! ### Accumulation (R120, R124 to R126) -/

/-- Partial sums in a position. -/
def partsOf : AccKind → Nat
  | .fp64 => 4
  | _ => 8

/-- The format of a kind's partial sums. -/
def accFormat : AccKind → Nat
  | .fp64 => fmtFP64
  | .int32 => fmtINT32
  | _ => fmtFP32

/-- What one output position receives, contribution by contribution (R120): the group sums rounded to FP32, or the
products. -/
def contributions (a b : Loaded) (m n kb : Nat) : List Num :=
  let product (k : Nat) : Num := (a.value k m).mul (b.value k n)
  if a.fmt = fmtFP32 || a.fmt = fmtFP64 then (List.range a.k).map product
  else (List.range (ceilDiv a.k kb)).map fun g =>
    roundTo fmtFP32 (Num.sum ((List.range (min kb (a.k - g * kb))).map fun j => product (g * kb + j)))

/-- Contributions are added to partial sums, in an order and with a choice of partial sum that the manual leaves open
(R124, R128). -/
def State.addParts (kind : AccKind) : List Num → List Nat → State → List Nat × State
  | [], parts, s => (parts, s)
  | c :: r, parts, s =>
    let (i, s) := s.drawBelow (partsOf kind)
    let sum := (roundInto (accFormat kind) .ne ((valueOf (accFormat kind) (parts.getD i 0)).add c)).raw
    State.addParts kind r (parts.set i sum) s

/-- The same for INT32, modulo 2^32, and whether a partial sum has passed its range (R120, R135). -/
def State.addInts : List Int → List Nat → Bool → State → (List Nat × Bool) × State
  | [], parts, w, s => ((parts, w), s)
  | c :: r, parts, w, s =>
    let (i, s) := s.drawBelow 8
    let sum := signed 32 (parts.getD i 0) + c
    State.addInts r (parts.set i (unsigned 32 sum)) (w || decide (sum < -(2 ^ 31)) || decide (2 ^ 31 ≤ sum)) s

/-- The bank and the position of an output element (R125). -/
def placeOf (first nBlocks m n : Nat) : Nat × Nat :=
  (first + m / 32 * nBlocks + n / 32, 32 * (m % 32) + n % 32)

/-- One output element of an MMA. -/
def State.accumulate (s : State) (c k : Nat) (kind : AccKind) (a b : Loaded) (kb first nBlocks m n : Nat) : State :=
  let (bank, pos) := placeOf first nBlocks m n
  let old := ((s.core c k).banks.look {} bank).positions.look (List.replicate (partsOf kind) 0) pos
  let put (s : State) (parts : List Nat) (w : Bool) : State := s.modCore c k fun x =>
    { x with banks := x.banks.upd {} bank fun y =>
        { y with positions := y.positions.put pos parts, wrapped := y.wrapped || w } }
  if kind = .int32 then
    let ps := (List.range a.k).map fun j => a.int j m * b.int j n
    let (ps, s) := State.shuffle ps.length ps s
    let ((parts, w), s) := State.addInts ps old false s
    put s parts w
  else
    let ps := contributions a b m n kb
    let (ps, s) := State.shuffle ps.length ps s
    let (parts, s) := State.addParts kind ps old s
    put s parts false

/-- A noun an MMA may load: RANK 2, SPACE 1, LAYOUT 3 or 4 (R130). -/
def loadable (n : Noun) : Bool := n.rank == 2 && n.space == 1 && (n.layout == 3 || n.layout == 4)

/-- The row of R91 of MMA. -/
def mmaForm : Form :=
  { dst := kAcc, srca := kNoun + kPort, srcb := kNoun + kPort, mode := 0x0F, ext := .scales }

/-- A scale operand, where one is named. -/
def useScale (x : Ctx) (field : Nat) : VM (Option View) :=
  match parseOperand field with
  | .noun h => do
    let v ← useNoun x h 0 {}
    pure (some v)
  | _ => pure none

/-- The scale noun an operand must have, or must not have (R130). -/
def scaleFits (t : Tensor) (sc : Option View) (kFirst : Bool) : Bool :=
  match fmtIsMx t.fmt, sc with
  | false, none => true
  | true, some v => scaleOk v (if kFirst then t.mext 0 else t.mext 1) (if kFirst then t.mext 1 else t.mext 0) kFirst
  | _, _ => false

/-- The verbs ahead of the issuer in the M queue that have not finished their work. -/
def State.aheadOf (s : State) (a : Issuer) : List QEntry :=
  (((s.core a.c a.k).queues.get a.q).takeWhile (·.id != a.id)).filter (·.phase != .done)

/-- The kind of a bank as the core tracks it in queue order at decode: NONE behind an MDRAIN in flight that clears the bank, unless
an MMA into it stands between (R126). -/
def State.bankKind (s : State) (a : Issuer) (i : Nat) : AccKind :=
  let uses (field : Nat) : Bool := (banksOf field).contains i
  let last := (s.aheadOf a).reverse.find? fun e =>
    e.taken == 1 && ((e.verb.opcode == 0x08 && uses e.verb.dst) || (e.verb.opcode == 0x09 && bit e.verb.mode 2 && uses e.verb.srca))
  match last with
  | some e => if e.verb.opcode = 0x09 then .none else ((s.core a.c a.k).banks.look {} i).kind
  | none => ((s.core a.c a.k).banks.look {} i).kind

/-- An MMA waits for those ahead of it into the same banks: they are applied in queue order (R86, R132). -/
def awaitBanks (x : Ctx) (banks : List Nat) : VM Unit := do
  if ((← get).aheadOf x.a).any fun e => e.mmaInFlight && banks.any fun b => (banksOf e.verb.dst).contains b then throw .wait

/-- A port operand's head slot has arrived (R92). -/
def awaitSlot (x : Ctx) (t : Tensor) : VM Unit := do
  match t.port with
  | some n => if ((← x.core).port n).arrived = 0 then throw .wait
  | none => pure ()

/-- MMA -/
def mmaBody (x : Ctx) : VM Bool := do
  require (mmaForm.ok x.a.q x.v)
  let acc := bit x.v.mode 1
  let ta := bit x.v.mode 2
  let tb := bit x.v.mode 3
  let a ← given (← useSource x x.v.srca x.v.offsA {})
  let b ← given (← useSource x x.v.srcb x.v.offsB {})
  let xa ← useScale x x.v.xa
  let xb ← useScale x x.v.xb
  let s ← get
  if (a.fmt = fmtFP64 || b.fmt = fmtFP64) && !s.fuses.fp64 then fail Code.formatNotInGrade
  let (kind, four, _) ← given (mmaClass a.fmt b.fmt)
  -- A holds K in dimension 0 unless TA; B holds K in dimension 1 unless TB
  let m := a.mext (if ta then 0 else 1)
  let n := b.mext (if tb then 1 else 0)
  let nBlocks := ceilDiv n 32
  let banks := banksOf x.v.dst
  require (loadable a.view.noun && loadable b.view.noun
    && a.mext (if ta then 1 else 0) == b.mext (if tb then 0 else 1)
    && scaleFits a xa (!ta) && scaleFits b xb tb
    && banks.length == ceilDiv m 32 * nBlocks
    && (!acc || banks.all fun i => s.bankKind x.a i == kind))
  decoded x
  awaitSlot x a
  awaitSlot x b
  awaitBanks x banks
  if !acc then change fun s => s.setBanks x.a.c x.a.k banks kind
  if x.a.upset.accumulator then
    change fun s => ((s.scramble x.a.c x.a.k banks).sramError x.a.c x.a.k 1).noteSram x.a.c x.a.k
    fail Code.ueSram
  let loads : VM (Loaded × Loaded) := do
    let la ← load x a xa (!ta)
    let lb ← load x b xb tb
    pure (la, lb)
  let (la, lb) ← tryCatch loads fun h => do
    match h with
    | .wait => pure ()
    | .fault _ => change fun s => s.scramble x.a.c x.a.k banks
    throw h
  for i in List.range m do
    for j in List.range n do
      change fun s => s.accumulate x.a.c x.a.k kind la lb (kBlock four (bit x.v.mode 0)) (banks.headD 0) nBlocks i j
  pure true

/-- MMA -/
def execMma (c k : Nat) (u : Upset) (s : State) : Host.Outcome State Fault Refusal :=
  .next (s.issue c k .m 0x08 u mmaBody)

/-! ### MDRAIN and MZERO (R126, R127, R133) -/

/-- The DST formats a bank kind drains to. -/
def drainOk (kind : AccKind) (fmt rounding : Nat) : Bool :=
  match kind with
  | .fp32 => [fmtFP32, fmtBF16, fmtFP16, fmtE5M2, fmtE4M3].contains fmt
  | .fp64 => [fmtFP64, fmtFP32].contains fmt
  | .int32 => fmt == fmtINT32 && rounding == 0
  | .none => false

/-- LAST_KIND of a kind. -/
def kindNum : AccKind → Nat
  | .none => 0
  | .fp32 => 1
  | .int32 => 2
  | .fp64 => 3

/-- A position drained into a format: its partial sums summed exactly and rounded once, and whether an integer sum has
passed its range. -/
def drainPosition (kind : AccKind) (parts : List Nat) (fmt : Nat) (rnd : Rnd) : Rounded × Bool :=
  if kind = .int32 then
    let sum := parts.foldl (fun (a : Int) p => a + signed 32 p) 0
    (⟨unsigned 32 sum, false⟩, decide (sum < -(2 ^ 31)) || decide (2 ^ 31 ≤ sum))
  else (roundInto fmt rnd (Num.sum (parts.map (valueOf (accFormat kind)))), false)

/-- The row of R91 of MDRAIN. -/
def mdrainForm : Form := { dst := kNoun + kPort, srca := kAcc, mode := 7 }

/-- The partial sums MDRAIN reads: while an MMA into the bank is in flight, the position as it stands at some moment, a
free value (R134). -/
def State.readPosition (s : State) (c k bank pos : Nat) : List Nat × State :=
  let x := s.core c k
  let b := x.banks.look {} bank
  if x.queues.m.any fun e => e.mmaInFlight && (banksOf e.verb.dst).contains bank then
    let (v, s) := s.draw
    let w := 256 / partsOf b.kind
    ((List.range (partsOf b.kind)).map fun j => bits v (w * j) w, s)
  else (b.positions.look [] pos, s)

/-- Positions drained one after another. -/
def State.drainAll (c k : Nat) (kind : AccKind) (fmt : Nat) (rnd : Rnd) :
    List (Nat × Nat) → State → List (Rounded × Bool) × State
  | [], s => ([], s)
  | (bank, pos) :: r, s =>
    let (parts, s) := s.readPosition c k bank pos
    let (rest, s) := State.drainAll c k kind fmt rnd r s
    (drainPosition kind parts fmt rnd :: rest, s)

/-- MDRAIN. CLEAR takes effect once every line has been written (R127, R134). -/
def mdrainBody (x : Ctx) : VM Bool := do
  let rounding := bits x.v.mode 0 2
  require (mdrainForm.ok x.a.q x.v && rounding != 3)
  let d ← given (← useDest x x.v.dst x.v.offsDst {})
  let banks := banksOf x.v.srca
  let s ← get
  let kind := s.bankKind x.a (banks.headD 0)
  let n := d.view.noun.ext 0
  let m := d.view.noun.ext 1
  let nBlocks := ceilDiv n 32
  require (d.view.noun.rank == 2 && d.view.noun.layout != 4 && banks.length == ceilDiv m 32 * nBlocks
    && (banks.all fun i => s.bankKind x.a i == kind) && drainOk kind d.fmt rounding)
  decoded x
  if x.a.upset.accumulator then
    change fun s => ((s.scramble x.a.c x.a.k banks).sramError x.a.c x.a.k 1).noteSram x.a.c x.a.k
    fail Code.ueSram
  let rnd : Rnd := if rounding = 0 then .ne else if rounding = 1 then .tz else .sat
  let places := (List.range m).flatMap fun i => (List.range n).map fun j => (j, i)
  let out ← modifyGet fun s =>
    s.drainAll x.a.c x.a.k kind d.fmt rnd (places.map fun (j, i) => placeOf (banks.headD 0) nBlocks i j)
  writeTensor x d ((places.zip out).map fun ((j, i), r) => ([Int.ofNat j, Int.ofNat i], r.1.raw)) true
  change fun s => s.modCore x.a.c x.a.k fun y =>
    let wrapped := (out.any (·.2)) || banks.any fun i => (y.banks.look {} i).wrapped
    { y with stat := y.stat.noteDrain d.fmt (out.map (·.1)) rounding (kindNum kind) wrapped }
  if bit x.v.mode 2 then change fun s => s.modEntry x.a fun e => { e with clear := banks }
  pure true

/-- MDRAIN -/
def execMdrain (c k : Nat) (u : Upset) (s : State) : Host.Outcome State Fault Refusal :=
  .next (s.issue c k .m 0x09 u mdrainBody)

/-- MZERO -/
def mzeroBody (x : Ctx) : VM Bool := do
  require (({ dst := kAcc, ext := .no } : Form).ok x.a.q x.v)
  decoded x
  change fun s => s.setBanks x.a.c x.a.k (banksOf x.v.dst) .none
  pure true

/-- MZERO -/
def execMzero (c k : Nat) (u : Upset) (s : State) : Host.Outcome State Fault Refusal :=
  .next (s.issue c k .m 0x0A u mzeroBody)

end Sys2Proof.Machine
end

