-- ==== Sys2Proof/Machine/Packets.lean ====
section
/-!
DEFINITION. What a fabric port does with received frames and packets: the drop rules, hello, sequence and acknowledgement, the
requests of a memory flow, tiles and credits of a stream flow, and remote management (R188, R359, R362 to R374).
-/

namespace Sys2Proof.Machine

/-! ### Frames (R359, R363 to R365) -/

/-- Why a frame is dropped: the field of FAB_DROP that counts it. -/
inductive Drop where
  | addr
  | ctrl
  | badHdr
  | fcs
  deriving DecidableEq, Repr

/-- The frame's Ethernet and IPv6 parts; CARRIAGE as the image sets it. -/
def FabPort.dropFrame (x : FabPort) (carriage : Nat) (m : Frame) : Option Drop :=
  if !m.fcsOk then some .fcs
  else if m.etype = 0x8808 || m.dmac / 16 = 0x0180C200000 then some .ctrl
  else if m.dmac != x.mac then some .addr
  else if 1 < m.tags || m.bytes < 64 || 9216 < m.bytes then some .badHdr
  else if m.etype != x.etype && m.etype != 0x86DD then some .ctrl
  else if carriage = 0 then if m.etype = x.etype then none else some .badHdr
  else if m.etype != 0x86DD then some .badHdr
  else if m.ipDst != x.ip then some .addr
  else if m.ipExtension || m.ipFragment || !m.udpChecksumOk || m.udpPort != x.udp then some .badHdr
  else none

/-- LEN and OP of a packet are those of its type (R365, R366); `most` is the payload the flow holds. -/
def packetSound (p : Packet) (most : Nat) : Bool :=
  let n := p.payload.length
  p.ver == 1 && p.reserved == 0 && (if p.typ = 3 then n == 0 && decide (p.len ≤ most) else n == p.len)
    && (match p.typ with
      | 0 => n == 32 && p.op == 0
      | 1 => n == 32 && p.op == 0
      | 2 => decide (n ≤ most) && p.op == 0
      | 3 => p.op == 0
      | 4 => decide (n ≤ most) && p.op == 0
      | 5 => n == 8 && decide (p.op % 16 ≤ 8) && decide (p.op < 32)
      | 6 => n == 4 && p.op == 0
      | 7 => n == 0 && p.op == 0
      | 8 => n == 0 && decide (p.op ≤ 1)
      | 9 => decide (n ≤ most) && p.op == 0
      | 10 => n == 0
      | 11 => n == 8 && decide (p.op ≤ 1)
      | 12 => n == 8 && p.op == 0
      | _ => false)

/-- A packet of this type may travel on a flow of this KIND (R368, R369). -/
def kindFits (stream : Bool) (typ : Nat) : Bool :=
  if typ ≤ 1 || typ = 7 || typ = 8 || typ = 11 || typ = 12 then true else stream == (typ == 9 || typ == 10)

/-- The flow a packet names takes it: open, or in its hello for a HELLO; the peer's flow is that of its entry. -/
def State.flowTakes (s : State) (f : Nat) (p : Packet) : Bool :=
  let fl := s.flow f p.dflow
  decide (p.dflow < 1024) && (fl.state == .open_ || (fl.state == .hello && decide (p.typ ≤ 1))) && p.sflow == fl.rflow
    && kindFits fl.stream p.typ && packetSound p (payloadBytes fl.payload)

/-- A dropped frame is counted. -/
def FabPort.countDrop (x : FabPort) : Drop → FabPort
  | .addr => { x with dropAddr := (x.dropAddr + 1) % 2 ^ 16 }
  | .ctrl => { x with dropCtrl := (x.dropCtrl + 1) % 2 ^ 16 }
  | .badHdr => { x with dropHdr := (x.dropHdr + 1) % 2 ^ 16 }
  | .fcs => { x with dropFcs := (x.dropFcs + 1) % 2 ^ 16 }

/-- What the FEC of a port's PCS has corrected and could not correct since the last frame: the manual counts codewords of the line, which
no command brings, so that the counts rise by free values (R375; log entry 48). -/
def State.fecRise (s : State) (f : Nat) : State :=
  let (a, s) := s.draw
  let (b, s) := s.draw
  s.modPort f fun x =>
    { x with fecCorrected := (x.fecCorrected + a) % 2 ^ 32, fecUncorrected := (x.fecUncorrected + b) % 2 ^ 32 }

/-- FRAME_RECEIVE: the frame is dropped and counted, or its packet passed to its flow. A CE mark exists with CARRIAGE 1 only. -/
def execFrameReceive (f : Nat) (m : Frame) (s : State) : Host.Outcome State Fault Refusal :=
  .next <|
    if (s.port f).state != .up then s
    else
      let s := (s.fecRise f).modPort f fun x => { x with bytesIn := (x.bytesIn + m.bytes) % 2 ^ 64 }
      let carriage := (s.fabRec f).carriage
      match (s.port f).dropFrame carriage m with
      | some d => s.modPort f fun x => x.countDrop d
      | none =>
        if s.flowTakes f m.packet then
          s.modPort f fun x => { x with rx := x.rx ++ [{ m.packet with ce := m.packet.ce && carriage == 1 }] }
        else s.modPort f fun x => x.countDrop .badHdr

/-! ### What every packet carries (R371, R372) -/

/-- Packets of the window that RECV_PSN covers. -/
def covers (recv : Nat) (w : Packet × Nat) : Bool := !(psnReached w.1.psn recv)

/-- RECV_PSN of a packet covers what it acknowledges; CWND grows by one for each whole CWND covered. -/
def Flow.coverRecv (fl : Flow) (recv : Nat) : Flow :=
  if psnReached recv fl.peerRecv && psnReached fl.sendPsn recv then
    let n := (fl.window.filter (covers recv)).length
    let got := fl.covered + n
    { fl with peerRecv := recv, window := fl.window.filter fun w => !(covers recv w),
              cwnd := if got ≥ fl.cwnd then min 256 (fl.cwnd + 1) else fl.cwnd,
              covered := if got ≥ fl.cwnd then got - fl.cwnd else got }
  else fl

/-- A write or a tile packet that DONE_PSN covers. -/
def Waiter.doneBy (w : Waiter) (done : Nat) : Bool := w.writer == .device && !(psnReached w.psn done)

/-- DONE_PSN of a packet: writes are done, and tiles whose last packet it covers have been taken. -/
def State.coverDone (s : State) (f n done : Nat) : State :=
  let fl := s.flow f n
  if psnReached done fl.peerDone && psnReached fl.sendPsn done then
    let mine := fl.waiters.filter fun w => w.doneBy done
    let s := s.modFlow f n fun fl => { fl with peerDone := done, waiters := fl.waiters.filter fun w => !(w.doneBy done) }
    if fl.stream then (mine.filter fun w => decide (0x10000 ≤ w.key)).foldl (fun s w => s.ackTile (w.key % 0x10000)) s else s
  else s

/-- The receive state a packet of the peer carries takes effect, and what waited for the window leaves. -/
def State.cover (s : State) (f n : Nat) (p : Packet) : State :=
  let s := (s.modFlow f n fun fl => { fl.coverRecv p.recvPsn with ceEcho := fl.ceEcho || (p.ce && bit fl.feat 2) }).coverDone f n p.donePsn
  State.flowPump f n (s.flow f n).queue s

/-- The next received packet of a port, where it is of a type; it leaves the port. -/
def State.takePacket (s : State) (f typ : Nat) : Option (Packet × State) :=
  match (s.port f).rx with
  | [] => none
  | p :: r => if p.typ = typ then some (p, s.modPort f fun x => { x with rx := r }) else none

/-- A packet command: the next packet of its type, with the receive state it carries, goes to `act` with its flow's number; one
whose flow has left the state it arrived in is lost. -/
def State.onPacket (s : State) (f typ : Nat) (act : Nat → Packet → State → State) : State :=
  match s.takePacket f typ with
  | none => s
  | some (p, t) => if (s.flow f p.dflow).state = .open_ then act p.dflow p (t.cover f p.dflow p) else t

/-! ### Acknowledgements (R370) -/

/-- An ACK is sent. -/
def State.sendAck (s : State) (f n : Nat) : State :=
  (s.flowEmit f n { typ := 7 }).modFlow f n fun fl => { fl with unacked := 0, ceEcho := false }

/-- An ACK is due after sixteen packets. -/
def State.ackDue (s : State) (f n : Nat) : State := if (s.flow f n).unacked ≥ 16 then s.sendAck f n else s

/-- A NAK names a request's PSN with the status it failed with. -/
def State.sendNak (s : State) (f n psn : Nat) (st : Status) : State := s.flowEmit f n { typ := 8, psn := psn, status := st }

/-- A packet beyond E is dropped; one NAK with SEQ_GAP for each gap. -/
def State.seqGap (s : State) (f n : Nat) : State :=
  if (s.flow f n).gapNaked then s
  else (s.flowEmit f n { typ := 8, op := 1, psn := (s.flow f n).expect }).modFlow f n fun fl => { fl with gapNaked := true }

/-- A packet with the PSN expected is accepted. -/
def Flow.accept (fl : Flow) : Flow :=
  { fl with expect := (fl.expect + 1) % 2 ^ 32, unacked := fl.unacked + 1, gapNaked := false }

/-- A sequenced packet by its PSN: accepted, beyond a gap, or a repeat. -/
def State.sequence (s : State) (f n : Nat) (p : Packet) (accept repeat_ : State → State) : State :=
  let e := (s.flow f n).expect
  if p.psn = e then (accept (s.modFlow f n fun fl => fl.accept)).ackDue f n
  else if psnReached p.psn e then s.seqGap f n
  else repeat_ s

/-! ### The requests of a memory flow (R188, R368, R371) -/

/-- Where an incoming access goes. -/
inductive Incoming where
  | dram (pa : Nat)
  | window (c k off : Nat)
  deriving DecidableEq, Repr

/-- The translation of an incoming access in its flow's partition: a leaf of TARGET 1 or 2 is refused. -/
def incoming (src pid va : Nat) (write : Bool) : VM Incoming := do
  let r ← modifyGet fun s => s.translate src pid va write
  match r with
  | .ok (.dram pa) => do
    awaitStack pa
    pure (.dram pa)
  | .ok (.window c k off) => pure (.window c k off)
  | .ok _ => fail Code.transPerm
  | .error halt => throw halt

/-- The places of the 64-byte lines of a range. -/
def incomingLines (src pid : Nat) (write : Bool) : List Nat → VM (List (Nat × Incoming))
  | [] => pure []
  | l :: r => do
    let x ← incoming src pid (64 * l) write
    let t ← incomingLines src pid write r
    pure ((l, x) :: t)

/-- The flow's station, which its incoming accesses carry. -/
def flowStation (f n : Nat) : Nat := 0x8000 + f * 1024 + n

/-- A write of the bytes of one line. -/
def State.incomingWrite (s : State) (f n : Nat) (p : Packet) (l : Nat) (x : Incoming) : State :=
  let o := writeOfLine p.addr p.payload l p.psn false
  match x with
  | .dram pa => s.submit { o with writer := .peer f n, line := pa / 64 }
  | .window c k off => s.localWrite c k off 64 o.bytes o.mask

/-- One line read for a peer. -/
def incomingRead (src : Nat) (x : Incoming) : VM (List Byte) := do
  match x with
  | .dram pa =>
    match ← modifyGet fun s => s.readLine src 0 (pa / 64) with
    | .data b => pure b
    | .fault st => fail st
    | .wait => throw .wait
  | .window c k off =>
    let y := (← get).core c k
    if y.lsBad.any fun w => decide (w < off + 64) && decide (off < w + 8) then fail Code.ueSram
    else pure (Memory.readList y.localStore off 64)

/-- The lines of a read, joined. -/
def incomingReads (src : Nat) : List (Nat × Incoming) → VM (List Byte)
  | [] => pure []
  | (_, x) :: r => do
    let b ← incomingRead src x
    let t ← incomingReads src r
    pure (b ++ t)

/-- A READ_REQ is performed and answered, and a failing one draws a NAK: whether that has happened; if not, an access waits. -/
def State.performRead (s : State) (f n : Nat) (p : Packet) : Bool × State :=
  let src := flowStation f n
  let body : VM (List Byte) := do
    let places ← incomingLines src (s.flow f n).pid false (lineRange p.addr p.len)
    incomingReads src places
  match body.run s with
  | (.ok b, s) =>
    let b := slice b (p.addr % 64) p.len
    (true, s.flowEmit f n { typ := 4, psn := p.psn, len := p.len, payload := b, last := true })
  | (.error .wait, s) => (false, s)
  | (.error (.fault st), s) => (true, s.sendNak f n p.psn st)

/-- What an ATOMIC packet asks for. -/
def atomicOf (p : Packet) : AtomicOp := ⟨p.op, leAt p.payload 0 4, leAt p.payload 4 4⟩

/-- A write or an atomic goes to its base dies, or to a local store; the old value where it is at hand. -/
def beginBody (f n : Nat) (p : Packet) : VM (Option Nat) := do
  let pid := ((← get).flow f n).pid
  let src := flowStation f n
  if p.typ = 5 then
    let o := atomicOf p
    if p.addr % 4 != 0 then fail Code.verbInvalid
    match ← incoming src pid p.addr true with
    | .dram pa =>
      change fun s => s.submit { writer := .peer f n, line := pa / 64, atomic := some (o.code, pa % 64, o.x, o.cmp), tag := p.psn }
      pure none
    | .window c k off =>
      let y := (← get).core c k
      if y.lsBad.any fun w => decide (w < off + 4) && decide (off < w + 8) then fail Code.ueSram
      let old := leNat (Memory.readList y.localStore off 4)
      change fun s => s.localWrite c k off 4 (leBytes 4 (atomicResult o.code old o.x o.cmp)) 0xF
      pure (some old)
  else
    let places ← incomingLines src pid true (lineRange p.addr p.payload.length)
    for (l, x) in places do
      change fun s => s.incomingWrite f n p l x
    pure none

/-- Something of a request still waits at a base die. -/
def State.requestWaits (s : State) (f n psn : Nat) : Bool := s.waitingWrites.any fun o => o.writer == .peer f n && o.tag == psn

/-- What the base dies have answered to a request. -/
def State.requestAnswers (s : State) (f n psn : Nat) : List (Status × Nat) :=
  (s.answers.filter fun (w, t, _, _) => w == .peer f n && t == psn).map fun (_, _, st, old) => (st, old)

/-- Those answers are taken up. -/
def State.dropAnswers (s : State) (f n psn : Nat) : State :=
  { s with answers := s.answers.filter fun (w, t, _, _) => !(w == .peer f n && t == psn) }

/-- The result of an atomic is kept and sent (R370). -/
def State.atomicDone (s : State) (f n psn old : Nat) : State :=
  let s := s.modFlow f n fun fl =>
    let all := fl.atomics ++ [(psn, old)]
    { fl with atomics := all.drop (all.length - 64) }
  s.flowEmit f n { typ := 6, psn := psn, len := 4, payload := leBytes 4 old, last := true }

/-- A request whose writes have all been answered: a NAK, the old value of an atomic, or nothing. -/
def State.finishRequest (s : State) (f n : Nat) (p : Packet) (old : Option Nat) : State :=
  let rs := s.requestAnswers f n p.psn
  let s := s.dropAnswers f n p.psn
  match rs.find? fun r => r.1 != Code.ok with
  | some r => s.sendNak f n p.psn r.1
  | none =>
    if p.typ != 5 then s
    else
      match old, rs with
      | some v, _ => s.atomicDone f n p.psn v
      | none, r :: _ => s.atomicDone f n p.psn r.2
      | none, [] => s

/-! ### Remote management (R374) -/

/-- The answer to a MGMT packet. -/
def State.mgmtAnswer (s : State) (f n psn : Nat) (st : Status) (v : Nat) : State :=
  s.flowEmit f n { typ := 12, psn := psn, status := st, len := 8, payload := leBytes 8 v, last := true }

/-- A refused MGMT packet changes nothing but its count. -/
def State.mgmtRefuse (s : State) (f n psn : Nat) : State :=
  (s.modPort f fun x => { x with rmRefused := (x.rmRefused + 1) % 2 ^ 32 }).mgmtAnswer f n psn Code.mgmtRefused 0

/-- A MGMT packet that is performed is counted. -/
def State.mgmtCount (s : State) (f : Nat) : State := s.modPort f fun x => { x with rmAccepted := (x.rmAccepted + 1) % 2 ^ 32 }

/-- The image, the entry and the hello all allow MGMT packets on a flow. -/
def State.mgmtAllowed (s : State) (f n : Nat) : Bool :=
  (match s.gram.image with
    | none => false
    | some i => i.remoteMgmt) && (s.flow f n).mgmt && bit (s.flow f n).feat 3

/-- A MGMT packet: a read of the MGMT, PWR and THM blocks, a limit order, or a phase command; an order of a decision window is
answered at its end. -/
def State.performMgmt (s : State) (f n : Nat) (p : Packet) : State :=
  let v := leNat p.payload
  if !(s.mgmtAllowed f n) then s.mgmtRefuse f n p.psn
  else if p.op = 0 then
    match bmcReads p.addr, s.regAt (.peer f n) p.addr with
    | true, .reg _ x => (s.mgmtCount f).mgmtAnswer f n p.psn Code.ok x
    | _, _ => s.mgmtRefuse f n p.psn
  else if p.addr = 0x20010 then
    let s := (s.mgmtCount f).limitOrder (.peer f n) (v % 4096)
    s.mgmtAnswer f n p.psn s.pwr.lastCmd v
  else if p.addr = 0x60004 then (s.mgmtCount f).phaseCommand (.peer f n) (some p.psn) (v % 8)
  else s.mgmtRefuse f n p.psn

/-! ### Requests in order (R371) -/

/-- The head request is done: DONE_PSN covers it. -/
def State.requestDone (s : State) (f n : Nat) (p : Packet) : State :=
  s.modFlow f n fun fl =>
    { fl with requests := fl.requests.drop 1, begun := false, done := (p.psn + 1) % 2 ^ 32, unacked := max fl.unacked 1 }

/-- The head request of a flow, a write or an atomic, begins, or an access of it waits; the old value where it is at hand. -/
def State.beginRequest (s : State) (f n : Nat) (p : Packet) : Option Nat × State :=
  let begun (s : State) : State := s.modFlow f n fun fl => { fl with begun := true }
  match (beginBody f n p).run s with
  | (.ok old, s) => (old, begun s)
  | (.error .wait, s) => (none, s)
  | (.error (.fault st), s) => (none, begun { s with answers := s.answers ++ [(.peer f n, p.psn, st, 0)] })

/-- A request is performed as far as it can be: whether it is done. -/
def State.performRequest (s : State) (f n : Nat) (p : Packet) : Bool × State :=
  match p.typ with
  | 3 => s.performRead f n p
  | 11 => (true, s.performMgmt f n p)
  | _ =>
    let (old, t) := if (s.flow f n).begun then (none, s) else s.beginRequest f n p
    if !(t.flow f n).begun || t.requestWaits f n p.psn then (false, t) else (true, t.finishRequest f n p old)

/-- The requests of a flow are performed in the order of their PSNs, each after every earlier one. -/
def State.runRequests (f n : Nat) : List Packet → State → State
  | [], s => s
  | p :: r, s =>
    match s.performRequest f n p with
    | (true, t) => State.runRequests f n r (t.requestDone f n p)
    | (false, t) => t

/-- The waiting requests of a flow go on. -/
def State.pumpRequests (s : State) (f n : Nat) : State := State.runRequests f n (s.flow f n).requests s

/-- An accepted request joins its flow's, which go on as far as they can. -/
def State.addRequest (s : State) (f n : Nat) (p : Packet) : State :=
  (s.modFlow f n fun fl => { fl with requests := fl.requests ++ [p] }).pumpRequests f n

/-! ### HELLO and HELLO_ACK (R362) -/

/-- What the hello of the peer makes of a flow: the common payload and features with the peer's EPOCH, or a mismatch. -/
def State.agree (s : State) (f n : Nat) (b : List Byte) : Option Flow :=
  let fl := s.flow f n
  let feat := leAt b 7 1 % 16
  if !bit (leAt b 4 2) 0 || (fl.stream && !bit feat 1) then none
  else some { fl with payload := min (s.port f).mtu (leAt b 6 1), feat := feat, peerEpoch := some (leAt b 0 4) }

/-- HELLO_ACK is sent. -/
def State.sendHelloAck (s : State) (f n : Nat) : State := s.flowEmit f n { typ := 1, len := 32, payload := s.helloPayload f n }

/-- A HELLO reaches its flow. -/
def State.helloPacket (s : State) (f n : Nat) (p : Packet) : State :=
  let fl := s.flow f n
  match fl.state with
  | .hello =>
    let t := s.sendHelloAck f n
    match s.agree f n p.payload with
    | none => t.flowError f n Code.helloMismatch
    | some g => t.modFlow f n fun _ => g
  | .open_ =>
    if fl.peerEpoch = some (leAt p.payload 0 4) then s.sendHelloAck f n else s.flowError f n Code.flowFailed
  | _ => s

/-- HELLO -/
def execHello (f : Nat) (s : State) : Host.Outcome State Fault Refusal :=
  .next <|
    match s.takePacket f 0 with
    | none => s
    | some (p, s) => s.helloPacket f p.dflow p

/-- A HELLO_ACK opens its flow in the best common mode: both start at PSN 0. -/
def State.helloAckPacket (s : State) (f n : Nat) (p : Packet) : State :=
  if (s.flow f n).state != .hello then s
  else
    match s.agree f n p.payload with
    | none => s.flowError f n Code.helloMismatch
    | some g => s.modFlow f n fun _ => { g with state := .open_ }

/-- HELLO_ACK -/
def execHelloAck (f : Nat) (s : State) : Host.Outcome State Fault Refusal :=
  .next <|
    match s.takePacket f 1 with
    | none => s
    | some (p, s) => s.helloAckPacket f p.dflow p

/-! ### WRITE, READ_REQ, ATOMIC, MGMT at the receiver -/

/-- WRITE -/
def execWrite (f : Nat) (u : Upset) (s : State) : Host.Outcome State Fault Refusal :=
  .next ((s.strike u).onPacket f 2 fun n p s =>
    s.sequence f n p (fun s => s.addRequest f n p) (fun s => s.sendAck f n))

/-- READ_REQ; a repeat whose first answer has been given is read again. -/
def execReadReq (f : Nat) (u : Upset) (s : State) : Host.Outcome State Fault Refusal :=
  .next ((s.strike u).onPacket f 3 fun n p s =>
    s.sequence f n p (fun s => s.addRequest f n p) fun s =>
      if (s.flow f n).requests.any (·.psn == p.psn) then s else (s.performRead f n p).2)

/-- ATOMIC; a repeat is answered from the cache. -/
def execAtomic (f : Nat) (u : Upset) (s : State) : Host.Outcome State Fault Refusal :=
  .next ((s.strike u).onPacket f 5 fun n p s =>
    s.sequence f n p (fun s => s.addRequest f n p) fun s =>
      match (s.flow f n).atomics.find? fun a => a.1 == p.psn with
      | some a => s.flowEmit f n { typ := 6, psn := p.psn, len := 4, payload := leBytes 4 a.2, last := true }
      | none => s.sendAck f n)

/-- MGMT -/
def execMgmt (f : Nat) (s : State) : Host.Outcome State Fault Refusal :=
  .next (s.onPacket f 11 fun n p s => s.sequence f n p (fun s => s.addRequest f n p) (fun s => s.sendAck f n))

/-! ### Answers at the requester -/

/-- The issuer behind a waiter. -/
def Waiter.issuer (w : Waiter) : Option Issuer :=
  match w.writer with
  | .verb c k q => some { c := c, k := k, q := q, id := w.tag, pid := 0 }
  | _ => none

/-- The waiter with a PSN leaves its flow. -/
def State.takeWaiter (s : State) (f n psn : Nat) : Option Waiter × State :=
  ((s.flow f n).waiters.find? (·.psn == psn),
   s.modFlow f n fun fl => { fl with waiters := fl.waiters.filter (·.psn != psn) })

/-- READ_RESP: the data reaches the verb that asked. -/
def execReadResp (f : Nat) (s : State) : Host.Outcome State Fault Refusal :=
  .next (s.onPacket f 4 fun n p s =>
    let (w, s) := s.takeWaiter f n p.psn
    match w with
    | none => s
    | some w =>
      match w.issuer with
      | some a => s.modEntry a fun e => { e with got := e.got.put w.key (slice p.payload 0 128) }
      | none => s)

/-- ATOMIC_RESP: the old value reaches the verb that asked. -/
def execAtomicResp (f : Nat) (s : State) : Host.Outcome State Fault Refusal :=
  .next (s.onPacket f 6 fun n p s =>
    let (w, s) := s.takeWaiter f n p.psn
    let s := State.flowPump f n (s.flow f n).queue s
    match w with
    | none => s
    | some w =>
      match w.issuer with
      | some a => s.modEntry a fun e => { e with old := some (leAt p.payload 0 4), asked := e.asked.erase w.key }
      | none => s)

/-- CWND halves, once in a window, on an ACK that carries CE_ECHO. -/
def Flow.echo (fl : Flow) (p : Packet) : Flow :=
  if p.ceEcho && psnReached p.recvPsn fl.halvedTo then { fl with cwnd := max 4 (fl.cwnd / 2), halvedTo := fl.sendPsn } else fl

/-- ACK -/
def execAck (f : Nat) (s : State) : Host.Outcome State Fault Refusal :=
  .next (s.onPacket f 7 fun n p s => s.modFlow f n fun fl => fl.echo p)

/-- The packets from the peer's RECV_PSN on are sent again; one resent RETRY times already fails the flow (R372). -/
def State.goBack (s : State) (f n : Nat) : State :=
  let worn := (s.flow f n).window.any fun w => decide ((s.port f).retry ≤ w.2)
  if worn then s.flowError f n Code.flowFailed else s.resend f n

/-- A NAK that names a request: its peer's status reaches whoever made it. -/
def State.remoteFault (s : State) (f n : Nat) (p : Packet) : State :=
  let (w, s) := s.takeWaiter f n p.psn
  let s := s.modFlow f n fun fl => { fl with peerStatus := p.status }
  match w with
  | none => s
  | some w =>
    match w.issuer with
    | some a => s.verbFault a.c a.k a.q a.id 0 Code.remoteFault
    | none =>
      if (s.flow f n).stream then
        let producer := w.key % 0x10000
        (s.modStationPort producer fun q => { q with unacked := q.unacked.filter (· != w.tag) }).producerFault producer w.tag p.status
      else s.event Cls.fab Code.remoteFault (Obs.ofFlow f n) (s.flow f n).pid p.status w.key

/-- NAK: the requests it names by DONE_PSN are told of it before they count as done. -/
def execNak (f : Nat) (s : State) : Host.Outcome State Fault Refusal :=
  .next <|
    match s.takePacket f 8 with
    | none => s
    | some (p, s) =>
      let n := p.dflow
      if (s.flow f n).state != .open_ then s
      else
        let s := s.modPort f fun x => { x with naks := (x.naks + 1) % 2 ^ 32 }
        if p.op = 1 then (s.cover f n p).goBack f n else (s.remoteFault f n p).cover f n p

/-- MGMT_RESP: no party of this device sends MGMT packets, so the answer reaches nobody; the receive state it carries counts. -/
def execMgmtResp (f : Nat) (s : State) : Host.Outcome State Fault Refusal := .next (s.onPacket f 12 fun _ _ s => s)

/-! ### TILE and CREDIT (R369) -/

/-- A whole tile fits the port it arrives at. -/
def State.tileFits (s : State) (consumer source : Nat) (tile : List Byte) : Bool :=
  match station consumer with
  | .core c k n =>
    let p := (s.core c k).port n
    (s.core c k).run == .offline || (p.consumer && p.peer == source && tile.length == p.tileBytes)
  | .unit n ch p =>
    if p = 0 then (s.chan n ch).intakeBound.contains source && tile.length == 128
    else
      let q := (s.chan n ch).ports.look {} p
      q.consumer && q.peer == source && tile.length == q.tileBytes
  | _ => false

/-- A whole tile reaches the local port of its flow: whether it has landed; if not, it waits for a stack. -/
def State.landTile (s : State) (f n : Nat) (tile : List Byte) : Bool × State :=
  let consumer := (s.flow f n).local_
  let source := flowStation f n
  match station consumer with
  | .core c k i => s.coreTile c k i source tile {}
  | .unit m ch i => (true, s.unitTile m ch i source tile)
  | _ => (true, s)

/-- DONE_PSN covers a tile packet or a credit once it has been accepted. -/
def State.streamDone (s : State) (f n psn : Nat) : State := s.modFlow f n fun fl => { fl with done := (psn + 1) % 2 ^ 32 }

/-- The next bytes of a tile; with the last, the tile lands or is turned away with STREAM_MISMATCH: whether it is dealt with. -/
def State.tilePacket (s : State) (f n : Nat) (p : Packet) : Bool × State :=
  let fl := s.flow f n
  let b := (if p.first then [] else fl.tileIn) ++ p.payload
  let size := if p.first then p.addr else fl.tileSize
  if !p.last then (true, s.modFlow f n fun fl => { fl with tileIn := b, tileSize := size })
  else if b.length != size || !(s.tileFits fl.local_ (flowStation f n) b) then
    (true, (s.modFlow f n fun fl => { fl with tileIn := [] }).sendNak f n p.psn Code.streamMismatch)
  else
    let (landed, t) := s.landTile f n b
    (landed, if landed then t.modFlow f n fun fl => { fl with tileIn := [] } else t)

/-- TILE; a packet whose tile waits to land stays at the port. -/
def execTile (f : Nat) (s : State) : Host.Outcome State Fault Refusal :=
  .next (s.onPacket f 9 fun n p t =>
    if p.psn = (t.flow f n).expect then
      let (done, t) := t.tilePacket f n p
      if done then ((t.streamDone f n p.psn).modFlow f n fun fl => fl.accept).ackDue f n
      else t.modPort f fun x => { x with rx := p :: x.rx }
    else t.sequence f n p id fun t => t.sendAck f n)

/-- CREDIT: the credits it returns are granted to the flow's local producer port. -/
def execCredit (f : Nat) (s : State) : Host.Outcome State Fault Refusal :=
  .next (s.onPacket f 10 fun n p s =>
    s.sequence f n p
      (fun s => (List.range p.op).foldl (fun s _ => s.grantCredit (s.flow f n).local_ (flowStation f n)) (s.streamDone f n p.psn))
      fun s => s.sendAck f n)

/-! ### Timers (R370, R372) -/

/-- ACK_TIMER: what a flow holds goes on, and what it has accepted is acknowledged. -/
def execAckTimer (f n : Nat) (s : State) : Host.Outcome State Fault Refusal :=
  .next <|
    if (s.flow f n).state != .open_ then s
    else
      let s := s.pumpRequests f n
      if 0 < (s.flow f n).unacked then s.sendAck f n else s

/-- RETRANSMIT_TIMEOUT -/
def execRetransmitTimeout (f n : Nat) (s : State) : Host.Outcome State Fault Refusal :=
  .next <|
    if (s.flow f n).state != .open_ || (s.flow f n).window.isEmpty then s
    else (s.modFlow f n fun fl => { fl with cwnd := 4 }).goBack f n

end Sys2Proof.Machine
end

