-- ==== Sys2Proof/Machine/Dispatch.lean ====
section
/-!
DEFINITION. The dispatch: one arm for each command, in the table's order, each a direct call of that command's meaning.
-/

namespace Sys2Proof.Machine

def exec (i : Instr) (s : State) : Host.Outcome State Fault Refusal :=
  match i with
  | .registerWrite by_ offset width value => Sys2Proof.Machine.execRegisterWrite by_ offset width value s
  | .resetAssert lowNs => Sys2Proof.Machine.execResetAssert lowNs s
  | .resetRelease straps finds slotA slotB => Sys2Proof.Machine.execResetRelease straps finds slotA slotB s
  | .bootWatchdog => Sys2Proof.Machine.execBootWatchdog s
  | .powerLoss => Sys2Proof.Machine.execPowerLoss s
  | .stackRailsUp stack => Sys2Proof.Machine.execStackRailsUp stack s
  | .stackRailFault die => Sys2Proof.Machine.execStackRailFault die s
  | .refclkXlLoss => Sys2Proof.Machine.execRefclkXlLoss s
  | .refclkFabLoss => Sys2Proof.Machine.execRefclkFabLoss s
  | .mgmtRestart => Sys2Proof.Machine.execMgmtRestart s
  | .loadFullImage => Sys2Proof.Machine.execLoadFullImage s
  | .loadPartialImage => Sys2Proof.Machine.execLoadPartialImage s
  | .imageFetchDone image => Sys2Proof.Machine.execImageFetchDone image s
  | .imageFetchTimeout => Sys2Proof.Machine.execImageFetchTimeout s
  | .imageVerifyDone => Sys2Proof.Machine.execImageVerifyDone s
  | .imageApplyDone => Sys2Proof.Machine.execImageApplyDone s
  | .coreTestDone c k pass => Sys2Proof.Machine.execCoreTestDone c k pass s
  | .stackTrainDone stack descriptor failedLanes => Sys2Proof.Machine.execStackTrainDone stack descriptor failedLanes s
  | .stackBringupComplete => Sys2Proof.Machine.execStackBringupComplete s
  | .verbDispatch c k u => Sys2Proof.Machine.execVerbDispatch c k u s
  | .verbComplete c k q => Sys2Proof.Machine.execVerbComplete c k q s
  | .joinTimeout c k q => Sys2Proof.Machine.execJoinTimeout c k q s
  | .nop x q u => Sys2Proof.Machine.execNop x q u s
  | .join x q u => Sys2Proof.Machine.execJoin x q u s
  | .bind x q u => Sys2Proof.Machine.execBind x q u s
  | .unbind x q u => Sys2Proof.Machine.execUnbind x q u s
  | .fence x q u => Sys2Proof.Machine.execFence x q u s
  | .mma c k u => Sys2Proof.Machine.execMma c k u s
  | .mdrain c k u => Sys2Proof.Machine.execMdrain c k u s
  | .mzero c k u => Sys2Proof.Machine.execMzero c k u s
  | .vmap c k u => Sys2Proof.Machine.execVmap c k u s
  | .vred c k u => Sys2Proof.Machine.execVred c k u s
  | .vsmax c k u => Sys2Proof.Machine.execVsmax c k u s
  | .vnorm c k u => Sys2Proof.Machine.execVnorm c k u s
  | .vsample c k u => Sys2Proof.Machine.execVsample c k u s
  | .sset x u => Sys2Proof.Machine.execSset x u s
  | .sinc x u => Sys2Proof.Machine.execSinc x u s
  | .sadd x u => Sys2Proof.Machine.execSadd x u s
  | .sload c k u => Sys2Proof.Machine.execSload c k u s
  | .scmp x u => Sys2Proof.Machine.execScmp x u s
  | .sjmp x u => Sys2Proof.Machine.execSjmp x u s
  | .swap x u => Sys2Proof.Machine.execSwap x u s
  | .endVerb x u => Sys2Proof.Machine.execEndVerb x u s
  | .strap x u => Sys2Proof.Machine.execStrap x u s
  | .dcopy c k u => Sys2Proof.Machine.execDcopy c k u s
  | .dgather c k u => Sys2Proof.Machine.execDgather c k u s
  | .dscatter c k u => Sys2Proof.Machine.execDscatter c k u s
  | .dak2 c k u => Sys2Proof.Machine.execDak2 c k u s
  | .dflush c k u => Sys2Proof.Machine.execDflush c k u s
  | .datom c k u => Sys2Proof.Machine.execDatom c k u s
  | .dcvcfg c k u => Sys2Proof.Machine.execDcvcfg c k u s
  | .coreStart c k bank entry => Sys2Proof.Machine.execCoreStart c k bank entry s
  | .coreStop c k => Sys2Proof.Machine.execCoreStop c k s
  | .coreAbort c k => Sys2Proof.Machine.execCoreAbort c k s
  | .ibLoad c k bank => Sys2Proof.Machine.execIbLoad c k bank s
  | .clauseLoadDone c k bank u => Sys2Proof.Machine.execClauseLoadDone c k bank u s
  | .strapPendClear c k => Sys2Proof.Machine.execStrapPendClear c k s
  | .afifoPush by_ c k entry => Sys2Proof.Machine.execAfifoPush by_ c k entry s
  | .tileSend producer => Sys2Proof.Machine.execTileSend producer s
  | .tileArrival consumer u => Sys2Proof.Machine.execTileArrival consumer u s
  | .creditArrival producer => Sys2Proof.Machine.execCreditArrival producer s
  | .creditRevoke producer => Sys2Proof.Machine.execCreditRevoke producer s
  | .baseDieWrite w pa bytes => Sys2Proof.Machine.execBaseDieWrite w pa bytes s
  | .wcbEvictTimeout stack ch line u => Sys2Proof.Machine.execWcbEvictTimeout stack ch line u s
  | .baseDieRead r pa u transferFailures => Sys2Proof.Machine.execBaseDieRead r pa u transferFailures s
  | .cacheEviction cluster line => Sys2Proof.Machine.execCacheEviction cluster line s
  | .stackPortWake stack => Sys2Proof.Machine.execStackPortWake stack s
  | .channelMapout stack ch => Sys2Proof.Machine.execChannelMapout stack ch s
  | .channelReturn stack ch => Sys2Proof.Machine.execChannelReturn stack ch s
  | .refreshDue stack ch busy => Sys2Proof.Machine.execRefreshDue stack ch busy s
  | .phyRecalWindow fabric unit => Sys2Proof.Machine.execPhyRecalWindow fabric unit s
  | .stackTempSample stack quarterDegrees => Sys2Proof.Machine.execStackTempSample stack quarterDegrees s
  | .stackSensorTimeout stack => Sys2Proof.Machine.execStackSensorTimeout stack s
  | .stackAdmitUpdate stack => Sys2Proof.Machine.execStackAdmitUpdate stack s
  | .bsuShareUpdate stack => Sys2Proof.Machine.execBsuShareUpdate stack s
  | .tgStart stack => Sys2Proof.Machine.execTgStart stack s
  | .tgStop stack => Sys2Proof.Machine.execTgStop stack s
  | .tgRunEnd stack found => Sys2Proof.Machine.execTgRunEnd stack found s
  | .rowdot stack ch u => Sys2Proof.Machine.execRowdot stack ch u s
  | .rowsum stack ch u => Sys2Proof.Machine.execRowsum stack ch u s
  | .reduce stack ch u => Sys2Proof.Machine.execReduce stack ch u s
  | .gather stack ch u => Sys2Proof.Machine.execGather stack ch u s
  | .scatterAdd stack ch u => Sys2Proof.Machine.execScatterAdd stack ch u s
  | .combine stack ch u => Sys2Proof.Machine.execCombine stack ch u s
  | .cancel stack ch => Sys2Proof.Machine.execCancel stack ch s
  | .bsuCancel stack pid tag => Sys2Proof.Machine.execBsuCancel stack pid tag s
  | .seqAdmit id u => Sys2Proof.Machine.execSeqAdmit id u s
  | .sliceBoundary stack ch lines u => Sys2Proof.Machine.execSliceBoundary stack ch lines u s
  | .claimStall id => Sys2Proof.Machine.execClaimStall id s
  | .sequenceEnd id u => Sys2Proof.Machine.execSequenceEnd id u s
  | .refetchBlockDone entry data u => Sys2Proof.Machine.execRefetchBlockDone entry data u s
  | .patrolLine stack ch u => Sys2Proof.Machine.execPatrolLine stack ch u s
  | .rscrubStart stack tag => Sys2Proof.Machine.execRscrubStart stack tag s
  | .rscrubStop stack => Sys2Proof.Machine.execRscrubStop stack s
  | .rscrubEnd stack written => Sys2Proof.Machine.execRscrubEnd stack written s
  | .intClrCounts stack mask => Sys2Proof.Machine.execIntClrCounts stack mask s
  | .intClrLog stack => Sys2Proof.Machine.execIntClrLog stack s
  | .intClrDrop stack => Sys2Proof.Machine.execIntClrDrop stack s
  | .erasureSet stack ch position => Sys2Proof.Machine.execErasureSet stack ch position s
  | .watchedLineInvalidate w line => Sys2Proof.Machine.execWatchedLineInvalidate w line s
  | .watchedLinePoll lines => Sys2Proof.Machine.execWatchedLinePoll lines s
  | .nopRecord p => Sys2Proof.Machine.execNopRecord p s
  | .submit p => Sys2Proof.Machine.execSubmit p s
  | .promptReadDone p tokens => Sys2Proof.Machine.execPromptReadDone p tokens s
  | .cancelCommand p => Sys2Proof.Machine.execCancelCommand p s
  | .prefixAdd p => Sys2Proof.Machine.execPrefixAdd p s
  | .prefixDel p => Sys2Proof.Machine.execPrefixDel p s
  | .stepBoundary group outWritten u => Sys2Proof.Machine.execStepBoundary group outWritten u s
  | .stepWatchdog group => Sys2Proof.Machine.execStepWatchdog group s
  | .srvPeek index pfx => Sys2Proof.Machine.execSrvPeek index pfx s
  | .poolPush p addr => Sys2Proof.Machine.execPoolPush p addr s
  | .cmdRingConfig p base value => Sys2Proof.Machine.execCmdRingConfig p base value s
  | .cplRingConfig p base value => Sys2Proof.Machine.execCplRingConfig p base value s
  | .quantumBoundary => Sys2Proof.Machine.execQuantumBoundary s
  | .phaseCommand by_ plan => Sys2Proof.Machine.execPhaseCommand by_ plan s
  | .phaseCommandDone => Sys2Proof.Machine.execPhaseCommandDone s
  | .clusterSwitch cluster target => Sys2Proof.Machine.execClusterSwitch cluster target s
  | .switchDrainDone cluster => Sys2Proof.Machine.execSwitchDrainDone cluster s
  | .switchDrainTimeout cluster => Sys2Proof.Machine.execSwitchDrainTimeout cluster s
  | .switchMoveDone cluster => Sys2Proof.Machine.execSwitchMoveDone cluster s
  | .coreOffline c k => Sys2Proof.Machine.execCoreOffline c k s
  | .acctClr p classes => Sys2Proof.Machine.execAcctClr p classes s
  | .mcLoad entry => Sys2Proof.Machine.execMcLoad entry s
  | .modelLoadDone bytes listWritten => Sys2Proof.Machine.execModelLoadDone bytes listWritten s
  | .mcEvict entry => Sys2Proof.Machine.execMcEvict entry s
  | .mcUnload entry => Sys2Proof.Machine.execMcUnload entry s
  | .mcPin entry => Sys2Proof.Machine.execMcPin entry s
  | .mcUnpin entry => Sys2Proof.Machine.execMcUnpin entry s
  | .mcTouch entry => Sys2Proof.Machine.execMcTouch entry s
  | .xlPerstAssert => Sys2Proof.Machine.execXlPerstAssert s
  | .xlPerstRelease => Sys2Proof.Machine.execXlPerstRelease s
  | .linkL0 goodLanes => Sys2Proof.Machine.execLinkL0 goodLanes s
  | .configAccess write offset size value => Sys2Proof.Machine.execConfigAccess write offset size value s
  | .handoffRequest => Sys2Proof.Machine.execHandoffRequest s
  | .handoffWindowExpire partner64GT => Sys2Proof.Machine.execHandoffWindowExpire partner64GT s
  | .handoffRecoveryTimer => Sys2Proof.Machine.execHandoffRecoveryTimer s
  | .linkUp => Sys2Proof.Machine.execLinkUp s
  | .linkRetryTimer => Sys2Proof.Machine.execLinkRetryTimer s
  | .xlRetrain => Sys2Proof.Machine.execXlRetrain s
  | .linkLaneFail lane => Sys2Proof.Machine.execLinkLaneFail lane s
  | .flitReplay => Sys2Proof.Machine.execFlitReplay s
  | .companionRead window offset size u => Sys2Proof.Machine.execCompanionRead window offset size u s
  | .companionWrite window offset order poisoned bytes => Sys2Proof.Machine.execCompanionWrite window offset order poisoned bytes s
  | .companionSnoop line => Sys2Proof.Machine.execCompanionSnoop line s
  | .withdrawAnswer line dirty => Sys2Proof.Machine.execWithdrawAnswer line dirty s
  | .snoopTimeout => Sys2Proof.Machine.execSnoopTimeout s
  | .eventRecordWrite => Sys2Proof.Machine.execEventRecordWrite s
  | .interruptHoldoffEnd vector => Sys2Proof.Machine.execInterruptHoldoffEnd vector s
  | .ivUnmask vector => Sys2Proof.Machine.execIvUnmask vector s
  | .eventRingConfig ring base value => Sys2Proof.Machine.execEventRingConfig ring base value s
  | .portLinkUp f rate lanes => Sys2Proof.Machine.execPortLinkUp f rate lanes s
  | .portDownTimeout f => Sys2Proof.Machine.execPortDownTimeout f s
  | .fabRetrain f => Sys2Proof.Machine.execFabRetrain f s
  | .portLossOfLock f => Sys2Proof.Machine.execPortLossOfLock f s
  | .flowOpen f n => Sys2Proof.Machine.execFlowOpen f n s
  | .flowClose f n => Sys2Proof.Machine.execFlowClose f n s
  | .helloSendTimer f n => Sys2Proof.Machine.execHelloSendTimer f n s
  | .helloTimeout f n => Sys2Proof.Machine.execHelloTimeout f n s
  | .frameReceive f frame => Sys2Proof.Machine.execFrameReceive f frame s
  | .neighborSolicitation f target => Sys2Proof.Machine.execNeighborSolicitation f target s
  | .hello f => Sys2Proof.Machine.execHello f s
  | .helloAck f => Sys2Proof.Machine.execHelloAck f s
  | .write f u => Sys2Proof.Machine.execWrite f u s
  | .readReq f u => Sys2Proof.Machine.execReadReq f u s
  | .readResp f => Sys2Proof.Machine.execReadResp f s
  | .atomic f u => Sys2Proof.Machine.execAtomic f u s
  | .atomicResp f => Sys2Proof.Machine.execAtomicResp f s
  | .ack f => Sys2Proof.Machine.execAck f s
  | .nak f => Sys2Proof.Machine.execNak f s
  | .tile f => Sys2Proof.Machine.execTile f s
  | .credit f => Sys2Proof.Machine.execCredit f s
  | .mgmt f => Sys2Proof.Machine.execMgmt f s
  | .mgmtResp f => Sys2Proof.Machine.execMgmtResp f s
  | .ackTimer f n => Sys2Proof.Machine.execAckTimer f n s
  | .retransmitTimeout f n => Sys2Proof.Machine.execRetransmitTimeout f n s
  | .decisionWindow monitors lostRegulators => Sys2Proof.Machine.execDecisionWindow monitors lostRegulators s
  | .domainIdleOff domain => Sys2Proof.Machine.execDomainIdleOff domain s
  | .domainOnComplete domain reached => Sys2Proof.Machine.execDomainOnComplete domain reached s
  | .pmbusAlert address statusWord => Sys2Proof.Machine.execPmbusAlert address statusWord s
  | .pwrAlertAssert => Sys2Proof.Machine.execPwrAlertAssert s
  | .alertRelease => Sys2Proof.Machine.execAlertRelease s
  | .alertStuck => Sys2Proof.Machine.execAlertStuck s
  | .throttleUpdate => Sys2Proof.Machine.execThrottleUpdate s
  | .diodeCalibration readings => Sys2Proof.Machine.execDiodeCalibration readings s
  | .stackTmaxTimeout stack => Sys2Proof.Machine.execStackTmaxTimeout stack s
  | .hwTrip diode => Sys2Proof.Machine.execHwTrip diode s
  | .shutdownOrder by_ => Sys2Proof.Machine.execShutdownOrder by_ s
  | .pwrOrderWrite by_ limit => Sys2Proof.Machine.execPwrOrderWrite by_ limit s
  | .pwrRecAck by_ seq => Sys2Proof.Machine.execPwrRecAck by_ seq s
  | .pwrRecErase by_ => Sys2Proof.Machine.execPwrRecErase by_ s
  | .mctpRead offset => Sys2Proof.Machine.execMctpRead offset s
  | .mctpWrite offset value => Sys2Proof.Machine.execMctpWrite offset value s
  | .mctpAttest nonce => Sys2Proof.Machine.execMctpAttest nonce s
  | .mctpReportChunk index => Sys2Proof.Machine.execMctpReportChunk index s
  | .mctpCertsChunk index => Sys2Proof.Machine.execMctpCertsChunk index s
  | .fwUpdate => Sys2Proof.Machine.execFwUpdate s
  | .fwUpdateDone image => Sys2Proof.Machine.execFwUpdateDone image s
  | .fwCommit => Sys2Proof.Machine.execFwCommit s
  | .fwRollback by_ => Sys2Proof.Machine.execFwRollback by_ s
  | .ownerSet by_ => Sys2Proof.Machine.execOwnerSet by_ s
  | .ownerClear by_ => Sys2Proof.Machine.execOwnerClear by_ s
  | .debugUnlock by_ => Sys2Proof.Machine.execDebugUnlock by_ s
  | .sealAck by_ => Sys2Proof.Machine.execSealAck by_ s
  | .eraseShutdownRecords by_ => Sys2Proof.Machine.execEraseShutdownRecords by_ s
  | .eraseMapoutRecords by_ => Sys2Proof.Machine.execEraseMapoutRecords by_ s
  | .eraseErasureRecords by_ => Sys2Proof.Machine.execEraseErasureRecords by_ s
  | .factoryReset by_ key => Sys2Proof.Machine.execFactoryReset by_ key s
  | .presenceSample low => Sys2Proof.Machine.execPresenceSample low s
  | .presenceStuck => Sys2Proof.Machine.execPresenceStuck s
  | .sealSample closed => Sys2Proof.Machine.execSealSample closed s
  | .attestReport => Sys2Proof.Machine.execAttestReport s
  | .attestCerts => Sys2Proof.Machine.execAttestCerts s
  | .attestLogs => Sys2Proof.Machine.execAttestLogs s
  | .attestDone => Sys2Proof.Machine.execAttestDone s
  | .telemetrySample => Sys2Proof.Machine.execTelemetrySample s
  | .telemetryConfig base value => Sys2Proof.Machine.execTelemetryConfig base value s
  | .flashSectorErase sector => Sys2Proof.Machine.execFlashSectorErase sector s
  | .ageingMonitorRead die belowThreshold => Sys2Proof.Machine.execAgeingMonitorRead die belowThreshold s
  | .readinessSignal regulators => Sys2Proof.Machine.execReadinessSignal regulators s
  | .controlCoreAccess cluster a u => Sys2Proof.Machine.execControlCoreAccess cluster a u s
  | .linkTrainingFailure => Sys2Proof.Machine.execLinkTrainingFailure s
  | .portBringupFailure f noCommonTechnology => Sys2Proof.Machine.execPortBringupFailure f noCommonTechnology s

end Sys2Proof.Machine
end

