-- ==== Sys2Proof/WellFormed.lean ====
section
/-!
DEFINITION. Well-formed commands: every operand within the numbers the manual gives its kind of unit, register or field
(R2 to R5, R17, R64, R84, R112, R361, R378). The machine answers an ill-formed command all the same; this says which commands
the outside world can send.
-/

namespace Sys2Proof

/-- Who writes exists: a cluster's control core, a flow of a fabric port. -/
def Master.wf : Master → Bool
  | .companion | .bmc => true
  | .controlCore c => decide (c < 16)
  | .peer f n => decide (f < 8) && decide (n < 1024)

/-- Who writes at a base die exists. -/
def Writer.wf : Writer → Bool
  | .verb c k _ => decide (c < 16) && decide (k < 12)
  | .cache c => decide (c < 16)
  | .peer f n => decide (f < 8) && decide (n < 1024)
  | .companion | .device => true
  | .sequence _ => true

/-- Who reads at a base die exists. -/
def Reader.wf : Reader → Bool
  | .port station => decide (station < 2 ^ 16)
  | .unit | .patrol | .rangeScrub | .eviction | .refetch | .checker => true

/-- The errors a command meets are in memories that exist: a core's own have the codes 0 to 2 of R269. -/
def Upset.wf (u : Upset) : Bool := u.corrected.all fun m => decide (m < 3)

/-- A watched line exists. -/
def Watched.wf : Watched → Bool
  | .command p i => decide (p < 16) && decide (i < 4096)
  | .cplHead p => decide (p < 16)
  | .ringHead r => decide (r < 16)

/-- A record's channel, die or place in the store exists. -/
def StoreRecord.wf : StoreRecord → Bool
  | .mapout n ch | .erasure n ch => decide (n < 12) && decide (ch < 32)
  | .guardBand die => decide (die < 2)
  | .shutdown i => decide (i < 16)
  | .bootControl | .ownerKey | .sealLog => true

/-- Every operand of a command lies within what the manual numbers. -/
def Instr.wf : Instr → Bool
  | .registerWrite by_ offset width value => by_.wf && decide (offset < 2 ^ 24) && (width == 1 || width == 2 || width
    == 4 || width == 8) && decide (value < 2 ^ (8 * width))
  | .resetAssert _ => true
  | .resetRelease straps finds _ _ => decide (straps < 64) && finds.lost.all StoreRecord.wf
  | .bootWatchdog | .powerLoss => true
  | .stackRailsUp s => decide (s < 12)
  | .stackRailFault die => decide (die < 2)
  | .refclkXlLoss | .refclkFabLoss | .mgmtRestart | .loadFullImage | .loadPartialImage | .imageFetchDone _ |
    .imageFetchTimeout | .imageVerifyDone | .imageApplyDone => true
  | .coreTestDone c k _ => decide (c < 16) && decide (k < 12)
  | .stackTrainDone s descriptor _ => decide (s < 12) && descriptor.length == 64
  | .stackBringupComplete => true
  | .verbDispatch c k _ | .verbComplete c k _ | .joinTimeout c k _ => decide (c < 16) && decide (k < 12)
  | .nop ⟨c, k⟩ _ u | .join ⟨c, k⟩ _ u | .bind ⟨c, k⟩ _ u | .unbind ⟨c, k⟩ _ u | .fence ⟨c, k⟩ _ u | .mma c k u | .mdrain c k u | .mzero c k u |
    .vmap c k u | .vred c k u | .vsmax c k u | .vnorm c k u | .vsample c k u | .sset ⟨c, k⟩ u | .sinc ⟨c, k⟩ u | .sadd ⟨c, k⟩ u |
    .sload c k u | .scmp ⟨c, k⟩ u | .sjmp ⟨c, k⟩ u | .swap ⟨c, k⟩ u | .endVerb ⟨c, k⟩ u | .strap ⟨c, k⟩ u | .dcopy c k u | .dgather c k u |
    .dscatter c k u | .dak2 c k u | .dflush c k u | .datom c k u | .dcvcfg c k u => decide (c < 16) && decide (k < 12) && u.wf
  | .coreStart c k bank entry => decide (c < 16) && decide (k < 12) && decide (bank < 2) && decide (entry < 4096)
  | .coreStop c k | .coreAbort c k => decide (c < 16) && decide (k < 12)
  | .ibLoad c k bank | .clauseLoadDone c k bank _ => decide (c < 16) && decide (k < 12) && decide (bank < 2)
  | .strapPendClear c k => decide (c < 16) && decide (k < 12)
  | .afifoPush by_ c k entry => by_.wf && decide (c < 16) && decide (k < 12) && decide (entry < 2 ^ 64)
  | .tileSend producer => decide (producer < 2 ^ 16)
  | .tileArrival consumer _ => decide (consumer < 2 ^ 16)
  | .creditArrival producer | .creditRevoke producer => decide (producer < 2 ^ 16)
  | .baseDieWrite w pa _ => w.wf && decide (pa < 2 ^ 40)
  | .wcbEvictTimeout s ch _ _ => decide (s < 12) && decide (ch < 32)
  | .baseDieRead r pa _ _ => r.wf && decide (pa < 2 ^ 40)
  | .cacheEviction cluster _ => decide (cluster < 16)
  | .stackPortWake s => decide (s < 12)
  | .channelMapout s ch | .channelReturn s ch | .refreshDue s ch _ => decide (s < 12) && decide (ch < 32)
  | .phyRecalWindow _ _ => true
  | .stackTempSample s _ | .stackSensorTimeout s | .stackAdmitUpdate s | .bsuShareUpdate s | .tgStart s | .tgStop s => decide (s < 12)
  | .tgRunEnd s found => decide (s < 12) && found.all fun (ch, _, _) => decide (ch < 32)
  | .rowdot s ch _ | .rowsum s ch _ | .reduce s ch _ | .gather s ch _ | .scatterAdd s ch _ | .combine s ch _ | .cancel
    s ch => decide (s < 12) && decide (ch < 32)
  | .bsuCancel s pid tag => decide (s < 12) && decide (pid < 16) && decide (tag < 2 ^ 32)
  | .seqAdmit _ _ => true
  | .sliceBoundary s ch _ _ => decide (s < 12) && decide (ch < 32)
  | .claimStall _ | .sequenceEnd _ _ => true
  | .refetchBlockDone entry _ _ => decide (entry < 64)
  | .patrolLine s ch _ => decide (s < 12) && decide (ch < 32)
  | .rscrubStart s tag => decide (s < 12) && decide (tag < 2 ^ 32)
  | .rscrubStop s | .rscrubEnd s _ => decide (s < 12)
  | .intClrCounts s mask => decide (s < 12) && decide (mask < 2 ^ 32)
  | .intClrLog s | .intClrDrop s => decide (s < 12)
  | .erasureSet s ch position => decide (s < 12) && decide (ch < 32) && decide (position < 32)
  | .watchedLineInvalidate w line => w.wf && line.length == 64
  | .watchedLinePoll _ => true
  | .nopRecord p | .submit p | .promptReadDone p _ | .cancelCommand p | .prefixAdd p | .prefixDel p => decide (p < 16)
  | .stepBoundary _ _ _ | .stepWatchdog _ => true
  | .srvPeek index pfx => decide (index < 4096) && decide (pfx < 1024)
  | .poolPush p addr => decide (p < 16) && decide (addr < 2 ^ 40)
  | .cmdRingConfig p _ value | .cplRingConfig p _ value => decide (p < 16) && decide (value < 2 ^ 64)
  | .quantumBoundary => true
  | .phaseCommand by_ _ => by_.wf
  | .phaseCommandDone => true
  | .clusterSwitch cluster target => decide (cluster < 16) && decide (target < 16)
  | .switchDrainDone cluster | .switchDrainTimeout cluster | .switchMoveDone cluster => decide (cluster < 16)
  | .coreOffline c k => decide (c < 16) && decide (k < 12)
  | .acctClr p classes => decide (p < 16) && decide (classes < 16)
  | .mcLoad entry => decide (entry < 64)
  | .modelLoadDone _ _ => true
  | .mcEvict entry | .mcUnload entry | .mcPin entry | .mcUnpin entry | .mcTouch entry => decide (entry < 64)
  | .xlPerstAssert | .xlPerstRelease => true
  | .linkL0 goodLanes => decide (goodLanes < 2 ^ 16)
  | .configAccess _ offset _ _ => decide (offset < 4096)
  | .handoffRequest | .handoffWindowExpire _ | .handoffRecoveryTimer | .linkUp | .linkRetryTimer | .xlRetrain => true
  | .linkLaneFail lane => decide (lane < 16)
  | .flitReplay => true
  | .companionRead window _ _ _ | .companionWrite window _ _ _ _ => decide (window < 3)
  | .companionSnoop _ | .withdrawAnswer _ _ | .snoopTimeout | .eventRecordWrite => true
  | .interruptHoldoffEnd vector | .ivUnmask vector => decide (vector < 32)
  | .eventRingConfig ring _ value => decide (ring < 16) && decide (value < 2 ^ 64)
  | .portLinkUp f rate lanes => decide (f < 8) && decide (rate < 4) && decide (lanes < 256)
  | .portDownTimeout f | .fabRetrain f | .portLossOfLock f => decide (f < 8)
  | .flowOpen f n | .flowClose f n | .helloSendTimer f n | .helloTimeout f n => decide (f < 8) && decide (n < 1024)
  | .frameReceive f _ => decide (f < 8)
  | .neighborSolicitation f target => decide (f < 8) && decide (target < 2 ^ 128)
  | .hello f | .helloAck f | .write f _ | .readReq f _ | .readResp f | .atomic f _ | .atomicResp f | .ack f | .nak f |
    .tile f | .credit f | .mgmt f | .mgmtResp f => decide (f < 8)
  | .ackTimer f n | .retransmitTimeout f n => decide (f < 8) && decide (n < 1024)
  | .decisionWindow _ _ => true
  | .domainIdleOff domain | .domainOnComplete domain _ => decide (domain < 67)
  | .pmbusAlert address statusWord => decide (address < 128) && decide (statusWord < 2 ^ 16)
  | .pwrAlertAssert | .alertRelease | .alertStuck | .throttleUpdate | .diodeCalibration _ => true
  | .stackTmaxTimeout s => decide (s < 12)
  | .hwTrip diode => decide (diode < 16)
  | .shutdownOrder by_ => by_.wf
  | .pwrOrderWrite by_ limit => by_.wf && decide (limit < 2 ^ 12)
  | .pwrRecAck by_ seq => by_.wf && decide (seq < 2 ^ 32)
  | .pwrRecErase by_ => by_.wf
  | .mctpRead offset => decide (offset < 2 ^ 24)
  | .mctpWrite offset value => decide (offset < 2 ^ 24) && decide (value < 2 ^ 64)
  | .mctpAttest nonce => nonce.length == 32
  | .mctpReportChunk index => decide (index < 8)
  | .mctpCertsChunk _ | .fwUpdate | .fwUpdateDone _ | .fwCommit => true
  | .fwRollback by_ | .ownerSet by_ | .ownerClear by_ | .debugUnlock by_ | .sealAck by_ | .eraseShutdownRecords by_ |
    .eraseMapoutRecords by_ | .eraseErasureRecords by_ => by_.wf
  | .factoryReset by_ key => by_.wf && decide (key < 2 ^ 32)
  | .presenceSample _ | .presenceStuck | .sealSample _ | .attestReport | .attestCerts | .attestLogs | .attestDone |
    .telemetrySample => true
  | .telemetryConfig _ value => decide (value < 2 ^ 64)
  | .flashSectorErase sector => decide (sector < 32)
  | .ageingMonitorRead die _ => decide (die < 2)
  | .readinessSignal _ => true
  | .controlCoreAccess cluster _ _ => decide (cluster < 16)
  | .linkTrainingFailure => true
  | .portBringupFailure f _ => decide (f < 8)

end Sys2Proof
end

