-- ==== Sys2Proof/Safety.lean ====
section
/-!
DEFINITION. The terms claims are stated in: a command that completes, and a run that goes on.
-/

namespace Sys2Proof.Machine

/-- The command completes from `s`: `exec` answers a next state, and `P` holds of it. -/
def Completes (i : Instr) (s : State) (P : State → Prop) : Prop := ∃ t, exec i s = .next t ∧ P t

/-- The block goes on from `s`: a step answers a next state. -/
def GoesOn (s : State) : Prop := ∃ t, step s = .next t

/-- An owner operation or an RW-P write at a management-window offset was refused with a status: counted and recorded in the SEC
block (R412), and given as the last status of the block it was written to. -/
def RefusedOrder (s t : State) (offset : Nat) (st : Status) : Prop :=
  t.sec = { s.sec with refused := (s.sec.refused + 1) % 2 ^ 32, refusedOff := offset, refusedStatus := st, lastCmd := t.sec.lastCmd }
    ∧ t.sec.lastCmd = (if offset / 0x10000 = 4 then st else s.sec.lastCmd)
    ∧ t.pwr.lastCmd = (if offset / 0x10000 = 2 then st else s.pwr.lastCmd)

/-- A slot ROM may run: not marked failed since power-up, and passing R402. -/
def State.bootable (s : State) (b : Bool) : Bool :=
  !(if b then s.mgmt.failedB else s.mgmt.failedA) && (s.slotStatus (if b then s.flash.slotB else s.flash.slotA)).isNone

/-- From `s`, ROM has run the first slot, the preferred one before the other, that is not marked failed and passes R402; with none it
has halted with FAULT_n (R403). -/
def BootedFrom (s t : State) (preferB : Bool) : Prop :=
  if s.bootable preferB then t.mgmt.boot = .firmware ∧ t.mgmt.slotB = preferB ∧ t.mgmt.fallback = false
  else if s.bootable (!preferB) then t.mgmt.boot = .firmware ∧ t.mgmt.slotB = !preferB ∧ t.mgmt.fallback = true
  else t.mgmt.boot = .halted ∧ t.mgmt.faultPin = true

/-- The owner operations that a seal break holds back, each with the register it is written to (R411). -/
def ownerOrders : List (Instr × Nat) :=
  [(.ownerSet .companion, 0x40010), (.ownerClear .companion, 0x40010), (.debugUnlock .companion, 0x40068),
   (.eraseShutdownRecords .companion, 0x40078), (.eraseMapoutRecords .companion, 0x40078),
   (.eraseErasureRecords .companion, 0x40078), (.pwrRecErase .companion, 0x20A08), (.factoryReset .companion 0x46414354, 0x4007C)]

/-- A grammar load has ended with a status, the structure in force untouched: GRAM_STATE, the event, and no load in progress
(R58, R60). -/
def LoadEnded (s t : State) (st : Status) : Prop :=
  t.gram.status = st ∧ t.gram.job = none ∧ t.gram.pending = none ∧ t.gram.image = s.gram.image ∧ t.gram.loads = s.gram.loads
    ∧ t.gram.digest = s.gram.digest
    ∧ t.gram.state = (if s.gram.image.isSome then .inForce else .empty)
    ∧ t = ({ s with gram := t.gram } : State).event Cls.gram st Obs.ofGram 0xFF 0 0

/-- A grammar load has been refused by a check, with what the check found in GRAM_DETAIL and GRAM_RESOURCE (R59, R60). -/
def LoadRefused (s t : State) (f : ImgFault) : Prop :=
  LoadEnded s t f.status ∧ t.gram.section_ = f.section_ ∧ t.gram.record = f.record ∧ t.gram.rkind = f.rkind ∧ t.gram.rnum = f.rnum

/-! ### Verbs -/

/-- A verb's computation ends with an answer and a state. -/
def Runs {α : Type} (m : VM α) (s : State) (v : α) (t : State) : Prop := m.run s = (.ok v, t)

/-- The state of a core as a verb's command finds it: the trap address cleared, and the errors its command brings in place. -/
def struck (s : State) (c k : Nat) (u : Upset) : State := (s.modCore c k fun y => { y with trapAddr := 0 }).strikeCore c k u

/-- The verb `e` is the one a command of opcode `op` is about on a queue of a core that is there, online and not halted, and its
predicate holds as it saw it; it starts now, in a cluster that no switch holds, or goes on with its work. No error of the cluster's
tags takes the core offline, and the verb's queue entry is whole. -/
structure Begins (s : State) (c k : Nat) (q : Queue) (op : Nat) (u : Upset) (e : QEntry) (starts : Bool) : Prop where
  present : s.corePresent c k = true
  online : (s.core c k).run ≠ .offline
  sound : (s.core c k).halted.get q = false
  first : pickVerb q op u.nth ((s.core c k).queues.get q) = some (e, starts)
  free : starts = true → s.clusterStopped c = false
  holds : starts = true → e.verb.holds (e.sees (s.core c k)).2 = true
  up : ((struck s c k u).core c k).run ≠ .offline
  intact : u.parity = false
  copy : u.nounCopy = false
  unwritten : e.worked = false

/-- The verb as the issuer of accesses. -/
def issuerOf (s : State) (c k : Nat) (q : Queue) (u : Upset) (e : QEntry) : Issuer :=
  { c := c, k := k, q := q, id := e.id, pid := pidField (s.corePid c k), upset := u }

/-- The verb with its issuer. -/
def ctxOf (s : State) (c k : Nat) (q : Queue) (u : Upset) (e : QEntry) : Ctx := { a := issuerOf s c k q u e, v := e.verb }

/-- The state in which the verb's own work is done: the errors its command brings stand in place, and a verb that starts is marked as
one whose predicate held. -/
def begun (s : State) (c k : Nat) (q : Queue) (u : Upset) (e : QEntry) (starts : Bool) : State :=
  (struck s c k u).modEntry (issuerOf s c k q u e) fun x => { x with taken := if starts then 1 else x.taken }

/-- The state with a verb's own work finished, which it completes from (R85): done where all of it has been written and every peer has
answered, with the banks an MDRAIN clears set to NONE. -/
def State.done (t : State) (a : Issuer) : State := t.settleVerb a true

end Sys2Proof.Machine
end

