-- ==== Sys2Proof/Certificates/Slice0/Obligations.lean ====
section
/-!
DEFINITION. The statements about the block, each formalising rules of the manual; a title or docstring that names a log entry
rests on the model's own choice. `Sys2Proof.Claims` holds their parts, one per rule or group of rules; the obligations at the
end join them by family.
-/

open Sys2Proof Sys2Proof.Machine

/-! ### Steps (the queue of commands) -/

/-- The step of a block with commands waiting is the effect of the command at the front, on the state without it. -/
def Sys2Proof.Claims.StepRunsFrontCommand : Prop :=
  ∀ (c : Instr) (rest : List Instr) (s : State), s.pending = c :: rest → step s = exec c { s with pending := rest }

/-- On an empty queue the block idles: only the serving tick, where it runs, rises by one, modulo 2^64. The model's choice of an
idle step (log entry 5); the tick is R26. -/
def Sys2Proof.Claims.IdleStepMovesTickOnly : Prop :=
  ∀ s : State, s.pending = [] → ∃ t, step s = .next t ∧
    t = { s with srv := { s.srv with tick := if s.srv.ticking then (s.srv.tick + 1) % 2 ^ 64 else s.srv.tick } }

/-! ### Reset, power and boot (R403, R419 to R425, R440 to R444) -/

/-- R421: a low pulse of RESET_n shorter than 1 µs is ignored; a longer one puts the device into its reset state, whatever ran,
with fuses, flash and the causes of MGMT_RESET kept, and every channel as the record store has it. Loss of power leaves fuses and
flash alone. -/
def Sys2Proof.Claims.ResetAndPowerLoss : Prop :=
  (∀ (ns : Nat) (s : State), Completes (.resetAssert ns) s fun t =>
    if ns < 1000 ∨ s.mgmt.boot = .reset then t = s
    else t.pending = s.pending ∧ t.fuses = s.fuses ∧ t.flash = s.flash
      ∧ t.mgmt.boot = .reset ∧ t.mgmt.resetPin = true ∧ t.mgmt.powerOn = s.mgmt.powerOn
      ∧ t.mgmt.restarted = s.mgmt.restarted ∧ t.mgmt.factory = s.mgmt.factory
      ∧ t.mgmt.thermTrip = false ∧ t.mgmt.faultPin = false ∧ t.sec.sampling = false
      ∧ t.pwr.domOn = 0 ∧ t.xl.state = .down ∧ (∀ f, (t.port f).state = .off)
      ∧ (∀ n, n < 12 → (t.stack n).state = .selfRefresh ∧ (t.stack n).trained = false
          ∧ (t.stack n).initialised = (s.stack n).initialised ∧ (t.stack n).channels = s.flash.channels n)
      ∧ t.gram = {} ∧ t.srv = {} ∧ t.sched = {} ∧ t.cores = [] ∧ t.clusters = [] ∧ t.seqs = [])
  ∧ ∀ s : State, Completes .powerLoss s fun t =>
      t = { pending := s.pending, fuses := s.fuses, flash := s.flash, out := s.out, fresh := s.fresh, stk := t.stk }
      ∧ (∀ n, n < 12 → (t.stack n).channels = s.flash.channels n)
      ∧ t.mgmt.boot = .reset ∧ t.mgmt.powerOn = true ∧ ∀ n, (t.stack n).initialised = false

/-- R403: from the release of RESET_n, or when the watchdog ends a firmware that is not ready, ROM runs the first slot, the one the
boot-control record names before the other, that is not marked failed and passes R402; with none it asserts FAULT_n and waits. A TEST
strap or a bad REFCLK_XL stops the boot (R440, R442). A record whose copies all fail is absent, and a failed owner key sets KEY_BAD
(R426). Where the manual leaves a corner to reading, it is the model's: log entries 57 and 93. -/
def Sys2Proof.Claims.RomChoosesSlot : Prop :=
  (∀ (straps : Nat) (finds : BootFinds) (a b : Option (List Byte)) (s : State), s.mgmt.boot = .reset →
    let placed : Flash := { s.flash with slotA := a.getD s.flash.slotA, slotB := b.getD s.flash.slotB }
    let f : State := { s with flash := finds.lost.foldl Flash.lose placed }
    Completes (.resetRelease straps finds a b) s fun t =>
      t.flash = f.flash ∧ t.fuses = s.fuses ∧ t.mgmt.straps = straps % 64
      ∧ (if bit straps 5 = true ∨ finds.refclkXl = false then t.mgmt.boot = .halted ∧ t.mgmt.faultPin = true
         else BootedFrom f t f.flash.bootB))
  ∧ (∀ s : State, s.mgmt.boot = .firmware →
      let f : State := { s with mgmt := { s.mgmt with failedA := s.mgmt.failedA || !s.mgmt.slotB,
                                                      failedB := s.mgmt.failedB || s.mgmt.slotB } }
      Completes .bootWatchdog s fun t =>
        t.mgmt.failedA = f.mgmt.failedA ∧ t.mgmt.failedB = f.mgmt.failedB ∧ t.flash = s.flash ∧ BootedFrom f t s.flash.bootB)
  ∧ (∀ x : Flash, (x.ownerKey ≠ none → (x.lose .ownerKey).keyBad = true) ∧ (x.lose .ownerKey).ownerKey = none
      ∧ (x.lose .bootControl).bootB = false ∧ (x.lose .sealLog).breaks = 0 ∧ (x.lose .sealLog).sealBroken = false
      ∧ ∀ n ch : Nat, (x.lose (.mapout n ch)).mapouts = x.mapouts.drop (32 * n + ch)
          ∧ (x.lose (.erasure n ch)).erasures = x.erasures.drop (32 * n + ch))
  ∧ ∀ (straps : Nat) (finds : BootFinds) (a b : Option (List Byte)) (s : State),
      (s.mgmt.boot ≠ .reset → exec (.resetRelease straps finds a b) s = .next s)
      ∧ (s.mgmt.boot ≠ .firmware → exec .bootWatchdog s = .next s)

/-- Step 5 of R403 and R380: readiness counts the regulators found at 0x40 to 0x4F, sets the restriction from the record store (R397),
switches domain 66 on and starts the link's training; the regulators' term of the limit is 95 % of their sum, at most 4,095 W, rounded
as the manual leaves open. Where the manual leaves a corner to reading, it is the model's: log entry 52. -/
def Sys2Proof.Claims.ReadinessStartsLink : Prop :=
  ∀ (regs : List (Nat × Nat)) (s : State), s.mgmt.boot = .firmware →
    Completes (.readinessSignal regs) s fun t =>
      t.mgmt.boot = .ready ∧ bit t.pwr.domOn 66 = true
      ∧ t.pwr.restricted = s.flash.shutdowns.any (fun r => !r.acked)
      ∧ (∃ up, up ≤ 1 ∧ t.pwr.termReg = min 4095
          (95 * (((regs.filter fun r => decide (0x40 ≤ r.1) && decide (r.1 ≤ 0x4F)).map (·.2)).foldl (· + ·) 0) / 100 + up))
      ∧ (s.xl.perst = false → s.xl.state = .down → t.xl.state = .training ∧ t.xl.train = .detect)
      ∧ t = { s with mgmt := t.mgmt, pwr := t.pwr, xl := t.xl, counts := t.counts, fresh := t.fresh }

/-- R419, R442 and R444: a base die initialises its core dies when its rails are up; a stack rail out of tolerance loses the
contents of its die's stacks; losing REFCLK_XL gates everything, asserts FAULT_n and waits for RESET_n; losing REFCLK_FAB makes
every port that is up retrain. Each leaves the rest alone. -/
def Sys2Proof.Claims.RailsAndClocks : Prop :=
  (∀ (n : Nat) (s : State), Completes (.stackRailsUp n) s fun t =>
    t = { s with stk := t.stk, counts := t.counts } ∧ (s.stackPresent n = true → (t.stack n).initialised = true)
    ∧ ∀ m, m ≠ n → t.stack m = s.stack m)
  ∧ (∀ (die : Nat) (s : State), die < 2 → Completes (.stackRailFault die) s fun t =>
      t = { s with stk := t.stk } ∧ ∀ n, n < 12 →
        if dieOfStack n = die then (t.stack n).lost = true ∧ (t.stack n).initialised = false else t.stack n = s.stack n)
  ∧ (∀ s : State, s.mgmt.boot = .firmware ∨ s.mgmt.boot = .ready → Completes .refclkXlLoss s fun t =>
      t.mgmt.boot = .halted ∧ t.mgmt.faultPin = true ∧ t.mgmt.internalClock = true ∧ t.mgmt.thermTrip = s.mgmt.thermTrip
      ∧ t.pwr.domOn = 0 ∧ t.xl.state = .down ∧ t.cores = [] ∧ t.flash = { s.flash with mapouts := t.flash.mapouts })
  ∧ ∀ s : State, Completes .refclkFabLoss s fun t =>
      t = { s with fab := t.fab } ∧ ∀ f, f < 8 → t.port f =
        (if (s.port f).state = .up then { s.port f with state := .retraining } else s.port f)

/-- R425 and R414: a management restart asserts FAULT_n, switches every domain off and boots from ROM with its cause kept; an
accepted factory reset erases the records of R411, names the running slot, and boots from ROM (a channel that fails while the stacks
are put to sleep is recorded again); in both ROM then runs a slot as R403 has it; a refused one changes nothing but what records the
refusal. Where the manual leaves a corner to reading, it is the model's: log entries 37 and 56. -/
def Sys2Proof.Claims.RestartFromRom : Prop :=
  (∀ s : State, s.mgmt.boot = .firmware ∨ s.mgmt.boot = .ready → Completes .mgmtRestart s fun t =>
    t.mgmt.restarted = true ∧ t.mgmt.afterRestart = true ∧ t.mgmt.faultPin = true ∧ t.mgmt.thermTrip = false
    ∧ t.pwr.domOn = 0 ∧ t.xl.state = .down ∧ t.flash = { s.flash with mapouts := t.flash.mapouts } ∧ t.fuses = s.fuses
    ∧ t.gram = {} ∧ t.srv = {} ∧ t.cores = [] ∧ t.pending = s.pending ∧ BootedFrom s t s.flash.bootB)
  ∧ (∀ s : State, s.sec.presence = true → s.flash.sealBroken = false → Completes (.factoryReset .companion 0x46414354) s fun t =>
      t.flash = { s.flash with ownerKey := none, keyBad := false, shutdowns := [], breaks := 0, sealBroken := false,
                               mapouts := t.flash.mapouts, erasures := [], bootB := s.mgmt.slotB }
      ∧ ((∀ n, n < 12 → (s.stack n).asleep = true) → t.flash.mapouts = [])
      ∧ t.fuses = s.fuses ∧ t.mgmt.factory = true ∧ t.pwr.domOn = 0 ∧ t.xl.state = .down ∧ t.gram = {}
      ∧ t.mgmt.thermTrip = false ∧ t.pending = s.pending ∧ BootedFrom s t s.mgmt.slotB)
  ∧ ∀ (key : Nat) (s : State), s.sec.presence = false ∨ s.flash.sealBroken = true ∨ key ≠ 0x46414354 →
      Completes (.factoryReset .companion key) s fun t => t = { s with sec := t.sec } ∧ RefusedOrder s t 0x4007C
        (if s.sec.presence = false then Code.noPresence else if s.flash.sealBroken = true then Code.sealBroken else Code.badValue)

/-! ### Presence, the seal and the owner operations (R411 to R416) -/

/-- R415: while sampling runs, presence is counted as asserted at the 20th low sample in a row, and as released at the 20th high
one; after 30 s without a break it counts as released, PRESENCE_STUCK is sent, and it must be released before it counts again. -/
def Sys2Proof.Claims.PresenceDebounced : Prop :=
  (∀ (low : Bool) (s : State), s.sec.sampling = true → Completes (.presenceSample low) s fun t =>
    t = { s with sec := t.sec }
    ∧ (low = true → t.sec.highRun = 0 ∧ t.sec.lowRun = min 20 (s.sec.lowRun + 1)
        ∧ t.sec.presence = (s.sec.presence || (decide (19 ≤ s.sec.lowRun) && !s.sec.needRelease)))
    ∧ (low = false → t.sec.lowRun = 0 ∧ t.sec.highRun = min 20 (s.sec.highRun + 1)
        ∧ t.sec.presence = (s.sec.presence && decide (s.sec.highRun < 19))
        ∧ t.sec.needRelease = (s.sec.needRelease && decide (s.sec.highRun < 19))))
  ∧ (∀ s : State, s.sec.presence = true → Completes .presenceStuck s fun t =>
      t.sec = { s.sec with presence := false, needRelease := true, presStuck := true }
      ∧ t = ({ s with sec := t.sec } : State).event Cls.sec Code.presenceStuck Obs.ofSec 0xFF 0 0)
  ∧ ∀ (low : Bool) (s : State), (s.sec.sampling = false → exec (.presenceSample low) s = .next s)
      ∧ (s.sec.presence = false → exec .presenceStuck s = .next s)

/-- R416: the second open sample of the seal loop in a row makes a break, once until two closed samples in a row; it is written to the
seal log, BREAKS rises and SEAL_BROKEN is sent. The acknowledgement succeeds only while the loop is sampled closed. Where the manual
leaves a corner to reading, it is the model's: log entry 56. -/
def Sys2Proof.Claims.SealBreaks : Prop :=
  (∀ s : State, s.sec.sampling = true → Completes (.sealSample false) s fun t =>
    if s.sec.openRun ≥ 1 ∧ s.sec.sealArmed = true then
      t.flash = { s.flash with breaks := (s.flash.breaks + 1) % 65536, sealBroken := true }
      ∧ t.sec.sealOpen = true ∧ t.sec.sealArmed = false
      ∧ t = ({ s with sec := t.sec, flash := t.flash } : State).event Cls.sec Code.sealBroken Obs.ofSec 0xFF 0 0
    else t = { s with sec := t.sec } ∧ t.sec.sealOpen = true ∧ t.sec.sealArmed = s.sec.sealArmed)
  ∧ (∀ s : State, s.sec.sampling = true → Completes (.sealSample true) s fun t =>
      t = { s with sec := t.sec } ∧ t.sec.sealOpen = false ∧ t.sec.openRun = 0
      ∧ t.sec.sealArmed = (s.sec.sealArmed || decide (s.sec.closedRun ≥ 1)))
  ∧ ∀ s : State, s.sec.presence = true → Completes (.sealAck .companion) s fun t =>
      if s.sec.sealOpen = true then t = { s with sec := t.sec } ∧ RefusedOrder s t 0x4006C Code.sealOpen
      else t = { s with flash := { s.flash with sealBroken := false }, sec := { s.sec with lastCmd := Code.ok } }

/-- R411 and R412: with presence counted and no break unacknowledged, each owner operation has its effect; without presence, or with a
break, each is refused in that order, recorded and counted, and changes nothing else. No other path reaches them. Where the manual
leaves a corner to reading, it is the model's: log entry 56. -/
def Sys2Proof.Claims.OwnerOperations : Prop :=
  (∀ s : State, s.sec.presence = true → s.flash.sealBroken = false →
    (Config.ed448Key s.sec.stagedKey = true → Completes (.ownerSet .companion) s fun t =>
        t.flash = { s.flash with ownerKey := some s.sec.stagedKey, keyBad := false } ∧ t.sec.clauseList = []
        ∧ t = ({ s with flash := t.flash, sec := t.sec } : State).event Cls.sec Code.ownerChanged Obs.ofSec 0xFF 0 0)
    ∧ (s.flash.ownerKey ≠ none → Completes (.ownerClear .companion) s fun t =>
        t.flash = { s.flash with ownerKey := none, keyBad := false } ∧ t.sec.clauseList = []
        ∧ t = ({ s with flash := t.flash, sec := t.sec } : State).event Cls.sec Code.ownerChanged Obs.ofSec 0xFF 0 0)
    ∧ (Completes (.debugUnlock .companion) s fun t => t.sec.debug = true
        ∧ t = ({ s with sec := t.sec } : State).event Cls.sec Code.debugUnlocked Obs.ofSec 0xFF 0 0)
    ∧ (Completes (.eraseShutdownRecords .companion) s fun t => t.flash = { s.flash with shutdowns := [] }
        ∧ t.pwr = { s.pwr with restricted := false })
    ∧ (Completes (.pwrRecErase .companion) s fun t => t.flash = { s.flash with shutdowns := [] }
        ∧ t.pwr = { s.pwr with restricted := false, lastCmd := Code.ok })
    ∧ (Completes (.eraseMapoutRecords .companion) s fun t => t.flash = { s.flash with mapouts := [] } ∧ t.stk = s.stk)
    ∧ Completes (.eraseErasureRecords .companion) s fun t => t.flash = { s.flash with erasures := [] } ∧ t.stk = s.stk)
  ∧ (∀ (op : Instr) (off : Nat) (s : State), (op, off) ∈ ownerOrders → s.sec.presence = false ∨ s.flash.sealBroken = true →
      Completes op s fun t => t = { s with sec := t.sec, pwr := { s.pwr with lastCmd := t.pwr.lastCmd } }
        ∧ RefusedOrder s t off (if s.sec.presence = false then Code.noPresence else Code.sealBroken))
  ∧ (∀ s : State, s.sec.presence = true → s.flash.sealBroken = false →
      (Config.ed448Key s.sec.stagedKey = false → Completes (.ownerSet .companion) s fun t =>
        t = { s with sec := t.sec } ∧ RefusedOrder s t 0x40010 Code.badValue)
      ∧ (s.flash.ownerKey = none → Completes (.ownerClear .companion) s fun t =>
        t = { s with sec := t.sec } ∧ RefusedOrder s t 0x40010 Code.ownerKeyState))
  ∧ ∀ (by_ : Master) (s : State), by_ ≠ .companion →
      exec (.ownerSet by_) s = .next s ∧ exec (.ownerClear by_) s = .next s ∧ exec (.debugUnlock by_) s = .next s
      ∧ exec (.sealAck by_) s = .next s ∧ exec (.pwrRecErase by_) s = .next s ∧ exec (.factoryReset by_ 0x46414354) s = .next s

/-- R404: an update erases the slot that does not run and ends with the image checked and named for the next boot, or erased with the
status of what failed; the slot that runs is untouched. Where the manual leaves a corner to reading, it is the model's: log entry 57.
-/
def Sys2Proof.Claims.FirmwareUpdates : Prop :=
  (∀ s : State, Completes .fwUpdate s fun t =>
    if s.sec.fwState = 1 then t = { s with sec := { s.sec with lastCmd := Code.fwBusy } }
    else t.otherSlot = [] ∧ t.sec.fwState = 1 ∧ t.sec.fwJobLen = s.sec.fwLen
      ∧ (if s.mgmt.slotB then t.flash.slotB = s.flash.slotB else t.flash.slotA = s.flash.slotA)
      ∧ t.flash.bootB = s.flash.bootB ∧ t = { s with sec := t.sec, flash := t.flash })
  ∧ (∀ (image : List Byte) (s : State), s.sec.fwState = 1 → Completes (.fwUpdateDone image) s fun t =>
      t.sec.fwState = 2 ∧ t = { s with sec := t.sec, flash := t.flash }
      ∧ (if image.length < s.sec.fwJobLen then
           t.otherSlot = [] ∧ t.flash.bootB = s.flash.bootB
           ∧ t.sec.fwStatus = (if s.linkUp then Code.compAccess else Code.linkDown)
         else match s.slotStatus (image.take s.sec.fwJobLen) with
           | some st => t.otherSlot = [] ∧ t.flash.bootB = s.flash.bootB ∧ t.sec.fwStatus = st
           | none => t.otherSlot = image.take s.sec.fwJobLen ∧ t.flash.bootB = !s.mgmt.slotB ∧ t.sec.fwStatus = Code.ok))
  ∧ ∀ s : State, s.sec.presence = true → s.flash.sealBroken = false → ∀ st, s.slotStatus s.otherSlot = some st →
      Completes (.fwRollback .companion) s fun t =>
        t = { s with sec := t.sec } ∧ RefusedOrder { s with sec := { s.sec with fwStatus := st } } t 0x40094 st

/-- R405: COMMIT makes the floor the SVN of the running firmware, which lies at or above it, revokes the keys its REVOKE names, ends OK
and changes nothing else, nothing at all where floor and keys are so already; a rollback, under presence, names the other slot for the
next boot only where that slot passes R402 anew, and leaves the fuses alone. -/
def Sys2Proof.Claims.CommitAndRollback : Prop :=
  (∀ s : State, s.sec.fwState ≠ 1 → Completes .fwCommit s fun t =>
      t.fuses.floor = max s.fuses.floor (leAt s.mgmt.firmware 0x0C 1)
      ∧ (s.fuses.floor ≤ leAt s.mgmt.firmware 0x0C 1 → t.fuses.floor = leAt s.mgmt.firmware 0x0C 1)
      ∧ (∀ key, key < 4 → bit t.fuses.revoked key = (bit s.fuses.revoked key || bit (leAt s.mgmt.firmware 0x0E 1) key))
      ∧ t.sec.fwStatus = Code.ok
      ∧ t = { s with sec := t.sec, fuses := { s.fuses with floor := t.fuses.floor, revoked := t.fuses.revoked } })
  ∧ ∀ s : State, s.sec.presence = true → s.flash.sealBroken = false → Completes (.fwRollback .companion) s fun t =>
      t = { s with flash := t.flash, sec := t.sec }
      ∧ t.flash = { s.flash with bootB := if s.slotStatus s.otherSlot = none then !s.mgmt.slotB else s.flash.bootB }
      ∧ (s.slotStatus s.otherSlot = none → t.sec.fwStatus = Code.ok)

/-! ### Loading a grammar image (R26, R57 to R63, R196, R197, R318, R333) -/

/-- R57 and R58: a load command while a load runs only sets LAST_CMD_STATUS to LOAD_BUSY; a partial image with no structure in force
ends NO_IMAGE; a length R57 does not allow ends IMG_FORMAT at offset 8; else reading begins with the source and length as they stand.
Where the manual leaves a corner to reading, it is the model's: log entry 39. -/
def Sys2Proof.Claims.ImageLoadStarts : Prop :=
  (∀ s : State, s.gram.busy = true → ∀ c : Instr, c = .loadFullImage ∨ c = .loadPartialImage →
    Completes c s fun t => t = { s with gram := { s.gram with lastCmd := Code.loadBusy } })
  ∧ (∀ s : State, s.gram.busy = false → Completes .loadFullImage s fun t =>
      if gramLenOk s.gram.len = true then
        t = { s with gram := { s.gram with lastCmd := Code.ok, kind := 0, state := .fetch,
                                           job := some { cmd := 1, src := s.gram.src, len := s.gram.len } } }
      else LoadRefused s t { status := Code.imgFormat, section_ := 0xFFFF, record := 8 })
  ∧ ∀ s : State, s.gram.busy = false → Completes .loadPartialImage s fun t =>
      if s.gram.image = none then LoadEnded s t Code.noImage
      else if gramLenOk s.gram.len = true then
        t = { s with gram := { s.gram with lastCmd := Code.ok, kind := 1, state := .fetch,
                                           job := some { cmd := 2, src := s.gram.src, len := s.gram.len } } }
      else LoadRefused s t { status := Code.imgFormat, section_ := 0xFFFF, record := 8 }

/-- R60: the image read goes through check 1 against the length and the command; a fault ends the load with where it lies, none moves
it to VERIFY. A read that never ends is FETCH_FAULT. Nothing else of the block changes. Where the manual leaves a corner to reading, it
is the model's: log entry 38. -/
def Sys2Proof.Claims.ImageReadAndChecked : Prop :=
  (∀ (image : List Byte) (j : LoadJob) (s : State), s.gram.job = some j → s.gram.state = .fetch →
    Completes (.imageFetchDone image) s fun t =>
      match checkFormat (slice image 0 j.len) j.len j.cmd with
      | none => t = { s with gram := { s.gram with
          state := .verify
          job := some { j with bytes := slice image 0 j.len, ownerKey := s.flash.ownerKey, keyBad := s.flash.keyBad } } }
      | some f => LoadRefused s t f)
  ∧ (∀ s : State, s.gram.state = .fetch → Completes .imageFetchTimeout s fun t => LoadEnded s t Code.fetchFault)
  ∧ (∀ (image : List Byte) (s : State), s.gram.state ≠ .fetch →
      exec (.imageFetchDone image) s = .next s ∧ exec .imageFetchTimeout s = .next s)
  ∧ ∀ (b : List Byte) (len cmd : Nat), checkFormat b len cmd = none →
      leAt b 8 4 = len ∧ leAt b 0 4 = 0x49474B41 ∧ leAt b 4 2 = 3 ∧ leAt b 6 1 + 1 = cmd ∧ 1 ≤ leAt b 0x0C 2 ∧ leAt b 0x0C 2 ≤ 12

/-- R60 and R402: VERIFY ends IMG_SIGNATURE where the signature does not hold; else checks 2 to 13 end the load with the first fault
found, or the image passes to APPLY. A refused image leaves the structure in force, the queues, the stacks and the memory as they were.
Where the manual leaves a corner to reading, it is the model's: log entries 38 and 40 and 42. -/
def Sys2Proof.Claims.ImageVerifiedOrRefused : Prop :=
  ∀ (j : LoadJob) (s : State), s.gram.job = some j → s.gram.state = .verify →
    (signatureGood s.mgmt.firmware j.ownerKey j.keyBad (leAt j.bytes 7 1) j.bytes = false →
      Completes .imageVerifyDone s fun t => LoadRefused s t { status := Code.imgSignature })
    ∧ (signatureGood s.mgmt.firmware j.ownerKey j.keyBad (leAt j.bytes 7 1) j.bytes = true →
      (∀ f, s.judgeImage j.bytes = some f → Completes .imageVerifyDone s fun t => LoadRefused s t f)
      ∧ (s.judgeImage j.bytes = none → ((parseImage j.bytes).partial_ = true → s.defined (parseImage j.bytes).target = true →
          Completes .imageVerifyDone s fun t =>
            t = { s with gram := { s.gram with state := .apply, job := some { j with image := some (parseImage j.bytes) },
                                               pending := some (parseImage j.bytes) } })
        ∧ ((parseImage j.bytes).partial_ = false → s.gram.image = none → Completes .imageVerifyDone s fun t =>
            t = { s with gram := t.gram, pwr := t.pwr, stk := t.stk, counts := t.counts, clockHeld := t.clockHeld } ∧ t.gram.image = none ∧ t.gram.state = .apply
            ∧ t.gram.mapped = false ∧ t.gram.job = some { j with image := some (parseImage j.bytes) }
            ∧ (t.pwr.restricted = false → t.below500 = false → t.gram.groupWait = s.gram.groupWait ∧
                ∀ n ∈ s.stacksToTrain (parseImage j.bytes), (t.stack n).state = .training ∧ bit t.pwr.domOn (32 + n) = true))
        ∧ ((parseImage j.bytes).partial_ = false → s.gram.image ≠ none →
            capacityFull (parseImage j.bytes) s.channelsInService = none → Completes .imageVerifyDone s fun t =>
              t.gram.state = .apply ∧ t.gram.mapped = true ∧ t.srv.state = 2 ∧ t.srv.ticking = s.srv.ticking
              ∧ t.srv.tick = s.srv.tick ∧ t.mgmt.bkgRun = 0)))

/-- Step 7 of R60, R26, R283 and R427: at the end of APPLY the image is in force, its serial and digest shown, loads counted, the
serving controller runs with the tick at 0, background work runs as ENABLES says, and ACCEPTED is sent. Where the manual leaves a
corner to reading, it is the model's: log entry 41. -/
def Sys2Proof.Claims.ImageInForce : Prop :=
  ∀ (img : Image) (s : State), s.gram.job.bind (·.image) = some img → s.gram.state = .apply → img.partial_ = false →
    s.gram.mapped = true → (∀ x, x ∈ s.stk → x.2.state ≠ .training) → s.gram.groupWait = [] →
    Completes .imageApplyDone s fun t =>
      t.gram.state = .inForce ∧ t.gram.status = Code.ok ∧ t.gram.job = none ∧ t.gram.digest = img.digest
      ∧ t.gram.serial = img.serial ∧ t.gram.pdigest = [] ∧ t.gram.loads = (s.gram.loads + 1) % 2 ^ 32
      ∧ (s.gram.image = none → t.gram.image = some img) ∧ (s.gram.image ≠ none → t.gram.image = s.gram.image)
      ∧ t.srv.state = 1 ∧ t.srv.tick = 0 ∧ t.srv.ticking = true ∧ t.mgmt.bkgRun = img.enables ∧ t.mgmt.telNext = 0

/-- R62: a partial image that creates a partition is applied at once, and takes no core from OFFLINE here: its records lie over the
structure in force, its cores are the target's, its digest is logged, and the load ends ACCEPTED. Where the manual leaves a corner to
reading, it is the model's: log entry 42. -/
def Sys2Proof.Claims.PartialImageCreatesPartition : Prop :=
  ∀ (j : LoadJob) (s : State), s.gram.job = some j → s.gram.state = .verify → s.gram.image ≠ none →
    signatureGood s.mgmt.firmware j.ownerKey j.keyBad (leAt j.bytes 7 1) j.bytes = true → s.judgeImage j.bytes = none →
    (parseImage j.bytes).partial_ = true → s.defined (parseImage j.bytes).target = false → (parseImage j.bytes).removes = false →
    s.returning (parseImage j.bytes) = [] →
    Completes .imageVerifyDone s fun t =>
      t.gram.image = some (s.srvImage.overlaid (parseImage j.bytes)) ∧ t.gram.state = .inForce ∧ t.gram.status = Code.ok
      ∧ t.gram.job = none ∧ t.gram.pending = none ∧ t.gram.loads = (s.gram.loads + 1) % 2 ^ 32
      ∧ (t.psched (parseImage j.bytes).target).cores = (parseImage j.bytes).newCores
      ∧ t.sec.partialLog = s.sec.partialLog ++ [(parseImage j.bytes).digest]
      ∧ t.gram.pdigest.look [] (parseImage j.bytes).target = (parseImage j.bytes).digest
      ∧ t = { s with gram := t.gram, cores := t.cores, sched := t.sched, sec := t.sec, mgmt := t.mgmt, fresh := t.fresh,
                     counts := t.counts, clockHeld := t.clockHeld, mem := t.mem, poison := t.poison, upsets := t.upsets,
                     xl := { s.xl with withdraws := t.xl.withdraws }, out := t.out }

/-- R333: a core returning from OFFLINE that passes its test becomes QUIESCENT with its registers at reset; one that fails stays
as it was and STATION_OFFLINE is sent; the load waits for the remaining tests. -/
def Sys2Proof.Claims.ReturningCoreTested : Prop :=
  ∀ (c k : Nat) (img : Image) (s : State), s.gram.job.bind (·.image) = some img → 12 * c + k ∈ s.gram.testing →
    s.gram.testing.erase (12 * c + k) ≠ [] →
    (Completes (.coreTestDone c k true) s fun t =>
      t = { s with cores := t.cores, gram := { s.gram with testing := s.gram.testing.erase (12 * c + k) } }
      ∧ (t.core c k).run = .quiescent ∧ (t.core c k).localStore = (s.core c k).localStore ∧ (t.core c k).queues = ⟨[], [], [], []⟩
      ∧ (t.core c k).preds = 0 ∧ (t.core c k).counters = [] ∧ (t.core c k).banks = []
      ∧ ∀ n, n ≠ 12 * c + k → t.cores.look {} n = s.cores.look {} n)
    ∧ Completes (.coreTestDone c k false) s fun t =>
      t = ({ s with gram := { s.gram with testing := s.gram.testing.erase (12 * c + k) } } : State).event Cls.sched
        Code.stationOffline Obs.ofSched (pidField (s.corePid c k)) (12 * c + k) 0

/-- R196 and R197: with every stack's training and checkers finished, the trained stacks enter service; in a first load the interleave
sets are built of the channels in service, and a first load that check 10 then refuses puts every stack back to self-refresh,
untrained. Where the manual leaves a corner to reading, it is the model's: log entry 41. -/
def Sys2Proof.Claims.BringupEnds : Prop :=
  ∀ (img : Image) (s : State), s.gram.job.bind (·.image) = some img → s.gram.state = .apply → img.partial_ = false →
    (∀ x, x ∈ s.stk → x.2.busy = false) → s.gram.groupWait = [] →
    Completes .stackBringupComplete s fun t =>
      (s.gram.mapped = true → t = { s with stk := t.stk })
      ∧ (s.gram.mapped = true → ∀ n, t.stack n =
          (if (s.stack n).state = .training then { s.stack n with state := .inService } else s.stack n))
      ∧ (s.gram.mapped = false → carveFits img (quotaSum img.parts) (setsOf img.hash s.channelsInService) = true →
          t = { s with stk := t.stk, sets := setsOf img.hash s.channelsInService, gram := { s.gram with mapped := true } })
      ∧ (s.gram.mapped = false → carveFits img (quotaSum img.parts) (setsOf img.hash s.channelsInService) = false →
          t.gram.status = Code.capacity ∧ t.gram.image = s.gram.image ∧ t.gram.job = none ∧ t.sets = s.sets
          ∧ ∀ n, (t.stack n).state = .selfRefresh ∧ (t.stack n).trained = false)

/-- R318: at a multiple of QUANTUM of the serving tick the block passes a scheduling-quantum boundary, where a partial image that waits
for its target is applied (R62): its records then lie over the structure in force. Between boundaries nothing happens. Where the manual
leaves a corner to reading, it is the model's: log entry 42. -/
def Sys2Proof.Claims.QuantumBoundary : Prop :=
  (∀ s : State, s.gram.image = none ∨ s.srv.state ≠ 1 ∨ s.srv.tick % s.srvImage.quantum ≠ 0 →
    exec .quantumBoundary s = .next s)
  ∧ ∀ s : State, s.gram.image ≠ none → s.srv.state = 1 → s.srv.tick % s.srvImage.quantum = 0 →
    Completes .quantumBoundary s fun t =>
      t.pending = s.pending ∧ t.fuses = s.fuses
      ∧ (s.gram.pending = none → t.gram = s.gram)
      ∧ ∀ img, s.gram.pending = some img → t.gram.pending = none ∧ t.gram.image = some (s.srvImage.overlaid img)

/-! ### Cores: commands from registers, dispatch, completion, faults (R84 to R86, R96 to R98, R100, R103 to R114) -/

/-- R113, R114 and R31: START on a quiescent core that a core set holds and whose bank is READY clears counters and predicates
and begins to fetch at the entry; STOP is taken at the next boundary; ABORT empties queues, FIFO and signals and leaves the core
quiescent, its banks and counters alone. A START that cannot be taken only says why; a core that is not there, or no image yet,
is recorded and changes nothing else. -/
def Sys2Proof.Claims.CoreStartStopAbort : Prop :=
  (∀ (c k bank entry : Nat) (s : State), s.coreRefused c k 4 = none → bank < 2 → entry < 4096 →
    Completes (.coreStart c k bank entry) s fun t =>
      t = { s with cores := t.cores, clockHeld := t.clockHeld }
      ∧ (∀ n, n ≠ 12 * c + k → t.cores.look {} n = s.cores.look {} n)
      ∧ (if (s.core c k).run ≠ .quiescent then t.core c k = { s.core c k with lastCmd := Code.coreBusy }
         else if s.corePid c k = none then t.core c k = { s.core c k with lastCmd := Code.stationForeign }
         else if ((s.core c k).bankOf bank).state ≠ .ready then t.core c k = { s.core c k with lastCmd := Code.clauseInvalid }
         else (t.core c k).run = .running ∧ (t.core c k).lastCmd = Code.ok ∧ (∀ n, (t.core c k).counter n = 0)
           ∧ (t.core c k).preds = 0 ∧ (t.core c k).halted = ⟨false, false, false, false⟩
           ∧ (t.core c k).disp.fetching = true ∧ (t.core c k).disp.pos = entry ∧ (t.core c k).disp.bank = bank
           ∧ (t.core c k).disp.stall = .none ∧ (t.core c k).disp.stop = false ∧ (t.core c k).disp.swap = none
           ∧ (t.core c k).queues = (s.core c k).queues ∧ (t.core c k).signals = (s.core c k).signals
           ∧ (t.core c k).ports = (s.core c k).ports ∧ (t.core c k).banks = (s.core c k).banks
           ∧ (t.core c k).localStore = (s.core c k).localStore ∧ (t.core c k).ib0 = (s.core c k).ib0
           ∧ (t.core c k).ib1 = (s.core c k).ib1))
  ∧ (∀ (c k : Nat) (s : State), s.coreRefused c k 4 = none → Completes (.coreStop c k) s fun t =>
      t = s.modCore c k fun x =>
        { x with lastCmd := Code.ok, disp := { x.disp with stop := x.disp.fetching && x.run != .offline } })
  ∧ (∀ (c k : Nat) (s : State), s.coreRefused c k 4 = none → Completes (.coreAbort c k) s fun t =>
      t = { s with cores := t.cores, fresh := t.fresh, answers := t.answers, recent := t.recent }
      ∧ (t.core c k).run = (if (s.core c k).run = .offline then .offline else .quiescent)
      ∧ (t.core c k).queues = ⟨[], [], [], []⟩ ∧ (t.core c k).afifo = [] ∧ (t.core c k).signals = []
      ∧ (t.core c k).halted = ⟨false, false, false, false⟩ ∧ (t.core c k).disp.fetching = false
      ∧ (t.core c k).counters = (s.core c k).counters ∧ (t.core c k).preds = (s.core c k).preds
      ∧ (t.core c k).ib0 = (s.core c k).ib0 ∧ (t.core c k).ib1 = (s.core c k).ib1
      ∧ (t.core c k).localStore = (s.core c k).localStore ∧ (t.core c k).qfault = (s.core c k).qfault
      ∧ (t.core c k).lastCmd = Code.ok)
  ∧ ∀ (c k bank entry : Nat) (s t : State), s.coreRefused c k 4 = some t →
      exec (.coreStart c k bank entry) s = .next t ∧ exec (.coreStop c k) s = .next t ∧ exec (.coreAbort c k) s = .next t
      ∧ t = s.recordAccess (if s.corePresent c k = true then Code.noImage else Code.badAccess) (coreOffset c k 4)

/-- R108: a LOAD of a bank that may be loaded takes the source and the length as they stand; a second one while it loads is
LOAD_BUSY; a bank being fetched from is BUSY_FETCH. R105, R101 and R102: STRAP_PEND clears; only the cluster's control core pushes
into the address FIFO, which takes at most 64 entries. -/
def Sys2Proof.Claims.BankLoadStrapAndFifo : Prop :=
  (∀ (c k bank : Nat) (s : State), bank < 2 → s.coreRefused c k (if bank = 0 then 0x34 else 0x44) = none →
    Completes (.ibLoad c k bank) s fun t =>
      if ((s.core c k).bankOf bank).state = .loading then t = s.modCore c k fun x => { x with lastCmd := Code.loadBusy }
      else if s.clusterPid c = none then
        t = s.modCore c k fun x => x.modBank bank fun b => { b with status := Code.stationForeign }
      else if (s.core c k).disp.fetched = bank ∧ ((s.core c k).run = .running ∨ (s.core c k).run = .draining ∨ (s.core c k).run = .faulted)
      then t = s.modCore c k fun x => x.modBank bank fun b => { b with status := Code.busyFetch }
      else t = s.modCore c k fun x => x.modBank bank fun b =>
        { b with state := .loading, words := [], names := [], jobSrc := b.src, jobLen := b.len })
  ∧ (∀ (c k : Nat) (s : State), s.coreRefused c k 0x24 = none → Completes (.strapPendClear c k) s fun t =>
      t = s.modCore c k fun x => { x with strapPend := false })
  ∧ (∀ (c k entry : Nat) (s : State), s.coreRefused c k 0x50 = none → entry < 2 ^ 64 →
      Completes (.afifoPush (.controlCore c) c k entry) s fun t =>
        t = s.modCore c k fun x =>
          if x.run = .offline ∨ 64 ≤ x.afifo.length then x else { x with afifo := x.afifo ++ [entry] })
  ∧ ∀ (by_ : Master) (c k entry : Nat) (s : State), s.coreRefused c k 0x50 = none → by_ ≠ .controlCore c →
      Completes (.afifoPush by_ c k entry) s fun t => t = s.recordAccess Code.badValue (coreOffset c k 0x50)

/-- R108, R109 and R111: a clause image read whole is judged in the order of R108; one that holds makes the bank READY with its
words and the stations its names resolve to, and a dispatcher that waits for the bank goes on at its entry; one that does not
makes it FAILED with the status and the name concerned. -/
def Sys2Proof.Claims.ClauseLoadEnds : Prop :=
  ∀ (c k bank : Nat) (u : Upset) (bytes : List Byte) (s s1 : State), s.corePresent c k = true → bank < 2 →
    ((s.core c k).bankOf bank).state = .loading →
    (s.strike u).readClause c k ((s.core c k).bankOf bank).jobSrc ((s.core c k).bankOf bank).jobLen = (.ok bytes, s1) →
    (∀ ws ns d, s1.judgeClause c ((s.core c k).bankOf bank).jobLen bytes = (.ready ws ns, some d) →
      Completes (.clauseLoadDone c k bank u) s fun t =>
        t = { s1 with cores := t.cores, sec := s1.sec.acceptClause d }
        ∧ (t.core c k).bankOf bank = { (s1.core c k).bankOf bank with
            state := .ready, status := Code.ok, name := 0, words := ws, names := ns }
        ∧ (t.core c k).queues = (s1.core c k).queues
        ∧ ((s1.core c k).disp.stall = .none → (t.core c k).disp = (s1.core c k).disp)
        ∧ ∀ en, (s1.core c k).disp.stall = .bankLoad bank en →
            (t.core c k).disp = { (s1.core c k).disp with fetching := true, pos := en, bank := bank, fetched := bank, stall := .none })
    ∧ (∀ st n d, s1.judgeClause c ((s.core c k).bankOf bank).jobLen bytes = (.failed st n, d) → (s1.core c k).disp.stall = .none →
      Completes (.clauseLoadDone c k bank u) s fun t =>
        t = { s1 with cores := t.cores, sec := match d with
                                               | none => s1.sec
                                               | some d => s1.sec.acceptClause d }
        ∧ (t.core c k).bankOf bank = { (s1.core c k).bankOf bank with state := .failed, status := st, name := n % 256 }
        ∧ (t.core c k).disp = (s1.core c k).disp)

/-- R84 and R110: the dispatcher places the verb at its fetch position in the queue its opcode names, if that holds fewer than 32, and
moves on past it; after an SJMP or an END it places nothing until that completes. A full queue holds it up; a position where no verb
begins faults queue S with VERB_INVALID. Where the manual leaves a corner to reading, it is the model's: log entry 14. -/
def Sys2Proof.Claims.VerbIsPlaced : Prop :=
  ∀ (c k : Nat) (s : State), s.corePresent c k = true → (s.core c k).run ≠ .offline → (s.core c k).disp.fetching = true →
    (s.core c k).disp.stall = .none → s.clusterStopped c = false → s.domainReady c = true → s.domainReady (16 + c) = true →
    let d := (s.core c k).disp
    let b := (s.core c k).bankOf d.bank
    let v := (nameIn b (parseVerb (b.word d.pos) (b.word (d.pos + 1)))).1
    let q := queueOf (parseVerb (b.word d.pos) (b.word (d.pos + 1))).opcode
    (b.placeable d.pos = true → ((s.core c k).queues.get q).length < 32 → Completes (.verbDispatch c k .none) s fun t =>
      t = { s with cores := t.cores } ∧ (∀ n, n ≠ 12 * c + k → t.cores.look {} n = s.cores.look {} n)
      ∧ (∃ e : QEntry, (t.core c k).queues = (s.core c k).queues.set ((s.core c k).queues.get q ++ [e]) q
          ∧ e.verb = v ∧ e.word = d.pos ∧ e.bank = d.bank ∧ e.phase = .waiting ∧ e.taken = 0 ∧ e.id = d.nextId)
      ∧ (t.core c k).disp = { d with pos := d.pos + (if v.ext then 2 else 1), nextId := d.nextId + 1,
                                     stall := if v.opcode = 0x8D then .jump else if v.opcode = 0x8F then .clauseEnd else .none })
    ∧ (b.placeable d.pos = true → 32 ≤ ((s.core c k).queues.get q).length → exec (.verbDispatch c k .none) s = .next s)
    ∧ (b.placeable d.pos = false → Completes (.verbDispatch c k .none) s fun t =>
        (t.core c k).qfault.s = { status := Code.verbInvalid, word := d.pos % 4096, bank := d.bank, valid := true }
        ∧ (t.core c k).run = .faulted ∧ (t.core c k).halted.s = true ∧ (t.core c k).disp.fetching = false
        ∧ (t.cluster c).irq = true)

/-- R104: a fault of a V, S or D queue writes QFAULT with the verb's word and bank, halts that queue alone, makes the core FAULTED,
raises the control core's interrupt, and sends an event where CORE_CTL.EVENT is set. Where the manual leaves a corner to reading, it is
the model's: log entry 15. -/
def Sys2Proof.Claims.QueueFaults : Prop :=
  ∀ (c k word bank addr : Nat) (q : Queue) (st : Status) (s : State), q ≠ .m →
    let t := s.queueFault c k q word bank addr st
    (t.core c k) = { s.core c k with
        qfault := (s.core c k).qfault.set { status := st, word := word % 4096, bank := bank, valid := true } q
        halted := (s.core c k).halted.set true q
        run := if (s.core c k).run = .offline then .offline else .faulted }
    ∧ (t.cluster c).irq = true
    ∧ ((s.core c k).event = false → t = { s with cores := t.cores, clusters := t.clusters })
    ∧ ((s.core c k).event = true → t = ({ s with cores := t.cores, clusters := t.clusters } : State).event Cls.verb st (Obs.ofCore c k)
        (pidField (s.corePid c k)) (queueNum q + 4 * (word % 4096) + 0x4000 * bank) addr)

/-- R98: a JOIN that waits on a V, S or D queue with a limit set faults its queue with JOIN_TIMEOUT, its counts untouched; with the
limit at zero nothing happens. -/
def Sys2Proof.Claims.JoinTimesOut : Prop :=
  (∀ (c k : Nat) (q : Queue) (e : QEntry) (rest : List QEntry) (s : State), s.corePresent c k = true →
    (s.core c k).halted.get q = false → (s.core c k).joinLimit ≠ 0 → (s.core c k).queues.get q = e :: rest →
    e.phase = .started → e.verb.isJoin = true → q ≠ .m →
    Completes (.joinTimeout c k q) s fun t => t = s.queueFault c k q e.word e.bank 0 Code.joinTimeout
      ∧ (t.core c k).signals = (s.core c k).signals ∧ (t.core c k).queues = (s.core c k).queues)
  ∧ ∀ (c k : Nat) (q : Queue) (s : State), (s.core c k).joinLimit = 0 → exec (.joinTimeout c k q) s = .next s

/-- R85 and R96: the finished verb at the front of an M, V or D queue, with nothing of it outstanding at a base die or a consumer,
completes: it leaves the queue, the counts it signals rise by one, and a core whose dispatcher has stopped is quiescent once its queues
are empty. A verb whose work is not done does not complete. Where the manual leaves a corner to reading, it is the model's: log entries
14 and 65. -/
def Sys2Proof.Claims.VerbCompletes : Prop :=
  (∀ (c k : Nat) (q : Queue) (e : QEntry) (rest : List QEntry) (s : State), q ≠ .s → s.corePresent c k = true →
    (s.core c k).run ≠ .offline → (s.core c k).halted.get q = false → (s.core c k).queues.get q = e :: rest →
    e.phase = .done → e.releases = [] → s.outstanding (issuerOf s c k q {} e) = false →
    (∀ w ∈ s.answers, ¬ (w.1 = (issuerOf s c k q {} e).writer ∧ w.2.1 = e.id)) →
    (∀ p < 4, bit e.verb.signal p = true → (s.core c k).signals.look 0 (4 * queueNum q + p) ≠ 255) →
    Completes (.verbComplete c k q) s fun t =>
      t = { s with cores := t.cores, sched := { s.sched with parts := t.sched.parts }, fresh := t.fresh, recent := t.recent }
      ∧ (∀ n, n ≠ 12 * c + k → t.cores.look {} n = s.cores.look {} n)
      ∧ (t.core c k).queues = (s.core c k).queues.set rest q
      ∧ (∀ p < 4, (t.core c k).signals.look 0 (4 * queueNum q + p)
          = (s.core c k).signals.look 0 (4 * queueNum q + p) + b2n (bit e.verb.signal p))
      ∧ (t.core c k).disp = (s.core c k).disp ∧ (t.core c k).counters = (s.core c k).counters
      ∧ (t.core c k).localStore = (s.core c k).localStore ∧ (t.core c k).ports = (s.core c k).ports
      ∧ ((s.core c k).disp.fetching = false → (s.core c k).run = .running →
          (t.core c k).run = (if (s.core c k).queues.set rest q = ⟨[], [], [], []⟩ then .quiescent else .draining)))
  ∧ ∀ (c k : Nat) (q : Queue) (e : QEntry) (rest : List QEntry) (s : State), (s.core c k).queues.get q = e :: rest →
      e.phase = .started → exec (.verbComplete c k q) s = .next s

/-- R100 and R110: a completed SJMP whose predicate held moves the fetch position to its target, one whose predicate did not leaves
it; a completed SWAP makes the switch pending; a completed END at which STOP has been taken stops the dispatcher. -/
def Sys2Proof.Claims.BranchesTakeEffect : Prop :=
  ∀ (c k : Nat) (e : QEntry) (rest : List QEntry) (s : State), s.corePresent c k = true → (s.core c k).run = .running →
    (s.core c k).halted.s = false → (s.core c k).queues.s = e :: rest → e.phase = .done → e.releases = [] → e.verb.signal = 0 →
    s.outstanding (issuerOf s c k .s {} e) = false →
    (∀ w ∈ s.answers, ¬ (w.1 = (issuerOf s c k .s {} e).writer ∧ w.2.1 = e.id)) → (s.core c k).disp.fetching = true →
    (e.verb.opcode = 0x8D → Completes (.verbComplete c k .s) s fun t =>
      (t.core c k).disp = { (s.core c k).disp with
        stall := .none, pos := if e.taken = 1 then e.verb.imm % 4096 else (s.core c k).disp.pos })
    ∧ (e.verb.opcode = 0x8E → Completes (.verbComplete c k .s) s fun t =>
      (t.core c k).disp = { (s.core c k).disp with
        swap := if e.taken = 1 then some (e.verb.imm % 4096) else (s.core c k).disp.swap })
    ∧ (e.verb.opcode = 0x8F → e.taken = 1 → (s.core c k).disp.stop = true → Completes (.verbComplete c k .s) s fun t =>
      (t.core c k).disp.fetching = false ∧ (t.core c k).disp.stop = false ∧ (t.core c k).disp.swap = none
      ∧ (t.core c k).nextValid = false)
    ∧ (e.verb.opcode = 0x8F → e.taken = 1 → (s.core c k).disp.stop = false → (s.core c k).disp.swap = none →
        (s.core c k).nextValid = true → ((s.core c k).bankOf (s.core c k).nextBank).state = .ready →
        Completes (.verbComplete c k .s) s fun t =>
          (t.core c k).disp.fetching = true ∧ (t.core c k).disp.pos = (s.core c k).nextEntry
          ∧ (t.core c k).disp.bank = (s.core c k).nextBank ∧ (t.core c k).disp.stall = .none ∧ (t.core c k).nextValid = false)

/-! ### The common and the scalar verbs (R91, R96, R99, R105, R110, R148, R180) -/

/-- R95: a verb of any queue that starts with its predicate not holding is done at once, and only that; R91: NOP does nothing else
either. Shown of NOP, JOIN and FENCE of every queue and of the verbs of the four queues. Where the manual leaves a corner to reading,
it is the model's: log entry 14. -/
def Sys2Proof.Claims.NopAndPredicates : Prop :=
  (∀ (c k : Nat) (q : Queue) (u : Upset) (e : QEntry) (s : State), Begins s c k q (64 * queueNum q) u e true →
    ({} : Form).ok q e.verb = true → Completes (.nop ⟨c, k⟩ q u) s fun t =>
      t = (begun s c k q u e true).done (issuerOf s c k q u e))
  ∧ ∀ (c k op : Nat) (q : Queue) (i : Instr) (u : Upset) (e : QEntry) (s : State),
      (i, op) ∈ [(.nop ⟨c, k⟩ q u, 64 * queueNum q), (.join ⟨c, k⟩ q u, 64 * queueNum q + 1), (.bind ⟨c, k⟩ q u, 64 * queueNum q + 2),
        (.unbind ⟨c, k⟩ q u, 64 * queueNum q + 3), (.fence ⟨c, k⟩ q u, 64 * queueNum q + 4)] ∨
      (q = .m ∧ (i, op) ∈ [(.mma c k u, 0x08), (.mdrain c k u, 0x09), (.mzero c k u, 0x0A)]) ∨
      (q = .v ∧ (i, op) ∈ [(.vmap c k u, 0x48), (.vred c k u, 0x49), (.vsmax c k u, 0x4A), (.vnorm c k u, 0x4B),
        (.vsample c k u, 0x4C)]) ∨
      (q = .s ∧ (i, op) ∈ [(.sset ⟨c, k⟩ u, 0x88), (.sinc ⟨c, k⟩ u, 0x89), (.sadd ⟨c, k⟩ u, 0x8A), (.sload c k u, 0x8B), (.scmp ⟨c, k⟩ u, 0x8C),
        (.sjmp ⟨c, k⟩ u, 0x8D), (.swap ⟨c, k⟩ u, 0x8E), (.endVerb ⟨c, k⟩ u, 0x8F), (.strap ⟨c, k⟩ u, 0x90)]) ∨
      (q = .d ∧ (i, op) ∈ [(.dcopy c k u, 0xC8), (.dgather c k u, 0xC9), (.dscatter c k u, 0xCA), (.dak2 c k u, 0xCB),
        (.dflush c k u, 0xCC), (.datom c k u, 0xCD), (.dcvcfg c k u, 0xCE)]) →
      s.corePresent c k = true → (s.core c k).run ≠ .offline → (s.core c k).halted.get q = false →
      pickVerb q op u.nth ((s.core c k).queues.get q) = some (e, true) → s.clusterStopped c = false →
      e.verb.holds (e.sees (s.core c k)).2 = false →
      Completes i s fun t =>
        t = (s.modCore c k fun y => { y with trapAddr := 0 }).modEntry (issuerOf s c k q u e) fun x => { x with phase := .done }

/-- R96: a JOIN whose counts have all been reached lowers each by what it waits for and is done; one that still waits changes no
count. R180: a FENCE of a scope below SYSTEM is done at once, one of SYSTEM scope once every write put on a flow has been
acknowledged. -/
def Sys2Proof.Claims.JoinAndFence : Prop :=
  (∀ (c k : Nat) (q : Queue) (u : Upset) (e : QEntry) (starts : Bool) (s : State), Begins s c k q (64 * queueNum q + 1) u e starts →
    ({ ext := .no, imm := 0xFFFFFFFF } : Form).ok q e.verb = true → e.verb.waits.getD (queueNum q) 0 = 0 →
    let b := begun s c k q u e starts
    Completes (.join ⟨c, k⟩ q u) s fun t =>
      t = { b with cores := t.cores } ∧ (∀ n, n ≠ 12 * c + k → t.cores.look {} n = b.cores.look {} n)
      ∧ (t.core c k).counters = (b.core c k).counters ∧ (t.core c k).localStore = (b.core c k).localStore
      ∧ ((∀ p < 4, e.verb.waits.getD p 0 ≤ (b.core c k).signals.look 0 (4 * p + queueNum q)) →
          (∀ p < 4, (t.core c k).signals.look 0 (4 * p + queueNum q)
              = (b.core c k).signals.look 0 (4 * p + queueNum q) - e.verb.waits.getD p 0)
          ∧ (t.core c k).queues = ((b.done (issuerOf s c k q u e)).core c k).queues)
      ∧ (¬ (∀ p < 4, e.verb.waits.getD p 0 ≤ (b.core c k).signals.look 0 (4 * p + queueNum q)) →
          (t.core c k).signals = (b.core c k).signals
          ∧ (t.core c k).queues = ((b.modEntry (issuerOf s c k q u e) fun x =>
              { x with phase := .started, worked := false }).core c k).queues))
  ∧ (∀ (c k : Nat) (q : Queue) (u : Upset) (e : QEntry) (starts : Bool) (s : State), Begins s c k q (64 * queueNum q + 4) u e starts →
      ({ ext := .no, scope := true } : Form).ok q e.verb = true →
      let b := begun s c k q u e starts
      (e.verb.scope ≠ 4 ∨ (b.sentFailed (b.core c k).sent = none ∧ b.sentDone (b.core c k).sent = true)) →
      Completes (.fence ⟨c, k⟩ q u) s fun t => t = b.done (issuerOf s c k q u e))

/-- R99: SSET, SINC and SADD set a counter modulo 2^32; SCMP compares a counter with a counter or the immediate, signed or unsigned,
and writes one predicate. Each reads the counters as they stood when it reached the head of its queue, and changes nothing else but that
verbs decoded already keep what they have read. R100, R110: SJMP, SWAP and END have no effect of their own before they complete.
R105: STRAP writes its code, makes it pending and interrupts the control core, and waits while one is pending. Where the manual leaves
a corner to reading, it is the model's: log entry 14. -/
def Sys2Proof.Claims.ScalarVerbs : Prop :=
  ∀ (c k : Nat) (u : Upset) (e : QEntry) (starts : Bool) (s : State),
    let s0 := begun s c k .s u e starts
    let a := issuerOf s c k .s u e
    let seen (n : Nat) : Nat := ((s0.entry a).sees (s0.core c k)).1.look 0 n
    let puts (n v : Nat) (t : State) : Prop :=
      t = ((s0.latch c k).modCore c k fun y => { y with counters := y.counters.put n (v % 2 ^ 32) }).done a
    (∀ n, parseOperand e.verb.dst = .counter n → (counterForm 0xFFFFFFFF).ok .s e.verb = true →
      (Begins s c k .s 0x88 u e starts → Completes (.sset ⟨c, k⟩ u) s fun t => puts n e.verb.imm t)
      ∧ (Begins s c k .s 0x8A u e starts → Completes (.sadd ⟨c, k⟩ u) s fun t => puts n (seen n + e.verb.imm) t))
    ∧ (∀ n, parseOperand e.verb.dst = .counter n → (counterForm 0).ok .s e.verb = true → Begins s c k .s 0x89 u e starts →
        Completes (.sinc ⟨c, k⟩ u) s fun t => puts n (seen n + 1) t)
    ∧ (∀ n, parseOperand e.verb.srca = .counter n → Begins s c k .s 0x8C u e starts →
        ({ srca := kCounter, srcb := kCounter + kNone, mode := 0x7F, imm := 0xFFFFFFFF, ext := .no } : Form).ok .s e.verb = true →
        bits e.verb.mode 0 3 ≤ 5 → Completes (.scmp ⟨c, k⟩ u) s fun t =>
          t = ((s0.latch c k).modCore c k fun y =>
            { y with preds := (putBit y.preds (bits e.verb.mode 4 3) (compare (bits e.verb.mode 0 3) (bit e.verb.mode 3) (seen n)
                (match counterOf e.verb.srcb with
                  | some m => seen m
                  | none => e.verb.imm))) }).done a)
    ∧ (jumpForm.ok .s e.verb = true → (Begins s c k .s 0x8D u e starts → Completes (.sjmp ⟨c, k⟩ u) s fun t => t = s0.done a)
        ∧ (Begins s c k .s 0x8E u e starts → Completes (.swap ⟨c, k⟩ u) s fun t => t = s0.done a))
    ∧ (({ ext := .no } : Form).ok .s e.verb = true → Begins s c k .s 0x8F u e starts →
        Completes (.endVerb ⟨c, k⟩ u) s fun t => t = s0.done a)
    ∧ (({ imm := 0xFFFFFFFF, ext := .no } : Form).ok .s e.verb = true → Begins s c k .s 0x90 u e starts →
        Completes (.strap ⟨c, k⟩ u) s fun t =>
          ((s0.core c k).strapPend = false → (s0.core c k).event = false →
            t = ((s0.modCore c k fun y => { y with strapCode := e.verb.imm, strapPend := true }).modCluster c fun y =>
              { y with irq := true }).done a)
          ∧ ((s0.core c k).strapPend = false → (s0.core c k).event = true →
            t = (((s0.modCore c k fun y => { y with strapCode := e.verb.imm, strapPend := true }).modCluster c fun y =>
              { y with irq := true }).event Cls.verb Code.ok (Obs.ofCore c k) a.pid e.verb.imm
                ((s0.entry a).word % 4096 + 4096 * (s0.entry a).bank)).done a)
          ∧ ((s0.core c k).strapPend = true → t = s0.modEntry a fun x => { x with phase := .started, worked := false }))

/-- R99: SLOAD puts the 32-bit element of its noun at the linear index IMM into a counter. Where the manual leaves a corner to reading,
it is the model's: log entry 19. -/
def Sys2Proof.Claims.ScalarLoad : Prop :=
  ∀ (c k n raw : Nat) (u : Upset) (e : QEntry) (starts : Bool) (v : View) (s s1 s2 : State),
    Begins s c k .s 0x8B u e starts → parseOperand e.verb.dst = .counter n →
    ({ dst := kCounter, srca := kNoun, imm := 0xFFFFFFFF } : Form).ok .s e.verb = true →
    let x := ctxOf s c k .s u e
    Runs (flatNoun x e.verb.srca e.verb.offsA {}) (begun s c k .s u e starts) v s1 →
    v.noun.compress = 0 → v.noun.layout = 0 → v.noun.format = fmtINT32 ∨ v.noun.format = fmtUINT32 → e.verb.imm < v.noun.count →
    Runs (readElems x.a v v.noun.path [unlinear v.noun.exts e.verb.imm]) s1 [raw] s2 →
    Completes (.sload c k u) s fun t =>
      t = ((s2.latch c k).modCore c k fun y => { y with counters := y.counters.put n (raw % 2 ^ 32) }).done x.a

/-! ### Stream ports: binding (R77 to R79, R82, R225) -/

/-- R77 to R79 and R225: BIND of an unbound port to a noun of a shape R78 allows and a station the partition may use binds it, as
producer or consumer; a consumer grants its peer one credit for each slot, a producer takes up the credits its peer has granted it. A
bank-side intake grants a producer two credits (R225); the serving controller's intake one (log entry 21). Where the manual leaves a
corner to reading, it is the model's: log entries 21 and 25. -/
def Sys2Proof.Claims.BindPorts : Prop :=
  ∀ (c k n h : Nat) (release : Bool) (q : Queue) (u : Upset) (e : QEntry) (starts : Bool) (v : View) (s s1 : State),
    Begins s c k q (64 * queueNum q + 2) u e starts →
    ({ dst := kPort, srca := kNoun, mode := 3, imm := 0xFFFF, ext := .no } : Form).ok q e.verb = true →
    ((begun s c k q u e starts).entry (issuerOf s c k q u e)).badName = false →
    parseOperand e.verb.dst = .port n release → parseOperand e.verb.srca = .noun h →
    let x := ctxOf s c k q u e
    let consumer := bit e.verb.mode 0
    let peer := e.verb.imm % 65536
    let self := coreStation c k + n
    let p := (s1.core c k).port n
    e.verb.imm < 65536 → Runs (useNoun x h 0 { written := consumer }) (begun s c k q u e starts) v s1 →
    bindShapeOk consumer peer v.noun = true → p.producer = false → p.consumer = false → s1.reach x.a.pid peer = none →
    (∀ f m, station peer = .flow f m → (s1.flow f m).stream = true ∧ (s1.flow f m).local_ = self) →
    (∀ f m, station peer = .unit f m 0 → consumer = false → (s1.chan f m).intakeBound.length < 64) →
    Completes (.bind ⟨c, k⟩ q u) s fun t =>
      if consumer = true then
        t = ((s1.modCore c k fun y => y.modPort n fun _ => { consumer := true, peer := peer, noun := v.noun, queue := q }).sendCredits
          x.a.pid self peer (v.noun.ext (v.noun.rank - 1))).done x.a
      else t = ((match station peer with
          | .unit f m 0 => (s1.modChan f m fun y => { y with intakeBound := y.intakeBound ++ [self] }).sendCredits x.a.pid peer self 2
          | .serving _ => s1.sendCredit x.a.pid peer self
          | _ => s1).modCore c k fun y => y.modPort n fun _ =>
            { producer := true, peer := peer, noun := v.noun, queue := q, credits := p.credits.filter (·.1 == peer) }).done x.a

/-- R82 and R92: UNBIND of a producer waits until every tile of it has been sent and taken, and then keeps only its credits; UNBIND of a
consumer whose peer is on the device first revokes its credits and waits until that is answered and no tile is on its way or landing.
UNBIND of an unbound port is done at once; a bound port is its own queue's alone to unbind, and another queue's verb faults with
STREAM_MISMATCH. Where the manual leaves a corner to reading, it is the model's: log entry 25. -/
def Sys2Proof.Claims.UnbindPorts : Prop :=
  ∀ (c k n : Nat) (release : Bool) (q : Queue) (u : Upset) (e : QEntry) (starts : Bool) (s : State),
    Begins s c k q (64 * queueNum q + 3) u e starts → ({ dst := kPort, ext := .no } : Form).ok q e.verb = true →
    parseOperand e.verb.dst = .port n release →
    let s0 := begun s c k q u e starts
    let a := issuerOf s c k q u e
    let p := (s0.core c k).port n
    let self := coreStation c k + n
    let goesOn (t : State) : State := t.modEntry a fun x => { x with phase := .started, worked := false }
    (p.consumer = false → p.producer = false → Completes (.unbind ⟨c, k⟩ q u) s fun t => t = s0.done a)
    ∧ (p.consumer = true ∨ p.producer = true → p.queue ≠ q → Completes (.unbind ⟨c, k⟩ q u) s fun t =>
        t = s0.verbFault c k q e.id (s0.core c k).trapAddr Code.streamMismatch)
    ∧ (p.consumer = false → p.producer = true → p.queue = q → p.staged = [] → p.unacked = [] → Completes (.unbind ⟨c, k⟩ q u) s fun t =>
        t = (match station p.peer with
          | .unit f m 0 => (s0.modCore c k fun y => y.modPort n fun p => { credits := p.credits }).modChan f m fun y =>
              { y with intakeBound := y.intakeBound.erase self }
          | _ => s0.modCore c k fun y => y.modPort n fun p => { credits := p.credits }).done a)
    ∧ (p.consumer = false → p.producer = true → p.queue = q → p.staged ≠ [] ∨ p.unacked ≠ [] → Completes (.unbind ⟨c, k⟩ q u) s fun t =>
        t = goesOn s0)
    ∧ (p.consumer = true → p.queue = q → (s0.entry a).phase ≠ .started → (∀ f m, station p.peer ≠ .flow f m) →
        (∀ m, station p.peer ≠ .xomon m) → Completes (.unbind ⟨c, k⟩ q u) s fun t =>
          t = goesOn { (s0.modCore c k fun y => y.modPort n fun p => { p with revoking := true }) with
            transit := s0.transit ++ [.revoke self p.peer] })
    ∧ (p.consumer = true → p.queue = q →
        (s0.entry a).phase = .started ∨ (∃ f m, station p.peer = .flow f m) ∨ (∃ m, station p.peer = .xomon m) →
        Completes (.unbind ⟨c, k⟩ q u) s fun t =>
          if p.revoking = false ∧ p.landing = none ∧ s0.tileTo self = false then t = (s0.modCore c k fun y => y.modPort n fun _ => {}).done a
          else t = goesOn s0)

/-! ### The matrix verbs (R116 to R130, R134, R135) -/

/-- R119 to R128 and R132: an MMA whose operands are there, whose formats are a pair of R119 and whose shapes fit its banks adds, to
each output position, the products along K; without ACC the banks are first set to the pair's kind with every position zero. It
starts its loads once no earlier MMA into its banks is in flight. Where the manual leaves a corner to reading, it is the model's:
log entries 14 and 15. -/
def Sys2Proof.Claims.MatrixMultiply : Prop :=
  ∀ (c k : Nat) (u : Upset) (e : QEntry) (starts : Bool) (a b : Tensor) (xa xb : Option View) (la lb : Loaded) (kind : AccKind)
      (four scaled : Bool) (s s1 s2 : State),
    Begins s c k .m 0x08 u e starts → mmaForm.ok .m e.verb = true → u.accumulator = false →
    let x := ctxOf s c k .m u e
    let acc := bit e.verb.mode 1
    let ta := bit e.verb.mode 2
    let tb := bit e.verb.mode 3
    let m := a.mext (if ta then 0 else 1)
    let n := b.mext (if tb then 1 else 0)
    let banks := banksOf e.verb.dst
    Runs (do
        let a ← given (← useSource x e.verb.srca e.verb.offsA {})
        let b ← given (← useSource x e.verb.srcb e.verb.offsB {})
        pure (a, b, ← useScale x e.verb.xa, ← useScale x e.verb.xb)) (begun s c k .m u e starts) (a, b, xa, xb) s1 →
    mmaClass a.fmt b.fmt = some (kind, four, scaled) → (a.fmt ≠ fmtFP64 ∧ b.fmt ≠ fmtFP64) ∨ s1.fuses.fp64 = true →
    loadable a.view.noun = true → loadable b.view.noun = true →
    a.mext (if ta then 1 else 0) = b.mext (if tb then 0 else 1) → scaleFits a xa (!ta) = true → scaleFits b xb tb = true →
    banks.length = ceilDiv m 32 * ceilDiv n 32 → (acc = true → ∀ i ∈ banks, s1.bankKind x.a i = kind) →
    (∀ p, a.port = some p ∨ b.port = some p → ((s1.core c k).port p).arrived ≠ 0) →
    ((s1.aheadOf x.a).any fun e => e.mmaInFlight && banks.any fun b => (banksOf e.verb.dst).contains b) = false →
    Runs (do pure (← load x a xa (!ta), ← load x b xb tb)) (if acc = true then s1 else s1.setBanks c k banks kind) (la, lb) s2 →
    Completes (.mma c k u) s fun t =>
      t = ((List.range m).foldl (fun s i => (List.range n).foldl (fun s j =>
          State.accumulate s c k kind la lb (kBlock four (bit e.verb.mode 0)) (banks.headD 0) (ceilDiv n 32) i j) s) s2).done x.a

/-- R126, R127 and R135: an MDRAIN of banks of one kind sums each position's partial sums exactly, rounds the sum once into the
destination's format as MODE says, writes every element, notes MSTAT, and with CLEAR leaves the banks NONE and zero once every line has
been written. Where the manual leaves a corner to reading, it is the model's: log entries 16 and 19. -/
def Sys2Proof.Claims.MatrixDrain : Prop :=
  ∀ (c k : Nat) (u : Upset) (e : QEntry) (starts : Bool) (d : Tensor) (s s1 s2 : State),
    Begins s c k .m 0x09 u e starts → mdrainForm.ok .m e.verb = true → u.accumulator = false →
    let x := ctxOf s c k .m u e
    let rounding := bits e.verb.mode 0 2
    let banks := banksOf e.verb.srca
    let kind := s1.bankKind x.a (banks.headD 0)
    let n := d.view.noun.ext 0
    let m := d.view.noun.ext 1
    let rnd : Rnd := if rounding = 0 then .ne else if rounding = 1 then .tz else .sat
    let places := (List.range m).flatMap fun i => (List.range n).map fun j => (j, i)
    let drained := s1.drainAll c k kind d.fmt rnd (places.map fun (j, i) => placeOf (banks.headD 0) (ceilDiv n 32) i j)
    rounding ≠ 3 → Runs (do given (← useDest x e.verb.dst e.verb.offsDst {})) (begun s c k .m u e starts) d s1 →
    d.view.noun.rank = 2 → d.view.noun.layout ≠ 4 → banks.length = ceilDiv m 32 * ceilDiv n 32 →
    (∀ i ∈ banks, s1.bankKind x.a i = kind) → drainOk kind d.fmt rounding = true →
    Runs (writeTensor x d ((places.zip drained.1).map fun ((j, i), r) => ([Int.ofNat j, Int.ofNat i], r.1.raw)) true)
      drained.2 () s2 →
    let noted := s2.modCore c k fun y =>
      { y with stat := y.stat.noteDrain d.fmt (drained.1.map (·.1)) rounding (kindNum kind)
                         ((drained.1.any (·.2)) || banks.any fun i => (y.banks.look {} i).wrapped) }
    let marked := if bit e.verb.mode 2 = true then noted.modEntry x.a fun y => { y with clear := banks } else noted
    Completes (.mdrain c k u) s fun t =>
      t = marked.done x.a
      ∧ ((marked.entry x.a).clear = banks → (marked.entry x.a).todo = [] → (marked.entry x.a).unanswered = false →
          ∀ i ∈ banks, (t.core c k).banks.look {} i = { kind := .none })

/-- R133: MZERO sets the banks it names to NONE with every position zero, and nothing else. -/
def Sys2Proof.Claims.MatrixZero : Prop :=
  ∀ (c k : Nat) (u : Upset) (e : QEntry) (starts : Bool) (s : State), Begins s c k .m 0x0A u e starts →
    ({ dst := kAcc, ext := .no } : Form).ok .m e.verb = true →
    let m := (begun s c k .m u e starts).setBanks c k (banksOf e.verb.dst) .none
    Completes (.mzero c k u) s fun t =>
      t = m.done (issuerOf s c k .m u e)
      ∧ (∀ b ∈ banksOf e.verb.dst, (m.core c k).banks.look {} b = { kind := .none })
      ∧ (∀ b, b ∉ banksOf e.verb.dst → (m.core c k).banks.look {} b = ((begun s c k .m u e starts).core c k).banks.look {} b)
      ∧ ((m.entry (issuerOf s c k .m u e)).clear = [] → (t.core c k).banks = (m.core c k).banks)

/-! ### The vector verbs (R136 to R147) -/

/-- R137 to R141 and R121: a VMAP whose sources are as many as its function takes and lie in layouts R151 allows does what its
function's kind does: a draw, a block quantised or restored, an integer function, or a function on lanes. A function on lanes whose
sources are read gives, at each index of the destination, the function of the lane values found there, broadcast and rounded once into
the destination's format, and notes VSTAT. Where the manual leaves a corner to reading, it is the model's: log entries 16 and 17 and
19. -/
def Sys2Proof.Claims.VectorMap : Prop :=
  ∀ (c k sources : Nat) (wide : Bool) (u : Upset) (e : QEntry) (starts : Bool) (d : Tensor) (a b g : Option Tensor) (s s1 s2 : State),
    Begins s c k .v 0x48 u e starts → vmapForm.ok .v e.verb = true → funcSources e.verb.mode = some (sources, wide) →
    ((parseOperand e.verb.srca).kind = kNone ↔ sources < 1) → ((parseOperand e.verb.srcb).kind = kNone ↔ sources < 2) →
    ((parseOperand e.verb.srcc).kind = kNone ↔ sources < 3) →
    (e.verb.mode = 0x39 ∨ e.verb.mode = 0x3A → (parseOperand e.verb.srcb).kind = kNoun) →
    let x := ctxOf s c k .v u e
    let func := e.verb.mode
    Runs (do
        let d ← given (← useDest x e.verb.dst e.verb.offsDst {})
        let a ← useSource x e.verb.srca e.verb.offsA {}
        let b ← useSource x e.verb.srcb e.verb.offsB { written := e.verb.mode == 0x39 }
        pure (d, a, b, ← useSource x e.verb.srcc e.verb.offsC {})) (begun s c k .v u e starts) (d, a, b, g) s1 →
    vectorLayouts (d :: [a, b, g].filterMap id) = true →
    ((if func = 0x40 then Runs (urandBody x d) s1 () s2
      else ∃ a', a = some a' ∧
        if func = 0x39 then ∃ b', b = some b' ∧ Runs (mxqBody x d a' b'.view) s1 () s2
        else if func = 0x3A then ∃ b', b = some b' ∧ Runs (mxdqBody x d a' b'.view) s1 () s2
        else if 0x30 ≤ func ∧ func ≤ 0x34 then ∃ b', b = some b' ∧ Runs (integerBody x func d a' b') s1 () s2
        else Runs (laneBody x func d a' b g) s1 () s2) →
      Completes (.vmap c k u) s fun t => t = s2.done x.a)
    ∧ ∀ (a' : Tensor) (ra rb rc : List Nat) (s3 : State), a = some a' → func ≠ 0x40 → func ≠ 0x39 → func ≠ 0x3A →
        ¬(0x30 ≤ func ∧ func ≤ 0x34) →
        let fmts := d.fmt :: a'.fmt :: ([b, g].filterMap id).map Tensor.fmt
        let lane := laneFormat fmts
        let idx := indices d.exts
        let read (o : Option Tensor) : VM (List Nat) := match o with
          | none => pure []
          | some t => readTensor x t (idx.map t.broadcast)
        let values (o : Option Tensor) (raws : List Nat) : List Machine.Num := match o with
          | none => idx.map fun _ => .nan
          | some t => raws.map (laneValue lane t.fmt)
        (∀ f ∈ fmts, vectorFormat f = true) → a'.exts = d.exts → (∀ t ∈ [b, g].filterMap id, t.fits d = true) →
        (lane = fmtFP64 → wide = true) → (func = 0x38 → d.fmt = fmtINT4 ∨ d.fmt = fmtINT8 ∨ d.fmt = fmtINT32) →
        Runs (do pure (← read (some a'), ← read b, ← read g)) s1 (ra, rb, rc) s2 →
        let ys := State.mapList (fun (t : Machine.Num × Machine.Num × Machine.Num) s => State.lane s lane func t.1 t.2.1 t.2.2 (valueOf fmtFP32 e.verb.imm))
          ((values (some a') ra).zip ((values b rb).zip (values g rc))) s2
        let out := ys.1.map (roundInto d.fmt (if func = 0x01 then .sat else .ne))
        Runs (writeTensor x d (idx.zip (out.map (·.raw))) true) ys.2 () s3 →
        Completes (.vmap c k u) s fun t =>
          let clipped := (func = 0x01 || func = 0x38) && out.any (·.clipped)
          t = (s3.modCore c k fun y => { y with stat := y.stat.noteVector d.fmt (out.map (·.raw)) clipped false }).done x.a

/-- R142: VRED reduces each row along its dimension to one element, by sum, largest, smallest, their indices, or sum of squares, and
notes VSTAT. A largest or smallest element is NaN where the row holds one, and an index is that of the first NaN or else the lowest
among equals. Where the manual leaves a corner to reading, it is the model's: log entry 16. -/
def Sys2Proof.Claims.VectorReduce : Prop :=
  ∀ (c k : Nat) (u : Upset) (e : QEntry) (starts : Bool) (d a : Tensor) (raws : List Nat) (s s1 s2 : State),
    Begins s c k .v 0x49 u e starts → vredForm.ok .v e.verb = true →
    let x := ctxOf s c k .v u e
    let op := bits e.verb.mode 0 3
    let dim := bits e.verb.mode 3 3
    let n := a.ext dim
    let idx := indices d.exts
    let lane := laneFormat [a.fmt, d.fmt]
    let rows := (List.range idx.length).map fun i => ((raws.drop (n * i)).take n).map (laneValue lane a.fmt)
    op ≤ 5 → Runs (do
        let d ← given (← useDest x e.verb.dst e.verb.offsDst {})
        pure (d, ← given (← useSource x e.verb.srca e.verb.offsA {}))) (begun s c k .v u e starts) (d, a) s1 →
    vectorLayouts [d, a] = true → dim < a.rank → d.exts = a.exts.set dim 1 → vectorFormat a.fmt = true → vectorFormat d.fmt = true →
    (op = 3 ∨ op = 4 → d.fmt = fmtUINT32) →
    Runs (readTensor x a (idx.flatMap fun i => (List.range n).map fun (j : Nat) => setAt i dim (j : Int))) s1 raws s2 →
    let ends (out : List Nat) (s3 s4 : State) : Prop := Runs (writeTensor x d (idx.zip out) true) s3 () s4 →
      Completes (.vred c k u) s fun t =>
        t = (s4.modCore c k fun y => { y with stat := y.stat.noteVector d.fmt out false false }).done x.a
    (∀ s4, let out := State.mapList (fun xs s => State.reduceRow s op lane d.fmt xs) rows s2
      ends out.1 out.2 s4)
    ∧ (op = 1 ∨ op = 2 → ∀ s4,
        ends (rows.map fun xs => (roundInto d.fmt .ne (xs.foldl (Num.pick (op == 1)) (xs.headD .nan))).raw) s2 s4)
    ∧ (op = 3 ∨ op = 4 → ∀ s4, ends (rows.map (argExtreme (op == 3))) s2 s4)

/-- R143: VSMAX of a matrix writes each row's softmax over its unmasked elements, and, where a statistics operand is named, the row's
maximum and sum; nothing is written to either before both can be, and what either receives is noted in VSTAT. Where the manual leaves
a corner to reading, it is the model's: log entry 17. -/
def Sys2Proof.Claims.VectorSoftmax : Prop :=
  ∀ (c k : Nat) (u : Upset) (e : QEntry) (starts : Bool) (d a : Tensor) (st : Option Tensor) (raws : List Nat) (s s1 s2 s4 : State),
    Begins s c k .v 0x4A u e starts → vsmaxForm.ok .v e.verb = true → (bit e.verb.mode 0 = true ∨ e.verb.imm = 0) →
    let x := ctxOf s c k .v u e
    let idx := indices a.exts
    let masked (i : List Int) : Bool := bit e.verb.mode 0 && decide (i.getD 0 0 > i.getD 1 0 + signed 32 e.verb.imm)
    let vals := (idx.zip raws).map fun (i, r) => if masked i then none else some (laneValue fmtFP32 a.fmt r)
    let rows := State.mapList (fun (r : Nat) s => State.softmaxRow s ((vals.drop (a.ext 0 * r)).take (a.ext 0)))
      (List.range (a.ext 1)) s2
    let out := rows.1.flatMap fun r => r.1.map fun v => (roundInto d.fmt .ne v).raw
    let stats := (List.range (a.ext 1)).flatMap fun (i : Nat) =>
      [([0, Int.ofNat i], (roundInto fmtFP32 .ne (rows.1.getD i ([], .nan, .nan)).2.1).raw),
       ([1, Int.ofNat i], (roundInto fmtFP32 .ne (rows.1.getD i ([], .nan, .nan)).2.2).raw)]
    Runs (do
        let d ← given (← useDest x e.verb.dst e.verb.offsDst {})
        let a ← given (← useSource x e.verb.srca e.verb.offsA {})
        pure (d, a, ← useSource x e.verb.srcc e.verb.offsC { written := true })) (begun s c k .v u e starts) (d, a, st) s1 →
    vectorLayouts (d :: a :: [st].filterMap id) = true → a.rank = 2 → d.exts = a.exts → vectorFormat a.fmt = true →
    vectorFormat d.fmt = true → a.fmt ≠ fmtFP64 → d.fmt ≠ fmtFP64 → (∀ t, st = some t → t.fmt = fmtFP32 ∧ t.exts = [2, a.ext 1]) →
    Runs (readTensor x a idx) s1 raws s2 →
    Runs (commitAll x (planVia d d.view.noun.path (idx.zip out) true ::
      (st.map fun t => planVia t t.view.noun.path stats true).toList)) rows.2 () s4 →
    Completes (.vsmax c k u) s fun t =>
      t = (s4.modCore c k fun y =>
        let noted := y.stat.noteVector d.fmt out false false
        { y with stat := if st.isSome then noted.noteVector fmtFP32 (stats.map (·.2)) false false else noted }).done x.a

/-- R144: VNORM writes each row over its root mean square, or less its mean over the root of its variance, times the gain and plus the
bias where one is named. Where the manual leaves a corner to reading, it is the model's: log entry 17. -/
def Sys2Proof.Claims.VectorNormalise : Prop :=
  ∀ (c k : Nat) (u : Upset) (e : QEntry) (starts : Bool) (d a g : Tensor) (b : Option Tensor) (raws gains : List Nat)
      (biases : Option (List Nat)) (s s1 s2 s4 : State),
    Begins s c k .v 0x4B u e starts → vnormForm.ok .v e.verb = true → e.verb.mode ≤ 1 →
    let x := ctxOf s c k .v u e
    let params := g :: [b].filterMap id
    let idx := indices a.exts
    let cols := a.ext 0
    let line := (List.range cols).map fun (i : Nat) => [Int.ofNat i]
    let vals := raws.map (laneValue fmtFP32 a.fmt)
    let gain := gains.map (laneValue fmtFP32 g.fmt)
    let bias := match b, biases with
      | some t, some rs => rs.map fun r => some (laneValue fmtFP32 t.fmt r)
      | _, _ => line.map fun _ => none
    let rows := State.mapList (fun (r : Nat) s => State.normRow s (e.verb.mode = 1) (valueOf fmtFP32 e.verb.imm)
      ((vals.drop (cols * r)).take cols)) (List.range (if a.rank = 2 then a.ext 1 else 1)) s2
    let out := rows.1.flatMap fun ys => (ys.zip (gain.zip bias)).map fun (y, g, b) =>
      (roundInto d.fmt .ne (match b with
        | none => y.mul g
        | some b => (roundTo fmtFP32 (y.mul g)).add b)).raw
    Runs (do
        let d ← given (← useDest x e.verb.dst e.verb.offsDst {})
        let a ← given (← useSource x e.verb.srca e.verb.offsA {})
        let g ← given (← useSource x e.verb.srcb e.verb.offsB {})
        pure (d, a, g, ← useSource x e.verb.srcc e.verb.offsC {})) (begun s c k .v u e starts) (d, a, g, b) s1 →
    vectorLayouts (d :: a :: params) = true → a.rank ≤ 2 → d.exts = a.exts →
    (∀ f ∈ d.fmt :: a.fmt :: params.map Tensor.fmt, vectorFormat f = true ∧ f ≠ fmtFP64) → (∀ t ∈ params, t.exts = [cols]) →
    Runs (do
        let raws ← readTensor x a idx
        let gains ← readTensor x g line
        match b with
        | none => pure (raws, gains, none)
        | some t => do pure (raws, gains, some (← readTensor x t line))) s1 (raws, gains, biases) s2 →
    Runs (writeTensor x d (idx.zip out) true) rows.2 () s4 →
    Completes (.vnorm c k u) s fun t =>
      t = (s4.modCore c k fun y => { y with stat := y.stat.noteVector d.fmt out false false }).done x.a

/-- R145: VSAMPLE writes one index for each row: with MODE 1 the index of its largest element, with MODE 0 the one its draw selects
among the K largest, and 0xFFFF_FFFF for a row that holds a NaN; a NaN or a draw outside [0, 1) is noted in SAMPLE_NAN. Where the
manual leaves a corner to reading, it is the model's: log entry 18. -/
def Sys2Proof.Claims.VectorSample : Prop :=
  ∀ (c k : Nat) (u : Upset) (e : QEntry) (starts : Bool) (d a : Tensor) (r : Option Tensor) (raws draws : List Nat)
      (s s1 s2 s4 : State),
    Begins s c k .v 0x4C u e starts → vsampleForm.ok .v e.verb = true →
    let x := ctxOf s c k .v u e
    let arg := bit e.verb.mode 0
    let cols := a.ext 0
    let vals := raws.map (laneValue fmtFP32 a.fmt)
    let rows := State.mapList (fun (i : Nat) s =>
      let row := (vals.drop (cols * i)).take cols
      if arg then (if row.any Num.isNan then (0xFFFFFFFF, true) else (argExtreme true row, false), s)
      else State.sampleRow s e.verb.imm row (draws.getD i 0)) (List.range (a.ext 1)) s2
    ((parseOperand e.verb.srcb).kind = kNone ↔ arg = true) →
    Runs (do
        let d ← given (← useDest x e.verb.dst e.verb.offsDst {})
        let a ← given (← useSource x e.verb.srca e.verb.offsA {})
        pure (d, a, ← useSource x e.verb.srcb e.verb.offsB {})) (begun s c k .v u e starts) (d, a, r) s1 →
    vectorLayouts (d :: a :: [r].filterMap id) = true → a.rank = 2 → d.fmt = fmtUINT32 → d.count = a.ext 1 →
    vectorFormat a.fmt = true → a.fmt ≠ fmtFP64 → (∀ t, r = some t → t.fmt = fmtFP32 ∧ t.count = a.ext 1) →
    Runs (do
        let raws ← readTensor x a (indices a.exts)
        match r with
        | none => pure (raws, (List.range (a.ext 1)).map fun _ => 0)
        | some t => do pure (raws, ← readTensor x t (indices t.exts))) s1 (raws, draws) s2 →
    Runs (writeTensor x d ((indices d.exts).zip (rows.1.map (·.1))) true) rows.2 () s4 →
    Completes (.vsample c k u) s fun t =>
      t = (s4.modCore c k fun y => { y with stat := y.stat.noteVector d.fmt (rows.1.map (·.1)) false (rows.1.any (·.2)) }).done x.a

/-! ### The DMA verbs (R93, R94, R101, R102, R163, R174, R181, R263 to R266, R271 to R282) -/

/-- R163 and R264: a DCOPY does with its operands what their kinds ask for; one without check values, codec and release reads every
element of its source and writes it into its destination, of the same format and shape. Where the manual leaves a corner to reading, it
is the model's: log entry 13. -/
def Sys2Proof.Claims.CopiesData : Prop :=
  ∀ (c k : Nat) (u : Upset) (e : QEntry) (starts : Bool) (d a : Tensor) (b : Option Tensor) (s s1 s2 : State),
    Begins s c k .d 0xC8 u e starts → (dcopyForm e.verb).ok .d e.verb = true → e.verb.mode ≠ 3 →
    let x := ctxOf s c k .d u e
    Runs (dcopyOperands x) (begun s c k .d u e starts) (d, a, b) s1 →
    (Runs (dcopyWork x d a b) s1 () s2 → Completes (.dcopy c k u) s fun t => t = s2.done x.a)
    ∧ ∀ (raws : List Nat) (s3 : State), e.verb.mode = 0 → e.verb.ordered 0 = false → b = none →
      (d.port.isSome = true ∨ d.view.noun.compress = 0) → (a.port.isSome = true ∨ a.view.noun.compress = 0) → a.fmt = d.fmt →
      (if a.port.isSome || d.port.isSome then a.count = d.count else a.exts = d.exts) →
      Runs (readVia x a (orderedPath x a.view.noun false) (indices a.exts)) s1 raws s2 →
      Runs (writeVia x d (orderedPath x d.view.noun true) ((indices d.exts).zip raws) true) s2 () s3 →
      Completes (.dcopy c k u) s fun t => t = s3.done x.a

/-- R174: DFLUSH of a noun in a core's local store does nothing; of one in a virtual space it writes back, and with MODE 1 drops, each
line of the noun's footprint that lies in device memory, and goes on until no write-back of any of them is on its way. -/
def Sys2Proof.Claims.FlushesLines : Prop :=
  ∀ (c k : Nat) (u : Upset) (e : QEntry) (starts : Bool) (v : View) (lines : List Nat) (s s1 s2 : State),
    Begins s c k .d 0xCC u e starts → ({ srca := kNoun, mode := 1 } : Form).ok .d e.verb = true →
    let x := ctxOf s c k .d u e
    Runs (flatNoun x e.verb.srca e.verb.offsA {}) (begun s c k .d u e starts) v s1 → v.noun.compress = 0 →
    let first := (v.footprint none).1.toNat / 128
    (v.noun.space ≠ 0 → Completes (.dflush c k u) s fun t => t = s1.done x.a)
    ∧ (v.noun.space = 0 →
        Runs (dramLines x.a ((List.range ((v.footprint none).2.toNat / 128 - first + 1)).map (· + first))) s1 lines s2 →
        Completes (.dflush c k u) s fun t =>
          let w := lines.foldl (fun s l => State.writeBackLine s c l x.a.writer x.a.id (bit e.verb.mode 0)) s2
          t = if lines.any (fun l => w.writingBack c l) = true then
                w.modEntry x.a fun y => { y with phase := .started, worked := false }
              else w.done x.a)

/-- R93: DGATHER writes, at each index of the destination, the table's element that the index noun selects, or the padding where CLAMP
is set and it selects none. An index out of range without CLAMP is INDEX_RANGE, with nothing written. Where the manual leaves a corner
to reading, it is the model's: log entry 19. -/
def Sys2Proof.Claims.GathersElements : Prop :=
  ∀ (c k : Nat) (u : Upset) (e : QEntry) (starts : Bool) (d : Tensor) (a i : View) (at_ : List Int) (s s1 s2 : State),
    Begins s c k .d 0xC9 u e starts →
    ({ dst := kNoun + kPort, srca := kNoun, srcb := kNoun, mode := 0x0F } : Form).ok .d e.verb = true →
    let x := ctxOf s c k .d u e
    let dim := bits e.verb.mode 0 3
    let good (j : Int) : Bool := decide (0 ≤ j) && decide (j < a.noun.ext dim)
    let source (o : List Int) : Int := at_.getD (o.getD dim 0).toNat 0
    let out := indices d.exts
    let real := out.filter fun o => good (source o)
    let pad := (padRaw a.noun.format a.noun.padval).getD 0
    Runs (do
        let d ← gatherDest x
        let a ← flatNoun x e.verb.srca e.verb.offsA {}
        pure (d, a, ← flatNoun x e.verb.srcb e.verb.offsB {})) (begun s c k .d u e starts) (d, a, i) s1 →
    allFlat [d.view.noun, a.noun, i.noun] = true → tableLayouts a.noun i.noun dim = true → dim < a.noun.rank → indexFormat i.noun.format = true →
    d.fmt = a.noun.format → d.exts = a.noun.exts.set dim i.noun.count → Runs (readIndices x i) s1 at_ s2 →
    (∀ (raws : List Nat) (s3 s4 : State), (bit e.verb.mode 3 = true ∨ at_.all good = true) →
      Runs (readElems x.a a a.noun.path (real.map fun o => o.set dim (source o))) s2 raws s3 →
      Runs (writeTensor x d (real.zip raws ++ (out.filter fun o => !good (source o)).map fun o => (o, pad)) true) s3 () s4 →
      Completes (.dgather c k u) s fun t => t = s4.done x.a)
    ∧ (bit e.verb.mode 3 = false → at_.all good = false →
        Completes (.dgather c k u) s fun t => t = s2.verbFault c k .d e.id (s2.core c k).trapAddr Code.indexRange)

/-- R93: DSCATTER stores each source element at the place its index selects, or with ADD adds it there, in an order left open; with
CLAMP an element whose index selects no place is dropped, and without it that is INDEX_RANGE, with nothing stored. Where the manual
leaves a corner to reading, it is the model's: log entries 24 and 80. -/
def Sys2Proof.Claims.ScattersElements : Prop :=
  ∀ (c k : Nat) (u : Upset) (e : QEntry) (starts : Bool) (d i : View) (a : Tensor) (at_ : List Int) (s s1 s2 : State),
    Begins s c k .d 0xCA u e starts → (dscatterForm e.verb).ok .d e.verb = true →
    let x := ctxOf s c k .d u e
    let dim := bits e.verb.mode 0 3
    let add := bit e.verb.mode 4
    let good (j : Int) : Bool := decide (0 ≤ j) && decide (j < d.noun.ext dim)
    let target (o : List Int) : Int := at_.getD (o.getD dim 0).toNat 0
    let src := indices a.exts
    Runs (do
        let d ← flatNoun x e.verb.dst e.verb.offsDst { written := true }
        let a ← flatSource x e.verb.srca e.verb.offsA
        pure (d, a, ← flatNoun x e.verb.srcb e.verb.offsB {})) (begun s c k .d u e starts) (d, a, i) s1 →
    allFlat [d.noun, a.view.noun, i.noun] = true → tableLayouts d.noun i.noun dim = true → dim < d.noun.rank → indexFormat i.noun.format = true →
    d.noun.format = a.fmt → a.exts = d.noun.exts.set dim i.noun.count →
    Runs (readIndices x i) s1 at_ s2 →
    (∀ (raws : List Nat) (s3 s4 : State), (bit e.verb.mode 3 = true ∨ at_.all good = true) → Runs (readTensor x a src) s2 raws s3 →
      let moves := ((src.zip raws).filter fun (o, _) => good (target o)).map fun (o, r) => (o.set dim (target o), r)
      let order := State.shuffle moves.length moves s3
      Runs (scatterMoves x d order.1 add) order.2 () s4 → Completes (.dscatter c k u) s fun t => t = s4.done x.a)
    ∧ (bit e.verb.mode 3 = false → at_.all good = false →
        Completes (.dscatter c k u) s fun t => t = s2.verbFault c k .d e.id (s2.core c k).trapAddr Code.indexRange)

/-- R28 to R30: scopes nest: each scope of an issuer contains its narrower ones, and a scope narrower than the issuer's narrowest
acts as that. Two issuers' scopes of one name are the same set of parties exactly when they share the core, the cluster or the die
that names it; DEVICE and SYSTEM are the same for every issuer. A core of cluster 3 shares DIE scope with a unit of stack 2, a core
of cluster 12 only DEVICE scope. -/
def Sys2Proof.Claims.ScopesNest : Prop :=
  (∀ (p q : Party) (a b : Nat), a ≤ b → p.reaches a q = true → p.reaches b q = true)
  ∧ (∀ (p q : Party) (a : Nat), p.reaches a p = true ∧ p.reaches a q = p.reaches (max a p.narrowest) q)
  ∧ (∀ p q : Party,
      (p.narrowest = 0 → q.narrowest = 0 → ((∀ r, p.reaches 0 r = q.reaches 0 r) ↔ p = q))
      ∧ (p.narrowest ≤ 1 → q.narrowest ≤ 1 → ((∀ r, p.reaches 1 r = q.reaches 1 r) ↔ p.cluster = q.cluster))
      ∧ (p.narrowest ≤ 2 → q.narrowest ≤ 2 → ((∀ r, p.reaches 2 r = q.reaches 2 r) ↔ p.die = q.die))
      ∧ (p.narrowest ≤ 3 → q.narrowest ≤ 3 → ∀ r, p.reaches 3 r = q.reaches 3 r)
      ∧ ∀ r, p.reaches 4 r = true)
  ∧ ∀ k ch : Nat, (Party.core 3 k).reaches 2 (.unit 2 ch) = true ∧ (Party.core 12 k).reaches 2 (.unit 2 ch) = false
      ∧ (Party.core 12 k).reaches 3 (.unit 2 ch) = true

/-- R181 and R182: a DATOM whose old value is known at once gives it to its destination; one performed elsewhere waits for the answer,
and takes it up when it has come. On a local-store word the atomic reads the word and writes what its operation makes of it; where the
last atomic there has not completed and the two are not atomic to each other, it may find the word as that one did. Where the manual
leaves a corner to reading, it is the model's: log entries 13 and 19. -/
def Sys2Proof.Claims.AtomicVerb : Prop :=
  (∀ (c k : Nat) (u : Upset) (e : QEntry) (starts : Bool) (s : State), Begins s c k .d 0xCD u e starts →
    let s0 := begun s c k .d u e starts
    let x := ctxOf s c k .d u e
    (∀ (old : Nat) (s1 : State), (s0.entry x.a).old = some old → Runs (takeOld x old) s0 () s1 →
      Completes (.datom c k u) s fun t => t = s1.done x.a)
    ∧ ((s0.entry x.a).old = none → (s0.entry x.a).asked ≠ [] → Completes (.datom c k u) s fun t =>
        t = s0.modEntry x.a fun y => { y with phase := .started, worked := false })
    ∧ ∀ (r : Option Nat) (s1 : State), (s0.entry x.a).old = none → (s0.entry x.a).asked = [] → Runs (datomStart x) s0 r s1 →
        (∀ (old : Nat) (s2 : State), r = some old → Runs (takeOld x old) s1 () s2 →
          Completes (.datom c k u) s fun t => t = s2.done x.a)
        ∧ (r = none → Completes (.datom c k u) s fun t =>
            t = if (s1.entry x.a).asked = [] then s1.done x.a
              else s1.modEntry x.a fun y => { y with phase := .started, worked := false }))
  ∧ ∀ (a : Issuer) (c k off scope : Nat) (o : AtomicOp) (b : List Byte) (s s1 : State),
      Runs (localRead a c k off (atomicSize o.code)) s b s1 →
      let spot := Spot.localStore (12 * c + k) off
      let size := atomicSize o.code
      let put (old : Nat) (t : State) : State :=
        ((t.noteAtomic spot a.writer scope a.id (leNat b)).noteWrote a (Target.window c k off).key (atomicMask size off)).localWrite
          c k off size (leBytes size (atomicResult o.code old o.x o.cmp)) (2 ^ size - 1)
      ((∀ r ∈ s1.recent, r.spot = spot → mutuallyAtomic a.writer scope r.writer r.scope = true) →
        Runs (localAtomic a c k off scope o) s (some (leNat b)) (put (leNat b) s1))
      ∧ ∀ (r : Recent), s1.recent.find? (fun r => r.spot == spot && !(mutuallyAtomic a.writer scope r.writer r.scope)) = some r →
          let drawn := s1.drawBelow 2
          let old := if drawn.1 = 1 then r.before else leNat b
          Runs (localAtomic a c k off scope o) s (some old) (put old drawn.2)

/-- R94 and R263: DCVCFG puts a configuration that R263 allows into the check-value unit, and faults VERB_INVALID with the unit
unchanged where it does not. -/
def Sys2Proof.Claims.ConfiguresCheckValues : Prop :=
  ∀ (c k : Nat) (u : Upset) (e : QEntry) (starts : Bool) (v : View) (raws : List Nat) (s s1 s2 : State),
    Begins s c k .d 0xCE u e starts → ({ srca := kNoun, ext := .no } : Form).ok .d e.verb = true →
    let x := ctxOf s c k .d u e
    Runs (flatNoun x e.verb.srca 0 {}) (begun s c k .d u e starts) v s1 → v.noun.compress = 0 → v.noun.count * v.noun.w = 256 →
    Runs (readElems x.a v v.noun.path (indices v.noun.exts)) s1 raws s2 →
    (∀ cfg, parseCv (packElems v.noun.w raws) = some cfg →
      Completes (.dcvcfg c k u) s fun t => t = (s2.modCore c k fun y => { y with cv := cfg }).done x.a)
    ∧ (parseCv (packElems v.noun.w raws) = none →
        Completes (.dcvcfg c k u) s fun t => t = s2.verbFault c k .d e.id (s2.core c k).trapAddr Code.verbInvalid)

/-- R101 and R102: a DAK2 takes its blocks one for each entry of the address FIFO: it is done when it has taken them all, and waits
while the FIFO is empty. -/
def Sys2Proof.Claims.AddressStreamCopies : Prop :=
  ∀ (c k : Nat) (u : Upset) (e : QEntry) (starts : Bool) (v : View) (s s1 : State),
    Begins s c k .d 0xCB u e starts →
    ({ srca := kNoun, mode := 0x1F, imm := 0xFFFF, ext := .no } : Form).ok .d e.verb = true →
    bits e.verb.mode 0 4 ≤ 6 → 1 ≤ e.verb.imm →
    let x := ctxOf s c k .d u e
    let size : Nat := 64 * 2 ^ bits e.verb.mode 0 4
    let first := (v.footprint none).1.toNat
    Runs (flatNoun x e.verb.srca 0 { written := !bit e.verb.mode 4 }) (begun s c k .d u e starts) v s1 → v.noun.compress = 0 →
    v.noun.space = 1 →
    (v.footprint none).1 + e.verb.imm * size ≤ (v.footprint none).2 + 1 →
    ((s1.core c k).afifo = [] → (s1.entry x.a).taken - 1 < e.verb.imm → Completes (.dak2 c k u) s fun t =>
      t = s1.modEntry x.a fun y => { y with phase := .started, worked := false })
    ∧ (e.verb.imm ≤ (s1.entry x.a).taken - 1 → Completes (.dak2 c k u) s fun t => t = s1.done x.a)
    ∧ ∀ (finished : Bool) (s2 : State), Runs (dak2Loop x v first size (bit e.verb.mode 4) e.verb.imm 65) s1 finished s2 →
        Completes (.dak2 c k u) s fun t =>
          t = if finished = true then s2.done x.a else s2.modEntry x.a fun y => { y with phase := .started, worked := false }

/-! ### Tile streams (R65, R68, R69, R78, R79, R82, R92, R225, R299) -/

/-- R68, R69, R79, R80, R104 and R369: a producer's next tile leaves for its peer only if the peer may be addressed, and only while it
holds a credit of that peer, which it spends; a peer that may not be addressed faults the tile's sender, and a queue that has faulted
sends nothing more. A flow of the Xomon link takes a tile at the link's own pace. Where the manual leaves a corner to reading, it is
the model's: log entries 25 and 65. -/
def Sys2Proof.Claims.TilesLeave : Prop :=
  ∀ (producer owner : Nat) (tile : List Byte) (rest : List (Nat × List Byte)) (p : Port) (s : State),
    s.stationPort producer = some p → p.staged = (owner, tile) :: rest →
    let taken := s.modStationPort producer fun p => { p with staged := rest }
    let spent := taken.modStationPort producer fun p =>
      { p with credits := p.credits.upd 0 p.peer (· - 1), unacked := p.unacked ++ [owner] }
    (s.producerHalted producer = true → Completes (.tileSend producer) s fun t => t = s)
    ∧ (s.producerHalted producer = false →
      (∀ st, (s.stationPid producer owner).bind (fun pid => s.reach pid p.peer) = some st →
        Completes (.tileSend producer) s fun t => t = taken.producerFault producer owner st)
      ∧ ((s.stationPid producer owner).bind (fun pid => s.reach pid p.peer) = none →
        ((∀ n, station p.peer ≠ .xomon n) → p.credits.look 0 p.peer = 0 → Completes (.tileSend producer) s fun t => t = s)
        ∧ (p.credits.look 0 p.peer ≠ 0 → (∀ f n, station p.peer ≠ .flow f n) → (∀ n, station p.peer ≠ .xomon n) →
            Completes (.tileSend producer) s fun t => t = { spent with transit := s.transit ++ [.tile producer p.peer tile] })
        ∧ (∀ f n, p.credits.look 0 p.peer ≠ 0 → station p.peer = .flow f n → Completes (.tileSend producer) s fun t =>
            t = (tilePackets (payloadBytes (s.flow f n).payload) tile).foldl (fun s k =>
              State.flowSend s f n k { tag := owner, key := producer }) spent)
        ∧ ∀ n, station p.peer = .xomon n → Completes (.tileSend producer) s fun t =>
            t = if s.linkUp then taken.xomonTile tile else s))

/-- R78 and R79: a tile of the right size from a consumer port's peer lands in the port's next slot, and once every byte of it has been
written the port counts it and it is acknowledged; a failure on the way faults the queue of the binding. A tile from another station or
of another size faults its producer with STREAM_MISMATCH; a core taken offline discards it. R225: a bank-side intake queues a 128-byte
descriptor from a bound producer. R299: a result tile of the serving core ends its group's work, and its credit goes back. Where the
manual leaves a corner to reading, it is the model's: log entries 21 and 25 and 65. -/
def Sys2Proof.Claims.TilesArrive : Prop :=
  ∀ (consumer source : Nat) (tile : List Byte) (rest : List Transit) (u : Upset) (s : State),
    takeTile consumer s.transit = some ((source, tile), rest) →
    let s0 : State := { s with transit := rest }
    (∀ c k n, station consumer = .core c k n →
      let p := (s.core c k).port n
      let id := p.landing.getD (s.core c k).disp.nextId
      let a : Issuer := { c := c, k := k, q := p.queue, id := id, pid := pidField (s.corePid c k), upset := u, direct := true }
      let landed : VM Bool := do
        if p.landing.isNone then
          writeLines a p.noun.path (p.tileLines tile)
          change fun s => s.modCore c k fun y =>
            { y.modPort n fun p => { p with landing := some id } with disp := { y.disp with nextId := id + 1 } }
        tileLanded a p.noun.path
      let from_ := (s0.strike u).modCore c k fun y => { y with trapAddr := 0 }
      ((s.core c k).run = .offline → Completes (.tileArrival consumer u) s fun t => t = s0.ackTile source)
      ∧ ((s.core c k).run ≠ .offline → p.consumer = false ∨ p.peer ≠ source ∨ tile.length ≠ p.tileBytes →
          Completes (.tileArrival consumer u) s fun t => t = s0.mismatch source)
      ∧ ((s.core c k).run ≠ .offline → p.consumer = true → p.peer = source → tile.length = p.tileBytes →
          (∀ done s1, Runs landed from_ done s1 → Completes (.tileArrival consumer u) s fun t =>
            t = if done then (s1.modCore c k fun y => y.modPort n fun p =>
                  { p with fill := (p.fill + 1) % p.slots, arrived := p.arrived + 1, landing := none }).ackTile source
                else { s1 with transit := s.transit })
          ∧ ∀ st s1, landed.run from_ = (.error (.fault st), s1) → Completes (.tileArrival consumer u) s fun t =>
              ((t.core c k).qfault.get p.queue).status = st ∧ ((t.core c k).qfault.get p.queue).valid = true
              ∧ (t.core c k).halted.get p.queue = true))
    ∧ (∀ n ch, station consumer = .unit n ch 0 → Completes (.tileArrival consumer u) s fun t =>
        t = if (s.chan n ch).intakeBound.contains source && tile.length == 128 then
              (s0.modChan n ch fun c => { c with intake := c.intake ++ [(source, tile)] }).ackTile source
            else s0.mismatch source)
    ∧ ∀ p g, station consumer = .serving p → bits (s.srv.ports.look {} p).peer 6 10 = bits source 6 10 → tile.length = 128 →
        let s1 := (s0.ackTile source).sendCredit (pidField (s0.stationPid source 0)) (0xC000 + p) source
        s1.srv.groups.seek (leAt tile 0 4) = some g → g.port = p → Completes (.tileArrival consumer u) s fun t =>
          t.srv.groups.look {} (leAt tile 0 4) = { g with result := some (leAt tile 4 1) }
          ∧ t = { s1 with srv := { s1.srv with groups := t.srv.groups, table := t.srv.table } }

/-- R79 and R82: a credit reaches the producer it was granted to, and is kept if the port is unbound or bound to that consumer; a
revocation takes back all the credits of its consumer, those still on their way before it among them, and tells it so. A port bound to
a flow of the Xomon link receives from companion memory while it has room (R80; log entry 25). -/
def Sys2Proof.Claims.CreditsReturn : Prop :=
  (∀ (producer source : Nat) (rest : List Transit) (s : State), takeCredit producer s.transit = some (source, rest) →
    (∀ p, station producer ≠ .serving p) → Completes (.creditArrival producer) s fun t =>
      t = ({ s with transit := rest } : State).modStationPort producer fun p =>
        if p.producer = false ∨ p.peer = source then { p with credits := p.credits.upd 0 source (· + 1) } else p)
  ∧ (∀ (c k n source : Nat) (rest : List Transit) (s : State), station (coreStation c k + n) = .core c k n →
      takeRevoke (coreStation c k + n) s.transit = some (source, rest) → ((s.core c k).port n).staged = [] →
      Completes (.creditRevoke (coreStation c k + n)) s fun t =>
        t = (({ s with transit := rest } : State).modCore c k fun y => y.modPort n fun p =>
          { p with credits := p.credits.filter (·.1 != source) }).modStationPort source fun q => { q with revoking := false })
  ∧ (∀ (x y : Nat) (ts : List Transit), takeRevoke y (.credit x y :: .credit x y :: .revoke x y :: ts) = some (x, ts))
  ∧ ∀ (x : Nat) (s : State), (takeTile x s.transit = none → s.xomonArrival x = s → ∀ u, exec (.tileArrival x u) s = .next s)
      ∧ (∀ c k n m p, station x = .core c k n → s.stationPort x = some p → station p.peer = .xomon m → p.consumer = true →
          s.linkUp = true → p.arrived < p.slots → s.tileTo x = false →
          let b := s.drawBytes p.tileBytes
          s.xomonArrival x = { b.2 with transit := s.transit ++ [.tile p.peer x b.1] })
      ∧ (takeCredit x s.transit = none → exec (.creditArrival x) s = .next s)
      ∧ (takeRevoke x s.transit = none → exec (.creditRevoke x) s = .next s)

/-! ### Lines at the base dies (R174, R192, R205, R207, R246 to R254) -/

/-- R207, R248 and R249: a whole line that reaches a channel in service, claimed by no sequence and held by no companion, stands in the
cells as a codeword of its bytes, free of poison and of wrong symbols, and every other byte of device memory is as it was. A part of a
line joins the channel's write-combining buffer and changes no cell. Only a cache copy of the writer's own cluster, and a verb that has
decoded an entry of a noun table standing there, see anything of it. -/
def Sys2Proof.Claims.LineWrites : Prop :=
  ∀ (w : Writer) (pa g off : Nat) (b : List Byte) (s : State), 1 ≤ b.length → pa % 64 + b.length ≤ 64 →
    s.locate (64 * (pa / 64)) = .cell g off → (s.stack (g / 32)).asleep = false → s.claimant w (pa / 64 / 1024) = none →
    s.companionHolds w (pa / 64) = false → s.transfers.look 0 (pa / 64) = 0 →
    ((s.chan (g / 32) (g % 32)).wcb.find? (·.line == pa / 64)) = none →
    (b.length ≠ 64 → (s.chan (g / 32) (g % 32)).wcb.length < 64) →
    Completes (.baseDieWrite w pa b) s fun t =>
      t = { s with mem := t.mem, poison := t.poison, upsets := t.upsets, stk := t.stk, cores := t.cores, clusters := t.clusters,
                   out := t.out, answers := t.answers }
      ∧ (pa < nounTablePa 0 ∨ nounTablePa 16 ≤ pa → t.cores = s.cores) ∧ (writerCluster w = none → t.clusters = s.clusters)
      ∧ (b.length = 64 → s.stuck.seek (pa / 64) = none →
          t.poison = s.poison.filter (· != pa / 64) ∧ t.upsets = s.upsets.drop (pa / 64)
          ∧ (Memory.wf s.mem = true → Memory.readList t.mem pa 64 = b)
          ∧ ∀ a, a < pa ∨ pa + 64 ≤ a → Memory.read t.mem a = Memory.read s.mem a)
      ∧ (b.length ≠ 64 →
          t.mem = s.mem ∧ t.poison = s.poison ∧ t.upsets = s.upsets
          ∧ ∃ x, (t.chan (g / 32) (g % 32)).wcb = (s.chan (g / 32) (g % 32)).wcb ++ [x] ∧ x.line = pa / 64
              ∧ x.mask = (2 ^ b.length - 1) * 2 ^ (pa % 64))

/-- R207: an entry that leaves the write-combining buffer is merged over the line's cells, where those can be read, and over a line
that cannot be read it leaves a poison word; an entry that is not there is nothing to do. -/
def Sys2Proof.Claims.BufferedLinesLeave : Prop :=
  (∀ (n ch line : Nat) (e : WcbEntry) (s : State), (s.chan n ch).wcb.find? (·.line == line) = some e → (s.stack n).lost = false →
    (s.deviation line).isEmpty = true → s.stuck.seek line = none → Completes (.wcbEvictTimeout n ch line {}) s fun t =>
      t = { s with mem := t.mem, poison := s.poison.filter (· != line), upsets := s.upsets.drop line, stk := t.stk }
      ∧ t.mem = Memory.writeList s.mem (64 * line) (mergeMask (Memory.readList s.mem (64 * line) 64) e.bytes e.mask)
      ∧ (t.chan n ch).wcb = (s.chan n ch).wcb.filter (·.line != line))
  ∧ (∀ (n ch line : Nat) (e : WcbEntry) (s : State), (s.chan n ch).wcb.find? (·.line == line) = some e → (s.stack n).lost = false →
      (s.deviation line).isEmpty = false →
      decodeWord (if (s.chan n ch).erase = 31 then none else some (s.chan n ch).erase) (s.deviation line) = .poisoned →
      Completes (.wcbEvictTimeout n ch line {}) s fun t => t.poison = insertLine line s.poison ∧ t.mem = s.mem)
  ∧ ∀ (n ch line : Nat) (u : Upset) (s : State), (s.chan n ch).wcb.find? (·.line == line) = none →
      exec (.wcbEvictTimeout n ch line u) s = .next s

/-- R246 to R254 and R209: a read of a sound line changes only what counts reads, but for a refresh that eight owed ones demand first;
one of a line first found uncorrectable makes it a poison word, logged, counted and told with its reader's station; a codeword's failed
crossings of a stack port are retried and counted, and a fifth is logged and has the port recalibrate. A checker reads only a channel
under test. -/
def Sys2Proof.Claims.LineReads : Prop :=
  ∀ (r : Reader) (pa g off at_ : Nat) (s : State), s.locate (64 * (pa / 64)) = .cell g off → s.cellAt pa = some (g, at_) →
    (s.stack (g / 32)).asleep = false → (s.stack (g / 32)).lost = false → s.transfers.look 0 (pa / 64) = 0 →
    let n := g / 32
    let ch := g % 32
    let line := pa / 64
    let counted := s.modStack n fun x =>
      if readerCode r = 0 then { x with portLines := x.portLines + 1 } else { x with unitLines := x.unitLines + 1 }
    let refreshed := if r = .unit then counted else counted.refreshFirst n ch
    let erasure := if (s.chan n ch).erase = 31 then none else some (s.chan n ch).erase
    ((s.deviation line).isEmpty = true →
      (r ≠ .checker → Completes (.baseDieRead r pa {} 0) s fun t => t = refreshed)
      ∧ ((s.chan n ch).owed < 8 → counted.refreshFirst n ch = counted)
      ∧ (8 ≤ (s.chan n ch).owed → ((counted.refreshFirst n ch).chan n ch).owed = (s.chan n ch).owed - 1)
      ∧ (readerCode r = 0 → ∀ failures, 0 < failures → Completes (.baseDieRead r pa {} failures) s fun t =>
          let retried := ({ refreshed with transfers := (s.transfers.put line failures).drop line } : State).modStack n fun x =>
            { x with retries := (x.retries + min failures 4) % 2 ^ 32, recalibrate := x.recalibrate || decide (5 ≤ failures) }
          t = if failures < 5 then retried else retried.logRead n ch line 2 0 [] false))
    ∧ ((s.deviation line).isEmpty = false → decodeWord erasure (s.deviation line) = .uncorrectable → r ≠ .checker →
        Completes (.baseDieRead r pa {} 0) s fun t =>
          t = refreshed.firstUncorrectable n ch line (readerStation n ch r) (readerCode r) ∧ line ∈ t.poison)
    ∧ ((s.gchan g).state ≠ .testing → ∀ failures, exec (.baseDieRead .checker pa {} failures) s = .next s)

/-- R169, R174 and R192: a cache line that is evicted is given up at once where it is clean; a dirty one is written back, and stays for
its cluster to read until the base dies have performed that. A stack whose port domain is on leaves self-refresh and takes the writes
that waited, in their order. -/
def Sys2Proof.Claims.EvictionAndWake : Prop :=
  (∀ (c line : Nat) (x : CacheLine) (s : State), (s.cluster c).cache.seek line = some x →
    let ops := x.writeBack line (.cache c) 0
    (ops = [] → x.back = 0 → Completes (.cacheEviction c line) s fun t =>
      t = s.modCluster c fun cl => { cl with cache := cl.cache.drop line })
    ∧ (ops ≠ [] ∨ x.back ≠ 0 → Completes (.cacheEviction c line) s fun t =>
        t = ops.foldl (fun s op => State.submit s op) (s.modCluster c fun cl => { cl with cache := cl.cache.put line { x with
          dirty := 0, leaving := true, back := ops.foldl (fun m op => putBit m (op.line % 2) true) x.back } }))
    ∧ (x.dirty = 0 → ops = [])
    ∧ ∀ op ∈ ops, op.line / 2 = line ∧ op.writer = .cache c ∧ op.mask = bits x.dirty (64 * (op.line % 2)) 64
        ∧ op.bytes = slice x.bytes (64 * (op.line % 2)) 64 ∧ op.back = true)
  ∧ (∀ (c line : Nat) (s : State), (s.cluster c).cache.seek line = none → exec (.cacheEviction c line) s = .next s)
  ∧ (∀ (n : Nat) (s : State), (s.stack n).asleep = true → (s.stack n).trained = true → s.domainReady (32 + n) = true →
      Completes (.stackPortWake n) s fun t =>
        t = (s.stack n).wakeQueue.foldl (fun s op => State.submit s op) (s.modStack n fun x =>
          { x with asleep := false, wakeWaits := false, wakeQueue := [], state := .inService }))
  ∧ ∀ (n : Nat) (s : State), (s.stack n).asleep = false ∨ (s.stack n).trained = false ∨ s.domainReady (32 + n) = false →
      exec (.stackPortWake n) s = .next s

/-! ### Stacks: channels, refresh, temperature, the checker, training (R193 to R196, R204 to R215, R235, R237) -/

/-- R204 to R206 and R69: a MAPOUT of a channel in service records it, takes it out with reason COMMAND, drops its unit's intake and
tells every partition; a RETURN of a channel that is out, of a sound stack and covered by both checker patterns erases the record and
appends the channel's region; each otherwise answers why not. Where the manual leaves a corner to reading, it is the model's: log
entries 29 and 70. -/
def Sys2Proof.Claims.ChannelsOutAndBack : Prop :=
  (∀ (n ch : Nat) (s : State), s.stackRefused n 0x1C = none → s.chanPresent n ch = true → (s.chan n ch).state ≠ .out →
    (s.chan n ch).state ≠ .testing → Completes (.channelMapout n ch) s fun t =>
      (t.chan n ch).state = .out ∧ (t.chan n ch).reason = 5 ∧ (t.chan n ch).intake = [] ∧ (t.stack n).lastCmd = Code.ok ∧ t.mem = s.mem
      ∧ t.sets = s.sets
      ∧ (s.flash.mapouts.seek (32 * n + ch) ≠ some 5 → t.flash = { s.flash with mapouts := s.flash.mapouts.put (32 * n + ch) 5 }
          ∧ (t.chan n ch).ue = 0 ∧ (t.chan n ch).mark0 = false ∧ (t.chan n ch).mark1 = false ∧ (t.chan n ch).wcb = []))
  ∧ (∀ (n ch : Nat) (s : State), s.stackRefused n 0x1C = none → s.chanPresent n ch = true → Completes (.channelReturn n ch) s fun t =>
      if (s.chan n ch).state ≠ .out then t = s.stackStatus n Code.channelInService
      else if (s.stack n).state = .failed ∨ (s.stack n).descAbsent ch = true ∨ (s.chan n ch).mark0 = false ∨ (s.chan n ch).mark1 = false
      then t = s.stackStatus n Code.tgMismatch
      else t.flash = { s.flash with mapouts := s.flash.mapouts.drop (32 * n + ch) }
        ∧ (t.chan n ch).state = .appended ∧ (t.chan n ch).reason = 0 ∧ (t.chan n ch).ue = 0
        ∧ (t.chan n ch).slot = (s.chan n ch).served.getD s.freeSlot ∧ (t.chan n ch).served = some (t.chan n ch).slot
        ∧ (t.stack n).lastCmd = Code.ok
        ∧ t = { s with flash := t.flash, stk := t.stk, mem := t.mem, poison := t.poison, upsets := t.upsets }
        ∧ ((s.chan n ch).left = [] → t.mem = s.mem ∧ t.poison = s.poison ∧ t.upsets = s.upsets))
  ∧ ∀ (n ch : Nat) (s : State), s.stackRefused n 0x1C = none → s.chanPresent n ch = false →
      ∀ i, i = .channelMapout n ch ∨ i = .channelReturn n ch → Completes i s fun t =>
        t = (s.stackStatus n Code.badValue).recordAccess Code.badValue (stackOffset n 0x1C)

/-- R208 and R209: a refresh that falls due on an idle channel repays one it owes; on a busy one it is owed, up to eight. R209, R249
and R373: a recalibration window changes no state but that a stack no longer asks for one. -/
def Sys2Proof.Claims.RefreshAndRecalibration : Prop :=
  (∀ (n ch : Nat) (busy : Bool) (s : State), s.chanPresent n ch = true → (s.stack n).asleep = false →
    Completes (.refreshDue n ch busy) s fun t =>
      t = { s with stk := t.stk } ∧ (t.chan n ch).owed ≤ max 8 (s.chan n ch).owed
      ∧ t.chan n ch = { s.chan n ch with owed := if busy = false then (s.chan n ch).owed - 1
                                                 else if (s.chan n ch).owed < 8 then (s.chan n ch).owed + 1 else (s.chan n ch).owed }
      ∧ ∀ m c, (m, c) ≠ (n, ch) → t.chan m c = s.chan m c)
  ∧ (∀ (n ch : Nat) (busy : Bool) (s : State), s.chanPresent n ch = false ∨ (s.stack n).asleep = true →
      exec (.refreshDue n ch busy) s = .next s)
  ∧ ∀ (fabric : Bool) (unit : Nat) (s : State), Completes (.phyRecalWindow fabric unit) s fun t =>
      t = if fabric = false ∧ s.stackPresent unit = true then s.modStack unit fun x => { x with recalibrate := false } else s

/-- R210, R211 and R235: a sample within −20 to 150 °C is the stack's temperature, sets or ends doubled refresh at TREF2, and joins the
millisecond's samples; one outside them, or none for 1 ms, is a failed sensor. Once a millisecond A falls by one, to 2 at least, where
every sample was at or above THROTTLE or the sensor has failed, and rises by one, to 16 at most, where every one was 3 °C or more
below; B_THERM does so with EARLY, between 8 and 16. Leaving 16 is told. Where the manual leaves a corner to reading, it is the
model's: log entry 31. -/
def Sys2Proof.Claims.StackTemperature : Prop :=
  (∀ (n : Nat) (q : Int) (s : State), s.stackPresent n = true → -80 ≤ q → q ≤ 600 → Completes (.stackTempSample n q) s fun t =>
    t = { s with stk := t.stk, thm := { s.thm with t := t.thm.t }, mgmt := t.mgmt, fresh := t.fresh, counts := t.counts,
                 clockHeld := t.clockHeld }
    ∧ (t.stack n).temp = unsigned 12 q ∧ (t.stack n).sensorFail = false ∧ (t.stack n).samples = (q :: (s.stack n).samples).take 10
    ∧ (t.stack n).refresh2 = (if q > 4 * ((s.stack n).tref2 : Int) then true
        else if q < 4 * ((s.stack n).tref2 : Int) - 4 then false else (s.stack n).refresh2)
    ∧ ∀ m, m ≠ n → t.stack m = s.stack m)
  ∧ (∀ (n : Nat) (q : Int) (s : State), s.stackPresent n = true →
      let failed (t : State) : Prop := t = s.modStack n fun x => { x with sensorFail := true, samples := [], riseSamples := [] }
      Completes (.stackSensorTimeout n) s failed ∧ (q < -80 ∨ 600 < q → Completes (.stackTempSample n q) s failed))
  ∧ (∀ (n : Nat) (s : State), s.stackPresent n = true →
      let x := s.stack n
      let a := if x.allAbove x.throttle then max 2 (x.admitMax - 1) else if x.allBelow x.throttle then min 16 (x.admitMax + 1)
        else x.admitMax
      let b := if x.allAbove x.early then max 8 (x.bTherm - 1) else if x.allBelow x.early then min 16 (x.bTherm + 1) else x.bTherm
      (Completes (.stackAdmitUpdate n) s fun t => (t.stack n).admitMax = a
        ∧ (¬ (x.admitMax = 16 ∧ a < 16) → t = { s with stk := t.stk })
        ∧ (x.admitMax = 16 ∧ a < 16 → (t.stack n).hot = true
            ∧ t = ({ s with stk := t.stk } : State).event Cls.stk Code.stackHot (Obs.ofStack n) 0xFF n 0))
      ∧ Completes (.bsuShareUpdate n) s fun t => (t.stack n).bTherm = b
        ∧ (¬ (x.bTherm = 16 ∧ b < 16) → t = { s with stk := t.stk })
        ∧ (x.bTherm = 16 ∧ b < 16 → t = ({ s with stk := t.stk } : State).event Cls.bsu Code.seqHot (Obs.ofStack n) 0xFF n 0))
  ∧ ∀ (n : Nat) (q : Int) (s : State), s.stackPresent n = false → exec (.stackTempSample n q) s = .next s
      ∧ exec (.stackSensorTimeout n) s = .next s ∧ exec (.stackAdmitUpdate n) s = .next s ∧ exec (.bsuShareUpdate n) s = .next s

/-- R212 to R215: START on channels that are all out runs the pattern on the masked channels, which read TESTING while it lasts; STOP
ends it at the next line. At its end each channel counts its failing lines and the first of them, a line failing that reads back other
than as written, with more than one symbol corrected or not at all; a failing line clears its coverage marks, a whole run without one
sets those of its patterns; the channel goes back out, its range holding the pattern's data, and the end is told with OK or
TG_MISMATCH. Where the manual leaves a corner to reading, it is the model's: log entries 9 and 32. -/
def Sys2Proof.Claims.CheckerRuns : Prop :=
  (∀ (n : Nat) (s : State), s.stackRefused n 0x418 = none →
    let x := s.stack n
    (¬ (((x.tg.both = true ∨ x.tg.pattern = 0) ∧ x.tg.seed = 0)) → x.tg.run = none →
      (∀ ch ∈ bitsSet 32 x.tg.mask, (s.chan n ch).state = .out ∧ x.descAbsent ch = false) → x.state ≠ .failed →
      Completes (.tgStart n) s fun t =>
        t = { s with stk := t.stk } ∧ (t.stack n).tg = { x.tg with
          state := 1, run := some (x.tg.mask, x.tg.lo, x.tg.hi, x.tg.pattern, x.tg.both), stopped := false, bringup := false }
        ∧ (t.stack n).lastCmd = Code.ok ∧ (∀ ch ∈ bitsSet 32 x.tg.mask, (t.chan n ch).state = .testing)
        ∧ ∀ m ch, (m ≠ n ∨ ch ∉ bitsSet 32 x.tg.mask) → t.chan m ch = s.chan m ch)
    ∧ Completes (.tgStop n) s fun t => t = (s.modTg n fun y => { y with stopped := y.stopped || y.run.isSome }).stackStatus n Code.ok)
  ∧ ∀ (n mask lo hi pattern : Nat) (both : Bool) (found : List (Nat × Nat × List (Nat × Nat))) (s : State),
      (s.stack n).tg.run = some (mask, lo, hi, pattern, both) → (s.stack n).tg.bringup = false → s.gram.groupWait = [] → s.stuck = [] →
      let tg := (s.stack n).tg
      let lines (ch : Nat) : Tbl Deviation := (found.filter fun x => x.1 == ch && (decide (lo ≤ x.2.1) && decide (x.2.1 < hi))).foldl
        (fun (t : Tbl Deviation) x => t.put x.2.1 x.2.2) []
      let failing (ch : Nat) : List Nat := ((lines ch).filter fun (_, d) => match s.lineWrong n ch d with
        | .clean off => !off.isEmpty
        | .corrected off symbols => decide (1 < symbols.length) || !off.isEmpty
        | .poisoned => true
        | .uncorrectable => true).map (·.1)
      let whole := decide (lo = 0) && decide (hi = 0x2000000) && !tg.stopped
      let st := if (bitsSet 32 mask).any fun ch => !(failing ch).isEmpty then Code.tgMismatch else Code.ok
      Completes (.tgRunEnd n found) s fun t =>
        t = { s with stk := t.stk, mem := t.mem, poison := t.poison, upsets := t.upsets, mgmt := t.mgmt, fresh := t.fresh,
                     counts := t.counts, clockHeld := t.clockHeld }
        ∧ (t.stack n).tg = { tg with state := 2, status := st, run := none, stopped := false, bringup := false }
        ∧ (∀ a, Memory.wf s.mem = true → Memory.read t.mem a = 0 ∨ Memory.read t.mem a = Memory.read s.mem a)
        ∧ ∀ ch ∈ bitsSet 32 mask, (t.chan n ch).state = .out ∧ (t.chan n ch).fails = (failing ch).length % 2 ^ 32
          ∧ (t.chan n ch).first = ((failing ch).min?.getD 0) % 2 ^ 25
          ∧ (t.chan n ch).mark0 = ((failing ch).isEmpty && ((s.chan n ch).mark0 || (whole && (both || pattern == 0))))
          ∧ (t.chan n ch).mark1 = ((failing ch).isEmpty && ((s.chan n ch).mark1 || (whole && (both || pattern == 1))))
          ∧ (tg.stopped = false → (t.chan n ch).left = (s.chan n ch).left ++
              if both then [(lo, hi, 1, tg.seed), (lo, lo + (hi - lo), 0, tg.seed)] else [(lo, lo + (hi - lo), pattern, tg.seed)])

/-- R193 to R195: in a bring-up, a good descriptor with at most four channels beyond repair keeps the rate, with the base die awake and
its checker's run begun; a second bad descriptor, or too many bad channels at the last rate, fails the stack; a first bad one or a
higher rate is tried again. Where the manual leaves a corner to reading, it is the model's: log entry 30. -/
def Sys2Proof.Claims.StackTraining : Prop :=
  ∀ (n : Nat) (d : List Byte) (lanes : List (Nat × Nat × Nat)) (s : State), s.stackPresent n = true → (s.stack n).initialised = true →
    (s.stack n).state = .training → (s.stack n).trained = false → s.gram.state = .apply → s.gram.groupWait = [] →
    let rate := max (leAt d 2 1) (s.stack n).rateCap + (s.stack n).tries
    let bad := (List.range 32).filter fun ch => s.chanPresent n ch && (decide (2 ≤ lanesFailed lanes ch 0)
      || decide (2 ≤ lanesFailed lanes ch 1) || decide (2 < lanesFailed lanes ch 0 + lanesFailed lanes ch 1))
    (descriptorGood d = false → (s.stack n).descFailed = false → Completes (.stackTrainDone n d lanes) s fun t =>
      t = s.modStack n fun x => { x with descFailed := true })
    ∧ (descriptorGood d = false → (s.stack n).descFailed = true → Completes (.stackTrainDone n d lanes) s fun t =>
        (t.stack n).state = .failed ∧ (t.stack n).trained = false
        ∧ ∀ ch < 32, s.chanPresent n ch = true → (t.chan n ch).state = .out ∧ (t.chan n ch).reason = 1)
    ∧ (descriptorGood d = true → bad.length ≤ 4 → Completes (.stackTrainDone n d lanes) s fun t =>
        (t.stack n).trained = true ∧ (t.stack n).rate = rate ∧ (t.stack n).asleep = false ∧ (t.stack n).descriptor = d
        ∧ (t.stack n).admitMax = 16 ∧ (t.stack n).tg.bringup = true
        ∧ (∃ mask, (t.stack n).tg.run = some (mask, 0, 0x2000000, 1, true))
        ∧ ∀ ch < 32, s.chanPresent n ch = true →
            (t.chan n ch).spares = min 2 (lanesFailed lanes ch 0 + lanesFailed lanes ch 1)
            ∧ (t.chan n ch).erase = s.flash.erasures.look (descErase d ch) (32 * n + ch)
            ∧ (t.chan n ch).state = if bit (leAt d 4 4) ch = true then .testing else .out)
    ∧ (descriptorGood d = true → 4 < bad.length → rate < 2 → Completes (.stackTrainDone n d lanes) s fun t =>
        t = s.modStack n fun x => { x with tries := x.tries + 1, descriptor := d })
    ∧ (descriptorGood d = true → 4 < bad.length → 2 ≤ rate → Completes (.stackTrainDone n d lanes) s fun t =>
        (t.stack n).state = .failed ∧ (t.stack n).trained = false
        ∧ ∀ ch < 32, s.chanPresent n ch = true → (t.chan n ch).state = .out ∧ (t.chan n ch).reason = 1)

/-! ### Bank-side units (R217 to R243) -/

/-- The sequence a taken descriptor makes, its lead the unit whose intake held it. -/
def Sys2Proof.Claims.seqOf (n ch src pid : Nat) (raw : List Byte) : Machine.Seq :=
  { desc := parseSeq raw, pid := pid, leadStack := n, leadChannel := ch, issuer := src, stks := [n] }

/-- What the command `c` of operation `op` does with a descriptor of that operation at the head of an intake. -/
def Sys2Proof.Claims.TakesDescriptor (n ch : Nat) (u : Upset) (s : State) (c : Instr) (op : Nat) : Prop :=
  ∀ (src pid : Nat) (raw : List Byte) (rest : List (Nat × List Byte)), (s.chan n ch).intake = (src, raw) :: rest →
    (parseSeq raw).op = op → s.domainReady (44 + n) = true → s.senderPid src = some pid →
    let q := Claims.seqOf n ch src pid raw
    let s0 := (s.domainTold (44 + n)).strike u
    let popped (t : State) : State := t.modChan n ch fun c => { c with intake := rest }
    (∀ ns s1, (seqCheck q.lead q.desc raw).run s0 = (.ok ns, s1) →
      Completes c s fun t => t = { popped s1 with seqs := s1.seqs.put s.nextSeq { q with nouns := ns }, nextSeq := s.nextSeq + 1 })
    ∧ ∀ st va s1, (seqCheck q.lead q.desc raw).run s0 = (.error (.fault st va), s1) → Completes c s fun t =>
        t = ({ popped s1 with seqs := s1.seqs.put s.nextSeq q, nextSeq := s.nextSeq + 1 } : State).endSeq s.nextSeq st va false

/-- R217, R225 and R226: the descriptor at the head of an intake leaves it, by ROWDOT, ROWSUM, REDUCE, GATHER, SCATTER_ADD or COMBINE as
its operation is. One that passes the checks waits for admission under a number of its own with the nouns found; one that fails a check
ends with that status and fault address. Where the manual leaves a corner to reading, it is the model's: log entry 62. -/
def Sys2Proof.Claims.DescriptorTaken : Prop :=
  ∀ (n ch : Nat) (u : Upset) (s : State),
    Claims.TakesDescriptor n ch u s (.rowdot n ch u) 1 ∧ Claims.TakesDescriptor n ch u s (.rowsum n ch u) 2
    ∧ Claims.TakesDescriptor n ch u s (.reduce n ch u) 3 ∧ Claims.TakesDescriptor n ch u s (.gather n ch u) 4
    ∧ Claims.TakesDescriptor n ch u s (.scatterAdd n ch u) 5 ∧ Claims.TakesDescriptor n ch u s (.combine n ch u) 6

/-- R232: a CANCEL, from the intake or by BSU_CANCEL, stops each sequence of its partition that carries its tag at the stack: one that
is read, or sends its results, gets the status SEQ_CANCELLED unless it has failed already, every other one is as it was. Of a state
where none of these waits for admission; one that waits ends with SEQ_CANCELLED. Where the manual leaves a corner to reading, it is the
model's: log entry 62. -/
def Sys2Proof.Claims.CancelStops : Prop :=
  let hit (n pid tag : Nat) (q : Machine.Seq) : Bool :=
    q.pid == pid && q.desc.tag == tag && (q.stks.contains n || q.leadStack == n)
  let stopped (n pid tag : Nat) (q : Machine.Seq) : Machine.Seq :=
    if hit n pid tag q && (q.phase == .reading || q.phase == .sending) then { q with failure := some (q.failure.getD Code.seqCancelled) }
    else q
  let all (n pid tag : Nat) (s : State) : State := { s with seqs := s.seqs.map fun (id, q) => (id, stopped n pid tag q) }
  (∀ (n pid tag : Nat) (s : State), s.stackRefused n 0x1010 = none → pid < 16 → tag < 2 ^ 32 → s.seqs.Pairwise (fun a b => a.1 < b.1) →
    (∀ x ∈ s.seqs, hit n pid tag x.2 = true → x.2.phase ≠ .waiting) → Completes (.bsuCancel n pid tag) s fun t =>
      t = (all n pid tag s).modStack n fun x => { x with bsuLastCmd := Code.ok })
  ∧ (∀ (n ch src pid : Nat) (raw : List Byte) (rest : List (Nat × List Byte)) (s : State),
    (s.chan n ch).intake = (src, raw) :: rest → (parseSeq raw).op = 0x0F → (raw.drop 5).all (· == 0) = true →
    s.domainReady (44 + n) = true → s.senderPid src = some pid → s.seqs.Pairwise (fun a b => a.1 < b.1) →
    (∀ x ∈ s.seqs, hit n pid (parseSeq raw).tag x.2 = true → x.2.phase ≠ .waiting) → Completes (.cancel n ch) s fun t =>
      t = all n pid (parseSeq raw).tag
        (((s.domainTold (44 + n)).modChan n ch fun c => { c with intake := rest }).intakeCredit pid n ch src))
  ∧ ∀ (n pid tag id : Nat) (q : Machine.Seq) (s : State), s.seqs = [(id, q)] → hit n pid tag q = true → q.phase = .waiting →
      s.stackRefused n 0x1010 = none → pid < 16 → tag < 2 ^ 32 → Completes (.bsuCancel n pid tag) s fun t =>
        t = (s.endSeq id Code.seqCancelled 0 false).modStack n fun x => { x with bsuLastCmd := Code.ok }

/-- R228, R229, R231 and R281: the waiting sequence its lead admits next meets its claims first: one whose footprints cannot be walked
ends with that status and PARTIAL, one whose blocks conflict with an admitted sequence's ends with CLAIM_CONFLICT, one a stack has no
room for goes on waiting; the records a delta form leads to are walked after that, under the same conditions. Else it is admitted after
all the others, its claim taken and its ports bound, Y is made, its vectors are read, its lines are shared out, and its producer's
credit returns. Where the manual leaves a corner to reading, it is the model's: log entries 20 and 62. -/
def Sys2Proof.Claims.AdmissionOrder : Prop :=
  ∀ (id : Nat) (q : Machine.Seq) (u : Upset) (s : State), s.seqs.seek id = some q → q.phase = .waiting →
    (∀ st, q.failure = some st → Completes (.seqAdmit id u) s fun t => t = (s.endSeq id st 0 false).issueAll)
    ∧ (q.failure = none → s.nextAtLead id q = true →
      let step := min 0x10000 (2 ^ s.granule)
      let units := s.workingUnits q
      let working := units.foldl (fun acc g => insertLine (g / 32) acc) []
      let stks (f : Footprints) : List Nat := (f.stks ++ working).foldl (fun acc n => insertLine n acc) []
      let ready (s : State) (f : Footprints) : Prop := s.conflicts f = false ∧ s.hasRoom q (stks f) working = true
        ∧ (∀ n ∈ f.stks, (s.stack n).asleep = false) ∧ ∀ n ∈ working, s.domainReady (44 + n) = true ∧ s.domainFailed (44 + n) = false
      (∀ st va s1, (walkNouns q.lead q step (List.range 8) {}).run (s.strike u) = (.error (.fault st va), s1) →
        Completes (.seqAdmit id u) s fun t => t = (s1.endSeq id st va true).issueAll)
      ∧ ∀ f s1, (walkNouns q.lead q step (List.range 8) {}).run (s.strike u) = (.ok f, s1) →
        (s1.conflicts f = true → Completes (.seqAdmit id u) s fun t => t = (s1.endSeq id Code.claimConflict 0 false).issueAll)
        ∧ (s1.conflicts f = false → s1.hasRoom q (stks f) working = false → Completes (.seqAdmit id u) s fun t => t = s1.issueAll)
        ∧ (ready s1 f →
          (∀ st va s2, (walkRecords q.lead q step units f).run s1 = (.error (.fault st va), s2) →
            Completes (.seqAdmit id u) s fun t => t = (s2.endSeq id st va true).issueAll)
          ∧ ∀ g s2, (walkRecords q.lead q step units f).run s1 = (.ok g, s2) →
            (s2.conflicts g = true → Completes (.seqAdmit id u) s fun t => t = (s2.endSeq id Code.claimConflict 0 false).issueAll)
            ∧ (s2.conflicts g = false → s2.hasRoom q (stks g) working = false → Completes (.seqAdmit id u) s fun t => t = s2.issueAll)
            ∧ (ready s2 g →
              let order := (s2.seqs.map fun (_, x) => x.order).foldl max 0 + 1
              let admitted := (s2.modSeq id fun q =>
                { q with phase := .reading, order := order, readBlocks := g.reads, writeBlocks := g.writes, stks := stks g }).bindLead q
              (∀ w, (seqBegin id q g units).run admitted = (.ok (), w) → Completes (.seqAdmit id u) s fun t =>
                t = (w.intakeCredit q.pid q.leadStack q.leadChannel q.issuer).issueAll)
              ∧ ∀ st va w, (seqBegin id q g units).run admitted = (.error (.fault st va), w) → Completes (.seqAdmit id u) s fun t =>
                  t = ((w.modSeq id fun q => { q with failure := some st, faultVa := va }).intakeCredit q.pid q.leadStack q.leadChannel
                    q.issuer).issueAll)))

/-- R229, R236 and R237: at a unit's slice boundary a unit that owes eight refreshes pauses, and the next boundary finds one issued;
then the refresh shift and the share in force are noted on the sequence the unit works on, and, unless it is to stop, its next slice
is counted and reads at most so many lines of its work; a unit whose sequence has failed or been cancelled stops with its lines
unread. A unit with nothing to read goes on idling. Where the manual leaves a corner to reading, it is the model's: log entry 63. -/
def Sys2Proof.Claims.SliceRuns : Prop :=
  ∀ (n ch lines id : Nat) (u : Upset) (s : State),
    (s.unitSeq (32 * n + ch) = none → Completes (.sliceBoundary n ch lines u) s fun t =>
      t = s.modChan n ch fun c => { c with paused := false })
    ∧ (s.unitSeq (32 * n + ch) = some id →
      let q := s.seq id
      (8 ≤ (s.chan n ch).owed → (s.chan n ch).paused = false → Completes (.sliceBoundary n ch lines u) s fun t =>
        t = ((s.strike u).modChan n ch fun c => { c with pauses := (c.pauses + 1) % 2 ^ 32, paused := true }).modSeq id
          fun q => { q with pauses := q.pauses + 1 })
      ∧ ((s.chan n ch).owed < 8 ∨ (s.chan n ch).paused = true →
        let s1 := (((s.strike u).refreshFirst n ch).modChan n ch fun c => { c with paused := false })
        let noted : Machine.Seq := { q with doubled := q.doubled || (s.stack n).refresh2,
                                            shareCut := q.shareCut || decide (min (s.stack n).bTherm (s.stack n).bPower < 16) }
        (q.failure ≠ none → Completes (.sliceBoundary n ch lines u) s fun t =>
          t = s1.modSeq id fun _ => { noted with stopped := q.stopped ++ [32 * n + ch] })
        ∧ (q.failure = none → q.vectorsHere = false → Completes (.sliceBoundary n ch lines u) s fun t => t = s1.modSeq id fun _ => noted)
        ∧ (q.failure = none → q.vectorsHere = true → u.accumulator = false → Completes (.sliceBoundary n ch lines u) s fun t =>
            ∃ cycles, cycles < 1501 ∧ t = State.runItems (32 * n + ch) id lines
              ((({ s1 with fresh := s.fresh + 1 } : State).modSeq id fun _ =>
                { noted with slices := q.slices + 1, cycles := q.cycles + cycles }).modStack n fun x =>
                  { x with shareCycles := x.shareCycles.upd 0 q.pid fun v => (v + cycles) % 2 ^ 64 }))))

/-- R241: an admitted sequence that is being read or sends its results, and whose claim keeps a writer waiting for STALL_LIMIT, fails
with CLAIM_STALL, which its units see at their next slice boundary. Where the manual leaves a corner to reading, it is the model's: log
entry 62. -/
def Sys2Proof.Claims.ClaimStalls : Prop :=
  ∀ (id : Nat) (q : Machine.Seq) (s : State), s.seqs.seek id = some q → Completes (.claimStall id) s fun t =>
    t = if (q.phase = .reading ∨ q.phase = .sending) ∧ q.failure = none ∧ (∃ x ∈ s.stk, ∃ w ∈ x.2.held ++ x.2.heldWaiting, w.1 = id)
        then s.modSeq id fun q => { q with failure := some Code.claimStall }
        else s

/-- R186, R229, R231 and R242: a sequence whose units have ended their part puts its results into Y, or into the result outputs it
streams them to, and ends; one that failed, or whose vectors cannot come any more, writes no results and ends with that status and
PARTIAL. A sequence that ends gives up its ports, or its producer's credit, and its claim; the writes its claim held are released, and
once they have been performed its summary is written and it is gone. Where the manual leaves a corner to reading, it is the model's: log
entry 63. -/
def Sys2Proof.Claims.SequenceEnds : Prop :=
  (∀ (id : Nat) (q : Machine.Seq) (u : Upset) (s : State), s.seqs.seek id = some q →
    let s1 := s.strike u
    let failed : Machine.Seq := { q with failure := q.failure.or (s1.lostPeer q) }
    let s2 := s1.modSeq id fun _ => failed
    (∀ st, q.phase = .reading → s2.unitsEnded id failed = true → failed.failure = some st → Completes (.sequenceEnd id u) s fun t =>
      t = (s2.endSeq id st q.faultVa true).issueAll)
    ∧ (q.phase = .reading → s2.unitsEnded id failed = true → failed.failure = none → q.vectorsHere = true → q.desc.ystream = true →
        Completes (.sequenceEnd id u) s fun t =>
          t = ((s2.stageResults id failed).modSeq id fun q => { q with phase := .sending }).issueAll)
    ∧ (q.phase = .reading → s2.unitsEnded id failed = true → failed.failure = none → q.vectorsHere = true → q.desc.ystream = false →
        (∀ s3, (seqResults id failed).run s2 = (.ok (), s3) → Completes (.sequenceEnd id u) s fun t =>
          t = (s3.endSeq id Code.ok q.faultVa false).issueAll)
        ∧ ∀ st va s3, (seqResults id failed).run s2 = (.error (.fault st va), s3) → Completes (.sequenceEnd id u) s fun t =>
            t = (s3.endSeq id st va true).issueAll)
    ∧ (q.phase = .reading → s2.unitsEnded id failed = false → Completes (.sequenceEnd id u) s fun t => t = s2.issueAll)
    ∧ (∀ st, q.phase = .sending → q.failure = some st → Completes (.sequenceEnd id u) s fun t =>
        t = (s1.endSeq id st q.faultVa true).issueAll)
    ∧ (q.phase = .closing → Completes (.sequenceEnd id u) s fun t => t = (s1.closeSeq id).issueAll)
    ∧ (q.phase = .waiting → Completes (.sequenceEnd id u) s fun t => t = s1.issueAll))
  ∧ ∀ (id va : Nat) (st : Status) (cut : Bool) (q : Machine.Seq) (s : State), s.seqs.seek id = some q →
      (∀ n < 12, ∀ w ∈ (s.stack n).held ++ (s.stack n).heldWaiting, w.1 ≠ id) →
      let left := if q.phase = .waiting then s.intakeCredit q.pid q.leadStack q.leadChannel q.issuer else s.unbindLead q
      let closing : Machine.Seq := { q with phase := .closing, failure := if st = Code.ok then none else some st, faultVa := va, cut := cut }
      ∀ to_ s1, (summaryTarget closing).run (left.modSeq id fun _ => closing) = (.ok to_, s1) → s1.releasing id = false →
        s.endSeq id st va cut = ({ s1 with seqs := s1.seqs.drop id } : State).writeSummary id closing to_

/-- R224: the summary of a sequence is 64 bytes: TAG, STATUS, OP, FLAGS with VALID always 1, the stacks and the number of the units that
read a line, the counts of held writes, lines, cycles, slices and pauses, and the address at fault. -/
def Sys2Proof.Claims.SummaryLayout : Prop :=
  ∀ (q : Machine.Seq) (st : Status) (lead : Nat),
    let b := q.summaryBytes st lead
    b.length = 64 ∧ leAt b 0 4 = q.desc.tag % 2 ^ 32 ∧ leAt b 4 1 = st % 256 ∧ leAt b 5 1 = q.desc.op % 256
    ∧ bit (leAt b 6 2) 0 = q.overlap ∧ bit (leAt b 6 2) 1 = q.full ∧ bit (leAt b 6 2) 2 = q.doubled ∧ bit (leAt b 6 2) 3 = q.shareCut
    ∧ bit (leAt b 6 2) 4 = q.cut ∧ bits (leAt b 6 2) 5 10 = 0 ∧ bit (leAt b 6 2) 15 = true
    ∧ leAt b 0x0A 2 = q.readers.length % 2 ^ 16 ∧ leAt b 0x0C 4 = q.held % 2 ^ 32
    ∧ leAt b 0x10 8 = q.linesRead % 2 ^ 64 ∧ leAt b 0x18 8 = q.linesWritten % 2 ^ 64 ∧ leAt b 0x20 8 = q.cycles % 2 ^ 64
    ∧ leAt b 0x28 8 = q.faultVa % 2 ^ 64 ∧ leAt b 0x30 4 = q.slices % 2 ^ 32 ∧ leAt b 0x34 4 = q.pauses % 2 ^ 32
    ∧ leAt b 0x38 4 = lead % 2 ^ 32 ∧ leAt b 0x3C 4 = 0

/-! ### Stored-data integrity (R256 to R261, R267) -/

/-- R257 and R258: while refetch is enabled, the next damaged block of a DAMAGED entry, no claim on it, is written whole from the
model's source and read back. Read back without an error the block is damaged no longer, and the entry is RESIDENT with an OK event
once no damage is left; where the source answers nothing or a line is still lost, REFETCH_FAILED is sent and the block stays. Where the
manual leaves a corner to reading, it is the model's: log entry 33. -/
def Sys2Proof.Claims.RefetchesDamage : Prop :=
  ∀ (e block : Nat) (data : Option (List Byte)) (u : Upset) (s : State), s.refetch = true → (s.mcEntry e).state = .damaged →
    (s.mcEntry e).damaged.find? (fun b => !(s.mcEntry e).failed.contains b) = some block →
    (∀ l ∈ blockLines block, ∃ g off, s.locate (64 * l) = .cell g off) → s.asleepAmong (blockLines block) = [] →
    let failed (s : State) : State := (s.modMc e fun x => { x with failed := x.failed ++ [block] }).event Cls.stk Code.refetchFailed
      Obs.ofMgmt 0xFF e (block * 0x10000)
    (data = none ∨ ((s.mcEntry e).srcKind = 0 ∧ s.linkUp = false) → Completes (.refetchBlockDone e data u) s fun t => t = failed s)
    ∧ ∀ b, data = some b → ((s.mcEntry e).srcKind = 0 → s.linkUp = true) → s.claimant .device block = none →
      ∀ s1, ((s.submitBytes .device (block * 0x10000) (slice b 0 0x10000) 0).strike u).readBack (blockLines block) = (true, s1) →
      Completes (.refetchBlockDone e data u) s fun t =>
        let s2 := s1.modMc e fun x => { x with damaged := x.damaged.filter (· != block) }
        t = if (s2.mcEntry e).damaged = [] ∧ (s2.mcEntry e).lost = false then
              (s2.modMc e fun x => { x with state := .resident }).event Cls.stk Code.ok Obs.ofMgmt 0xFF e 0
            else s2

/-- R259: the patrol reads the next line of a channel in service of an awake stack in service, as any read does, and moves on; after
a channel's last line a pass is counted. It rests where BKG does not enable it. -/
def Sys2Proof.Claims.PatrolReads : Prop :=
  ∀ (n ch : Nat) (u : Upset) (s : State),
    (s.background 0 = false → exec (.patrolLine n ch u) s = .next s)
    ∧ ∀ pa, s.chanPresent n ch = true → s.background 0 = true → (s.stack n).asleep = false → (s.stack n).state = .inService →
      ((s.chan n ch).state = .inService ∨ (s.chan n ch).state = .appended) →
      s.addressOf (32 * n + ch) (64 * (s.chan n ch).patrol) = some pa → Completes (.patrolLine n ch u) s fun t =>
        t = ((s.strike u).readCells n ch (pa / 64) (Obs.ofStack n).source 2).2.modChan n ch fun c =>
          { c with patrol := (c.patrol + 1) % 0x2000000,
                   passes := if c.patrol = 0x1FFFFFF then (c.passes + 1) % 2 ^ 32 else c.passes }

/-- R260 and R261: START runs a range scrub with its tag over the range of whole lines the registers name, its counts at zero; one
started while another runs is refused with SCRUB_BUSY, one without a proper range with BAD_VALUE. STOP ends it at the next line. Where
the manual leaves a corner to reading, it is the model's: log entry 33. -/
def Sys2Proof.Claims.RangeScrubStarts : Prop :=
  ∀ (n tag : Nat) (s : State), s.stackRefused n 0x2818 = none →
    let x := (s.stack n).scrub
    let proper := x.lo % 64 = 0 ∧ x.hi % 64 = 0 ∧ x.lo < x.hi ∧ x.hi ≤ 0xC000000000
    (x.state = 1 → Completes (.rscrubStart n tag) s fun t =>
      t = s.modStack n fun x => { x with intLastCmd := Code.scrubBusy })
    ∧ (x.state ≠ 1 → ¬ proper → Completes (.rscrubStart n tag) s fun t =>
        t = s.modStack n fun x => { x with intLastCmd := Code.badValue })
    ∧ (x.state ≠ 1 → proper → Completes (.rscrubStart n tag) s fun t =>
        t = { s with stk := t.stk } ∧ (∀ m, m ≠ n → t.stack m = s.stack m)
        ∧ t.stack n = { s.stack n with intLastCmd := Code.ok, scrub := { x with
            state := 1, tag := tag % 2 ^ 32, runLo := x.lo, runHi := x.hi, stopped := false, lines := 0, corrected := 0,
            erased := 0, newUe := 0, poison := 0, firstBad := none, dropped0 := (s.stack n).dropped } })
    ∧ Completes (.rscrubStop n) s fun t =>
        t = { s with stk := t.stk } ∧ (∀ m, m ≠ n → t.stack m = s.stack m)
        ∧ t.stack n = { s.stack n with intLastCmd := Code.ok, scrub := { x with stopped := x.stopped || x.state == 1 } }

/-- R261: a range scrub that ends has read the lines of its range on its stack, up to a place of each channel that the manual leaves
open where it was stopped; its state is DONE with OK or, stopped, TIMEOUT, its event carries its tag, and its summary goes to companion
memory while the link is up. A scrub that does not run ends nothing. Where the manual leaves a corner to reading, it is the model's:
log entry 33. -/
def Sys2Proof.Claims.RangeScrubEnds : Prop :=
  ∀ (n : Nat) (written : Bool) (s : State),
    ((s.stack n).scrub.state ≠ 1 → exec (.rscrubEnd n written) s = .next s)
    ∧ ((s.stack n).scrub.state = 1 → (s.stack n).asleep = false →
      let x := (s.stack n).scrub
      let st := if x.stopped = true then Code.timeout else Code.ok
      Completes (.rscrubEnd n written) s fun t => ∃ (place : Nat → Nat) (s0 : State) (summary : List Byte), s0 = { s with fresh := s0.fresh }
        ∧ let r := s0.scrubRun n (fun ch => if x.stopped then some (place ch) else none) ((x.runHi - x.runLo) / 64) (x.runLo / 64) 0
          let y := (r.2.stack n).scrub
          summary.length = 64 ∧ leAt summary 0 4 = y.tag % 2 ^ 32 ∧ leAt summary 4 1 = st ∧ leAt summary 5 1 = n % 256
          ∧ leAt summary 8 8 = y.lines % 2 ^ 64 ∧ leAt summary 0x10 8 = y.corrected % 2 ^ 64 ∧ leAt summary 0x18 8 = y.erased % 2 ^ 64
          ∧ leAt summary 0x20 4 = y.newUe % 2 ^ 32 ∧ leAt summary 0x24 4 = y.poison % 2 ^ 32 ∧ leAt summary 0x28 8 = r.1 % 2 ^ 64
          ∧ leAt summary 0x30 8 = y.firstBad.getD (2 ^ 64 - 1) % 2 ^ 64
          ∧ let done := ({ r.2 with fresh := r.2.fresh + 1 } : State).modScrub n fun x =>
              { x with state := 2, status := st, stopped := false }
            t = (if r.2.linkUp = true ∧ written = true then done.compWriteBytes y.dst summary .release else done).event Cls.stk st
              (Obs.ofStack n) 0xFF y.tag 0)

/-- R256 and R267: INT_CLR clears the counts of the masked channels, the log, or the count of dropped entries, and nothing else; a
write of INT_CHc.ERASE with a symbol of the codeword, or 31 for none, takes effect and is recorded across resets. -/
def Sys2Proof.Claims.IntegrityRegisters : Prop :=
  ∀ (n : Nat) (s : State),
    (s.stackRefused n 0x2008 = none →
      (∀ mask, Completes (.intClrCounts n mask) s fun t => t = { s with stk := t.stk } ∧ (t.stack n).intLastCmd = Code.ok
        ∧ ∀ ch, ch < 32 → t.chan n ch = if bit mask ch = true then { s.chan n ch with ce := 0, erased := 0 } else s.chan n ch)
      ∧ (Completes (.intClrLog n) s fun t => t = s.modStack n fun x => { x with log := [], intLastCmd := Code.ok })
      ∧ Completes (.intClrDrop n) s fun t => t = s.modStack n fun x => { x with dropped := 0, intLastCmd := Code.ok })
    ∧ ∀ ch pos, s.stackRefused n (0x2100 + 16 * ch) = none → s.chanPresent n ch = true → pos < 32 →
      (pos < 18 ∨ pos = 31 → Completes (.erasureSet n ch pos) s fun t =>
        t = ({ s with flash := { s.flash with erasures := s.flash.erasures.put (32 * n + ch) pos } } : State).modChan n ch fun c =>
          { c with erase := pos })
      ∧ (18 ≤ pos → pos ≤ 30 → Completes (.erasureSet n ch pos) s fun t =>
        t = { s with stk := t.stk, mgmt := t.mgmt } ∧ (t.stack n).intLastCmd = Code.badValue ∧ t.mgmt.errStatus = Code.badValue
        ∧ t.mgmt.errCount = (s.mgmt.errCount + 1) % 2 ^ 32 ∧ t.chan n ch = s.chan n ch)

/-- R31 and R214: a write to a register of an absent stack, or of any stack while no image is in force, reaches nothing: it is
recorded as an access with BAD_ACCESS or NO_IMAGE at its offset and counted. -/
def Sys2Proof.Claims.StackRegistersRefused : Prop :=
  ∀ (n a b : Nat) (c : Instr) (off : Nat) (s : State),
    (c, off) ∈ [(Instr.tgStart n, 0x418), (.tgStop n, 0x418), (.rscrubStart n a, 0x2818), (.rscrubStop n, 0x2818),
      (.intClrCounts n a, 0x2008), (.intClrLog n, 0x2008), (.intClrDrop n, 0x2008), (.bsuCancel n a b, 0x1010)] →
    s.stackPresent n = false ∨ s.gram.image = none → Completes c s fun t =>
      t = { s with mgmt := { s.mgmt with
            errStatus := if s.stackPresent n = false then Code.badAccess else Code.noImage
            errOffset := (0x400000 + n * 0x20000 + off) % 2 ^ 24
            errCount := (s.mgmt.errCount + 1) % 2 ^ 32 } }

/-! ### Serving (R283 to R313, R348) -/

/-- The commands of the record kinds 0 to 4 of a partition's ring (R286). -/
def Sys2Proof.Claims.recordKinds (p : Nat) : List (Instr × Nat) :=
  [(.nopRecord p, 0), (.submit p, 1), (.cancelCommand p, 2), (.prefixAdd p, 3), (.prefixDel p, 4)]

/-- The intake has taken a partition's record: its head moves on, and PHASE turns over with the ring's end (R285). -/
def Sys2Proof.Claims.advanced (s : State) (p : Nat) : State :=
  s.modPsrv p fun x => { x with cmdHead := (x.cmdHead + 1) % 2 ^ x.cmdLog2, reading := none,
                                cmdPhase := if (x.cmdHead + 1) % 2 ^ x.cmdLog2 = 0 then !x.cmdPhase else x.cmdPhase }

/-- The intake has served a partition's ring last (R285). -/
def Sys2Proof.Claims.served (s : State) (p : Nat) : State := { s with srv := { s.srv with lastServed := p } }

/-- A partition's next record is there, and its ring is the one whose turn it is (R285). -/
def Sys2Proof.Claims.Turn (s : State) (p : Nat) (b : List Byte) : Prop := s.nextRecordOf p = some b ∧ s.nextRing = some p

/-- A record has been answered by a completion record of that kind and status, with its CLIENT (R288, R308). -/
def Sys2Proof.Claims.answered (s : State) (p kind : Nat) (b : List Byte) (st : Status) : State :=
  ((Claims.advanced (Claims.served s p) p).complete p { kind := kind, status := st, client := leAt b 4 4 } none).pumpCompletions p

/-- R285, R286, R288 and R289: the intake takes records in ring order, one of each partition that has any in rotation, each by the
command of its kind, and only those whose PHASE is the one it expects. A NOP passes; a reserved kind, or a NOP with a reserved field
set, is refused with REQ_INVALID. A SUBMIT that fails a check of R288 is refused with its status and takes nothing; one that passes
takes the lowest free entry, QUEUED, with its region and its ADMIT tick, and its prompt is read. The rotation begins at partition 0
(log entry 88). -/
def Sys2Proof.Claims.RecordsTaken : Prop :=
  (∀ (p k : Nat) (c : Instr) (s : State), (c, k) ∈ Claims.recordKinds p → s.nextRecordOf p = none ∨ s.nextRing ≠ some p →
    exec c s = .next s)
  ∧ (∀ (p : Nat) (s : State), s.nextRing = some p → (s.nextRecordOf p).isSome = true ∧ ∃ k < 16, p = (s.srv.lastServed + 1 + k) % 16
      ∧ ∀ j < k, s.nextRecordOf ((s.srv.lastServed + 1 + j) % 16) = none)
  ∧ (∀ (p k : Nat) (c : Instr) (b : List Byte) (s : State), (c, k) ∈ Claims.recordKinds p → Claims.Turn s p b →
      (5 ≤ leAt b 1 1 → Completes c s fun t => t = Claims.answered s p 2 b Code.reqInvalid)
      ∧ (leAt b 1 1 < 5 → leAt b 1 1 ≠ k → exec c s = .next s))
  ∧ ∀ (p : Nat) (b : List Byte) (s : State), Claims.Turn s p b →
      (leAt b 1 1 = 0 → recordClean b (fun _ => false) = true → Completes (.nopRecord p) s fun t =>
        t = Claims.advanced (Claims.served s p) p)
      ∧ (leAt b 1 1 = 0 → recordClean b (fun _ => false) = false → Completes (.nopRecord p) s fun t =>
          t = Claims.answered s p 2 b Code.reqInvalid)
      ∧ (leAt b 1 1 = 1 →
          let r := parseSubmit s.srvImage p b
          let s' := Claims.served s p
          (∀ st, s'.checkSubmit p b r = .error st → Completes (.submit p) s fun t => t = Claims.answered s p 2 b st)
          ∧ ∀ i a plane, s'.checkSubmit p b r = .ok (i, a, plane) → Completes (.submit p) s fun t =>
              t = { s with srv := t.srv } ∧ (s.req i).state = .free ∧ (∀ j, j < i → (s.req j).state ≠ .free)
              ∧ t.req i = { r with kvVa := (s.psrv p).kvaBase + a * 0x200000, plane := plane, layers := (s.mcEntry r.model).layers,
                                   admitTick := s.srv.tick, last := s.srv.tick }
              ∧ (t.req i).state = .queued ∧ (t.psrv p).reading = some i ∧ t.srv.lastServed = p ∧ ∀ j, j ≠ i → t.req j = s.req j)

/-- R288: the checks of a SUBMIT are made in the order of its table; the first that fails gives the status. -/
def Sys2Proof.Claims.SubmitChecksInOrder : Prop :=
  ∀ (p : Nat) (b : List Byte) (s : State),
    let r := parseSubmit s.srvImage p b
    let m := s.mcEntry r.model
    let formed := submitFormed s.srvImage b r
    let uses := s.usesModel p r.model && (r.draft == 0xFF || s.usesModel p r.draft)
    let prefixes := (r.pfx == 0xFFFF || ((s.pfx r.pfx).state == 1 && (s.pfx r.pfx).pid == p && (s.pfx r.pfx).model == r.model))
      && (!r.save || (s.pfx r.saveHandle).state == 0)
    let room := decide ((s.pfxOf r).1 + r.maxlen ≤ m.ctx) && m.planeOk
    (formed = false → s.checkSubmit p b r = .error Code.reqInvalid)
    ∧ (formed = true → uses = false → s.checkSubmit p b r = .error Code.modelAbsent)
    ∧ (formed = true → uses = true → prefixes = false → s.checkSubmit p b r = .error Code.prefixInvalid)
    ∧ (formed = true → uses = true → prefixes = true → room = false → s.checkSubmit p b r = .error Code.reqInvalid)
    ∧ (formed = true → uses = true → prefixes = true → room = true → s.freeEntry = none →
        s.checkSubmit p b r = .error Code.tableFull)
    ∧ (∀ i, formed = true → uses = true → prefixes = true → room = true → s.freeEntry = some i →
        let plane := (r.maxlen * m.planeBytes + 0x1FFFFF) / 0x200000
        (s.arenaRun p (2 * m.layers * plane) = none → s.checkSubmit p b r = .error Code.kvSpace)
        ∧ ∀ a, s.arenaRun p (2 * m.layers * plane) = some a → s.checkSubmit p b r = .ok (i, a, plane))
    ∧ (formed = true → r.prompt ≠ 0 ∧ r.prompt < r.maxlen ∧ r.prio ≤ 7 ∧ (r.save = true → r.saveHandle < s.srvImage.prefixes))

/-- R288 and R289: a prompt that has been read makes the request ready, PAUSED with reason MODEL where its model is not RESIDENT; one
that could not be read, or comes with the link down, is refused with RING_FAULT and its entry is free again. -/
def Sys2Proof.Claims.PromptRead : Prop :=
  ∀ (p i : Nat) (tokens : Option (List Nat)) (s : State),
    ((s.psrv p).reading = none → exec (.promptReadDone p tokens) s = .next s)
    ∧ ((s.psrv p).reading = some i →
      (tokens = none ∨ s.linkUp = false → Completes (.promptReadDone p tokens) s fun t =>
        t = ((Claims.advanced { s with srv := { s.srv with table := s.srv.table.drop i } } p).complete p
          { kind := 2, status := Code.ringFault, client := (s.req i).client } none).pumpCompletions p)
      ∧ ∀ ts, tokens = some ts → s.linkUp = true →
          let s1 := Claims.advanced (s.modReq i fun r => { r with tokens := ts }) p
          ((s1.mcEntry (s.req i).model).state = .resident → Completes (.promptReadDone p tokens) s fun t => t = s1)
          ∧ ((s1.mcEntry (s.req i).model).state ≠ .resident → Completes (.promptReadDone p tokens) s fun t =>
              (t.req i).state = .paused ∧ (t.req i).reason = 2 ∧ t = { s1 with srv := t.srv }))

/-- R286 and R304: a CANCEL that names no live request of its partition is answered CANCEL_NONE; one that names a request in a step
marks it and lets the step finish; one that names a request in no step ends it at once. -/
def Sys2Proof.Claims.CancelRecords : Prop :=
  ∀ (p : Nat) (b : List Byte) (s : State), Claims.Turn s p b → leAt b 1 1 = 2 →
    let hits := (s.liveOf p).filter fun i => (s.req i).client == leAt b 4 4
    (recordClean b (fun _ => false) = false → Completes (.cancelCommand p) s fun t => t = Claims.answered s p 2 b Code.reqInvalid)
    ∧ (recordClean b (fun _ => false) = true →
      (hits = [] → Completes (.cancelCommand p) s fun t => t = Claims.answered s p 3 b Code.cancelNone)
      ∧ ∀ i, hits = [i] →
          let marked := (Claims.advanced (Claims.served s p) p).modReq i fun r => { r with cancelReq := true }
          ((s.req i).inStep = true → Completes (.cancelCommand p) s fun t => t = marked.pumpCompletions p)
          ∧ ((s.req i).inStep = false → Completes (.cancelCommand p) s fun t =>
              t = (marked.endRequest i .cancelled Code.cancelled 0).pumpCompletions p))

/-- R286, R294 and R295: a PREFIX_ADD of a free handle whose region is mapped makes the prefix READY for its partition and model; a
handle out of range or in use, or a region not mapped, is answered PREFIX_INVALID. A PREFIX_DEL of a READY prefix of its
partition retires it, and frees it once no request names it. That an entry with no model has no region is the model's reading (log
entry 87). -/
def Sys2Proof.Claims.PrefixRecords : Prop :=
  ∀ (p : Nat) (b : List Byte) (s : State), Claims.Turn s p b →
    let h := leAt b 20 2
    let s' := Claims.served s p
    (leAt b 1 1 = 3 → recordClean b (fun i => (8 ≤ i && i < 12) || i == 16 || i == 20 || i == 21 || (24 ≤ i && i < 32)) = true →
      leAt b 16 1 < 64 →
      (s.srvImage.prefixes ≤ h ∨ (s.pfx h).state ≠ 0 ∨ (s.mcEntry (leAt b 16 1)).layers = 0 → Completes (.prefixAdd p) s fun t =>
        t = Claims.answered s p 3 b Code.prefixInvalid)
      ∧ (h < s.srvImage.prefixes → (s.pfx h).state = 0 → (s.mcEntry (leAt b 16 1)).layers ≠ 0 →
          let m := s.mcEntry (leAt b 16 1)
          let pages := (List.range (2 * m.layers * ((leAt b 8 4 * m.planeBytes + 0x1FFFFF) / 0x200000))).map fun k =>
            leAt b 24 8 + k * 0x200000
          (∀ s1, State.regionMapped p pages s' = (false, s1) → Completes (.prefixAdd p) s fun t =>
            t = ((Claims.advanced s1 p).complete p { kind := 3, status := Code.prefixInvalid, client := leAt b 4 4 } none).pumpCompletions p)
          ∧ ∀ s1, State.regionMapped p pages s' = (true, s1) → Completes (.prefixAdd p) s fun t =>
              t = Claims.advanced (s1.modPfx h fun _ => { state := 1, pid := p, model := leAt b 16 1, len := leAt b 8 4,
                                                           kvVa := leAt b 24 8, client := leAt b 4 4 }) p))
    ∧ (leAt b 1 1 = 4 → recordClean b (fun i => i == 20 || i == 21) = true →
      (s.srvImage.prefixes ≤ h ∨ (s.pfx h).state ≠ 1 ∨ (s.pfx h).pid ≠ p → Completes (.prefixDel p) s fun t =>
        t = Claims.answered s p 3 b Code.prefixInvalid)
      ∧ (h < s.srvImage.prefixes → (s.pfx h).state = 1 → (s.pfx h).pid = p →
          let retiring := s'.modPfx h fun x => { x with state := 2 }
          (s.pfxUsers h ≠ 0 → Completes (.prefixDel p) s fun t => t = Claims.advanced retiring p)
          ∧ (s.pfxUsers h = 0 → Completes (.prefixDel p) s fun t =>
              ∃ s1, s1 = retiring.releasePages p (s.pfx h).pages
                ∧ t = Claims.advanced { s1 with srv := { s1.srv with prefixes := s1.srv.prefixes.drop h } } p)))

/-- R303 to R307: what is decided of a request at a boundary, in this order: a cancel, a deadline that has passed, a failure of its
step, a model unloaded, a model not resident, pages that cannot be committed, no port to a serving core, a full store. Where the manual
leaves a corner to reading, it is the model's: log entry 22. -/
def Sys2Proof.Claims.BoundaryOrder : Prop :=
  ∀ (i : Nat) (failed : Option Status) (s : State),
    let r := s.req i
    let late := r.deadline ≠ 0 ∧ r.deadline ≤ s.srv.tick
    (r.cancelReq = true → s.settleRequest i failed = (false, s.endRequest i .cancelled Code.cancelled 0))
    ∧ (r.cancelReq = false → late → s.settleRequest i failed = (false, s.endRequest i .expired Code.expired 0))
    ∧ (∀ st, r.cancelReq = false → ¬ late → failed = some st →
        s.settleRequest i failed = (false, s.endRequest i .faulted Code.stepFault st))
    ∧ (r.cancelReq = false → ¬ late → failed = none → s.modelGone r = true →
        s.settleRequest i failed = (false, s.endRequest i .faulted Code.modelGone Code.modelGone))
    ∧ (r.cancelReq = false → ¬ late → failed = none → s.modelGone r = false → r.draft = 0xFF →
        ((s.mcEntry r.model).state ≠ .resident → s.settleRequest i failed = (false, s.pause i 2))
        ∧ ((s.mcEntry r.model).state = .resident →
            (∀ s1, s.commitPages r.pid (s.missingPages r).2 = (false, s1) → s.settleRequest i failed = (false, s1.pause i 1))
            ∧ ∀ s1, s.commitPages r.pid (s.missingPages r).2 = (true, s1) →
                let s2 := s1.modReq i fun r => { r with commit := (s.missingPages r).1 }
                (s2.portsOf r.pid = [] → (s.settleRequest i failed).1 = false)
                ∧ (s2.portsOf r.pid ≠ [] → (s2.psrv r.pid).cplStore.length < 64 → (s.settleRequest i failed).1 = true)))

/-- R297, R299, R303 and R308: the boundary of a step whose result tile says OK takes its member's tokens from the step list, delivers
them and decides what follows for it; the group is gone, the partition's steps are counted, groups form in their order from all the
partition's requests then ready, a request that asks for PROGRESS has its record, and the completion records go out. Where the manual leaves a
corner to reading, it is the model's: log entries 22 and 88. -/
def Sys2Proof.Claims.StepBoundaryTaken : Prop :=
  ∀ (gn i : Nat) (g : Group) (outWritten : Bool) (u : Upset) (s : State),
    (s.srv.groups.seek gn = none → exec (.stepBoundary gn outWritten u) s = .next s)
    ∧ (s.srv.groups.seek gn = some g →
      (g.abandoned = none → g.result = none → exec (.stepBoundary gn outWritten u) s = .next s)
      ∧ (g.abandoned = none → g.result = some Code.ok → g.members = [i] → (s.req i).group = some gn → u.parity = false →
          let s0 := s.strike u
          let s1 := ((({ s0 with srv := { s0.srv with groups := s0.srv.groups.drop gn } } : State).modPsrv g.pid fun x =>
            { x with steps := (x.steps + 1) % 2 ^ 32 }).modReq i fun r => { r with group := none })
          ∀ tokens accepted s2, s1.memberResult g 0 = (.ok (tokens, accepted), s2) → Completes (.stepBoundary gn outWritten u) s fun t =>
            let d := s2.deliverTokens i tokens accepted outWritten
            let all := d.2.otherReady g.pid (if d.1 then [i] else [])
            let order := all.1.foldl (fun l i => State.place1 all.2 i l) []
            t = ((State.formGroups g.pid (order.length + 1) order all.2).reportProgress i).pumpCompletions g.pid))

/-- R303 and R308: tokens delivered are cut after the first stop token and at MAXLEN and written to companion memory at OUT_PA after
those delivered before; a request whose last token is the stop token, or whose length reaches MAXLEN, is DONE. Tokens that cannot be
written end it with RING_FAULT. A live request with PROGRESS that was delivered tokens since its last record has one PROGRESS record,
with the state it has after the boundary; another has none. -/
def Sys2Proof.Claims.TokensDelivered : Prop :=
  ∀ (i accepted : Nat) (tokens : List Nat) (outWritten : Bool) (s : State),
    let r := s.req i
    let new := cutTokens r.stop (r.maxlen - r.held) tokens
    (new ≠ [] → outWritten = false ∨ s.linkUp = false → s.deliverTokens i tokens accepted outWritten =
      (false, (s.passBoundary i).endRequest i .faulted Code.ringFault Code.ringFault))
    ∧ new.length ≤ r.maxlen - r.held ∧ new <+: tokens
    ∧ (r.stop ≠ 0xFFFFFFFF → ∀ k, k + 1 < new.length → new[k]? ≠ some r.stop)
    ∧ (new ≠ [] → outWritten = true → s.linkUp = true →
        (new.getLast? = some r.stop ∧ r.stop ≠ 0xFFFFFFFF) ∨ r.held + new.length = r.maxlen →
        let t := (s.deliverTokens i tokens accepted outWritten).2
        (s.deliverTokens i tokens accepted outWritten).1 = false ∧ (t.req i).state = .done
        ∧ (t.req i).delivered = r.delivered + new.length ∧ (t.req i).len = r.held + new.length)
    ∧ (r.progress = true → r.live = true → r.reported < r.delivered → s.reportProgress i =
        (s.modReq i fun r => { r with reported := r.delivered }).complete r.pid
          { kind := 0, client := r.client, req := i, state := reqCode r.state, tokens := r.delivered, new := r.delivered - r.reported,
            steps := r.steps, accepted := r.accepted, admitTick := r.admitTick } none)
    ∧ (r.progress = false ∨ r.delivered ≤ r.reported → s.reportProgress i = s)

/-- R307: a step that has run longer than STEP_LIMIT × 10,000 ticks without a result tile is abandoned with TIMEOUT, and its boundary
is passed; before that nothing happens. -/
def Sys2Proof.Claims.WatchdogAbandons : Prop :=
  ∀ (gn : Nat) (g : Group) (s : State), s.srv.groups.seek gn = some g →
    (s.srv.stepLimit = 0 ∨ s.srv.tick ≤ g.began + s.srv.stepLimit * 10000 ∨ g.result ≠ none →
      exec (.stepWatchdog gn) s = .next s)
    ∧ (s.srv.stepLimit ≠ 0 → g.began + s.srv.stepLimit * 10000 < s.srv.tick → g.result = none →
      Completes (.stepWatchdog gn) s fun t =>
        t = (s.modGroup gn fun g => { g with abandoned := some (g.abandoned.getD (Code.timeout, false)) }).groupBoundary gn true)

/-- R348: a watched line of companion memory that was invalidated, or is polled where the link keeps no coherence, is fetched: a
command record joins what the intake knows of its ring, a head word moves its ring's head and what waited for room is written. -/
def Sys2Proof.Claims.WatchedLinesRead : Prop :=
  ∀ (p i r : Nat) (line : List Byte) (s : State), s.linkUp = true →
    let commandRead := (s.watchLine ((s.psrv p).cmdBase + 64 * i) line).modPsrv p fun x => { x with lines := x.lines.put i (slice line 0 64) }
    let headRead := ((s.watchLine (s.psrv p).cplHeadPtr line).modPsrv p fun x =>
      { x with cplHead := leAt line ((s.psrv p).cplHeadPtr % 64) 4 }).pumpCompletions p
    let ringRead := (s.watchLine (s.ring r).headPtr line).modRing r fun x => { x with head := leAt line ((s.ring r).headPtr % 64) 4 }
    (s.isServed p = true → (s.psrv p).cmdEnable = true → i < 2 ^ (s.psrv p).cmdLog2 →
      (s.xl.rootPort = false → Completes (.watchedLineInvalidate (.command p i) line) s fun t => t = commandRead)
      ∧ (s.xl.rootPort = true → Completes (.watchedLinePoll [(.command p i, line)]) s fun t => t = commandRead))
    ∧ (s.isServed p = true → (s.psrv p).cplEnable = true →
      (s.xl.rootPort = false → Completes (.watchedLineInvalidate (.cplHead p) line) s fun t => t = headRead)
      ∧ (s.xl.rootPort = true → Completes (.watchedLinePoll [(.cplHead p, line)]) s fun t => t = headRead))
    ∧ (r < 16 → (s.ring r).enable = true →
      (s.xl.rootPort = false → Completes (.watchedLineInvalidate (.ringHead r) line) s fun t => t = ringRead)
      ∧ (s.xl.rootPort = true → Completes (.watchedLinePoll [(.ringHead r, line)]) s fun t => t = ringRead))
    ∧ ∀ (w : Watched) (rest : List (Watched × List Byte)),
        (s.xl.rootPort = true → exec (.watchedLineInvalidate w line) s = .next s)
        ∧ (s.xl.rootPort = false → exec (.watchedLinePoll rest) s = .next s)

/-- R290, R293, R295 and R312: a peek shows the entries as they stand; a page of device memory, aligned and outside the reserved
memory, joins the pool; a ring of a partition without requests and not enabled takes its base and starts over; enabling the
command ring takes a page of the pool for the step list, or is refused with KV_SPACE. -/
def Sys2Proof.Claims.ServingRegisters : Prop :=
  (∀ (index h : Nat) (s : State), index < 4096 → h < 1024 →
    (s.gram.image ≠ none → Completes (.srvPeek index h) s fun t =>
      t = { s with srv := { s.srv with peekIndex := index, peekPfx := h, peekD := (s.req index).bytes, pfxD := s.pfxBytes h } })
    ∧ (s.gram.image = none → Completes (.srvPeek index h) s fun t => t = s.recordAccess Code.noImage 0x50020))
  ∧ ∀ (p v : Nat) (s : State), s.gram.image ≠ none → p < 16 → s.isServed p = true →
      let told (st : Status) (t : State) : State := { t with srv := { t.srv with lastCmd := st } }
      (v % 0x200000 = 0 → s.inRegion v = true → s.inReserve v = false → Completes (.poolPush p v) s fun t =>
        t = told Code.ok (s.modPsrv p fun x => { x with pool := x.pool ++ [v] }))
      ∧ (v % 0x200000 = 0 → s.inRegion v = false ∨ s.inReserve v = true → Completes (.poolPush p v) s fun t =>
          t = told Code.badValue s)
      ∧ (v % 4096 = 0 → v < 2 ^ 64 → s.hasLive p = false →
          ((s.psrv p).cmdEnable = false → Completes (.cmdRingConfig p true v) s fun t =>
            t = s.modPsrv p fun x => { x with cmdBase := v, cmdHead := 0, cmdPhase := true, lines := [] })
          ∧ ((s.psrv p).cplEnable = false → Completes (.cplRingConfig p true v) s fun t =>
              t = s.modPsrv p fun x => { x with cplBase := v, cplTail := 0, cplPhase := true, cplHead := 0 }))
      ∧ (v % 4096 = 0 → s.hasLive p = true → Completes (.cmdRingConfig p true v) s (fun t => t = told Code.badValue s)
          ∧ Completes (.cplRingConfig p true v) s fun t => t = told Code.badValue s)
      ∧ (4 ≤ bits v 0 4 → bits v 0 4 ≤ 12 → bits v 0 4 = (s.psrv p).cmdLog2 → bit v 4 = false →
          Completes (.cmdRingConfig p false v) s fun t =>
            t = told Code.ok (s.modPsrv p fun x => { x with cmdLog2 := bits v 0 4, cmdEnable := false }))
      ∧ (4 ≤ bits v 0 4 → bits v 0 4 ≤ 12 → bits v 0 4 = (s.psrv p).cmdLog2 → bit v 4 = true → (s.psrv p).cmdEnable = false →
          (s.psrv p).stepPage = none →
          ((s.psrv p).pool = [] → Completes (.cmdRingConfig p false v) s fun t =>
            (t.psrv p).cmdEnable = false ∧ t.srv.lastCmd = Code.kvSpace ∧ t = { s with srv := t.srv })
          ∧ ∀ pa rest, (s.psrv p).pool = pa :: rest → Completes (.cmdRingConfig p false v) s fun t =>
              (t.psrv p).cmdEnable = true ∧ (t.psrv p).stepPage = some pa ∧ (t.psrv p).pool = rest
              ∧ (t.psrv p).kvUsed = (s.psrv p).kvUsed + 1 ∧ t.srv.lastCmd = Code.ok)
      ∧ (4 ≤ bits v 0 4 → bits v 0 4 ≤ 12 → bits v 0 4 = (s.psrv p).cplLog2 → Completes (.cplRingConfig p false v) s fun t =>
          t = (told Code.ok (s.modPsrv p fun x => { x with cplLog2 := bits v 0 4, cplEnable := bit v 4, cplIrq := bit v 5 })
            ).pumpCompletions p)

/-! ### Scheduling (R315 to R319, R326 to R334) -/

/-- R330 and R392: a phase command that names a plan of the image in force is an order of its decision window, with the rank of its
sender; one that names none is refused with BAD_VALUE and is no order. Where the manual leaves a corner to reading, it is the model's:
log entry 43. -/
def Sys2Proof.Claims.PhaseCommandOrdered : Prop :=
  ∀ (by_ : Master) (plan : Nat) (i : Image) (s : State), s.gram.image = some i → plan < 8 →
    ((∃ r ∈ i.phas, r.plan = plan) → Completes (.phaseCommand by_ plan) s fun t =>
      t = { s with pwr := { s.pwr with orders := s.pwr.orders ++ [{ rank := s.rank by_, by_ := by_, object := 0, value := plan }] },
                   sched := { s.sched with lastCmd := Code.ok } })
    ∧ ((∀ r ∈ i.phas, r.plan ≠ plan) → Completes (.phaseCommand by_ plan) s fun t =>
        t = { s with sched := { s.sched with lastCmd := Code.badValue } })
    ∧ (s.rank by_ = if s.sec.presence = true then 1 else match by_ with
        | .bmc => 2
        | .companion => 3
        | .controlCore _ => 3
        | .peer _ _ => 4)

/-- R316, R330 and R331: a phase command that has run puts its plan's shares and power split in force and clears the counts of the
shares, sends OK with the plan, and lets the one held behind it run; with rebalancing set, a rebalance begins. -/
def Sys2Proof.Claims.PhaseCommandDone : Prop :=
  ∀ (plan : Nat) (i : Image) (r : PhasRec) (s : State), s.sched.phaseBusy = some plan → s.gram.image = some i →
    i.phas.find? (·.plan == plan) = some r → Completes .phaseCommandDone s fun t =>
      let stk := s.stk.map fun (n, x) => (n, ({ x with shareCycles := [] } : Stack))
      t = ({ s with stk := stk, pwr := { s.pwr with split := [r.bsuPm, r.portPm, r.cluPm] }, sched := t.sched } : State).event Cls.sched Code.ok Obs.ofSched 0xFF plan 0
      ∧ (∀ p ∈ s.partitions, (t.psched p).share = r.shares.getD p 0)
      ∧ (∀ p, (t.psched p).cores = (s.psched p).cores) ∧ t.sched.plan = plan ∧ t.sched.phaseBusy = s.sched.phaseHeld
      ∧ t.sched.phaseHeld = none ∧ t.sched.rebalancing = s.sched.rebal ∧ t.sched.switching = s.sched.switching
      ∧ t.sched.mc = s.sched.mc

/-- R326: a switch of a cluster that a partition holds to another defined partition is accepted while neither waits for a partial image
and the cluster is not being switched; a state switch needs a save area of both. Else it is refused, RESOURCE_CONFLICT or BAD_VALUE,
and SCHED_SWLAST records it. Nothing moves yet. Where the manual leaves a corner to reading, it is the model's: log entry 44. -/
def Sys2Proof.Claims.SwitchAccepted : Prop :=
  ∀ (c q p : Nat) (s : State), s.gram.image ≠ none → c < 16 → q < 16 → s.clusterPid c = some p →
    let free := s.defined q = true ∧ p ≠ q ∧ s.sched.switching.seek c = none ∧ s.partialWaits p = false ∧ s.partialWaits q = false
    let areas := s.srvImage.weightSwitch = true ∨ ((s.psched p).saveVa ≠ 0 ∧ (s.psched q).saveVa ≠ 0)
    let refused (st : Status) : State :=
      s.modSched fun x => { x with swCluster := c, swFrom := p, swTo := q, swKind := b2n s.srvImage.weightSwitch, swStatus := st,
                                   lastCmd := st }
    (free → areas → Completes (.clusterSwitch c q) s fun t =>
      t = s.modSched fun x =>
        { x with lastCmd := Code.ok, switching := x.switching.put c { source := p, target := q, began := s.srv.tick } })
    ∧ (¬ free → Completes (.clusterSwitch c q) s fun t => t = refused Code.resourceConflict)
    ∧ (free → ¬ areas → Completes (.clusterSwitch c q) s fun t => t = refused Code.badValue)

/-- R327: once no step, no verb and no tile of a cluster is in flight, its bindings are undone and the move begins, with the models a
weight switch needs to load; a drain that takes too long ends the switch with TIMEOUT and an event, the cluster still the source's.
Where the manual leaves a corner to reading, it is the model's: log entry 44. -/
def Sys2Proof.Claims.DrainEnds : Prop :=
  ∀ (c : Nat) (w : Switch) (s : State), s.sched.switching.seek c = some w → w.moving = false →
    (s.drained c = false → exec (.switchDrainDone c) s = .next s)
    ∧ (s.drained c = true → exec (.switchDrainTimeout c) s = .next s)
    ∧ (s.drained c = true → s.srvImage.weightSwitch = false → (∀ x ∈ s.sched.switching, x.2.loads = []) →
        Completes (.switchDrainDone c) s fun t =>
          let s1 := s.undoBindings c
          let held := (List.range 12).map fun k => (k, s.boundPorts c k)
          t = s1.modSched fun x =>
            { x with switching := x.switching.put c { w with moving := true, ports := held, loads := [] } })
    ∧ (s.drained c = false → Completes (.switchDrainTimeout c) s fun t =>
        (∀ p, (t.psched p).cores = (s.psched p).cores)
        ∧ ∃ s1, s1 = (if s.clusterHeld c = true ∧ s.verbsInFlight c = false then s.undoBindings c else s)
          ∧ t = ({ s1 with sched := { s1.sched with
                swCluster := c, swFrom := w.source, swTo := w.target, swKind := b2n s1.srvImage.weightSwitch,
                swStatus := Code.timeout, switching := s1.sched.switching.drop c } } : State).event Cls.sched Code.timeout
                Obs.ofSched w.source c 0)

/-- R327 to R329: with nothing left to load, the content of the switch moves and its cores pass from the source's core set to the
target's; SCHED_SWLAST and SCHED_SWTIME record it and an OK event names the cluster. Where the manual leaves a corner to reading, it is
the model's: log entries 27 and 44. -/
def Sys2Proof.Claims.SwitchMoves : Prop :=
  ∀ (c : Nat) (w : Switch) (s : State), s.sched.switching.seek c = some w →
    (w.moving = false ∨ w.loads ≠ [] → exec (.switchMoveDone c) s = .next s)
    ∧ (w.moving = true → w.loads = [] → Completes (.switchMoveDone c) s fun t =>
        ∃ s1, s1 = s.moveCluster c w
          ∧ t = ({ s1 with sched := { s1.sched with
                swCluster := c, swFrom := w.source, swTo := w.target, swKind := b2n s1.srvImage.weightSwitch, swStatus := Code.ok,
                swTime := (s1.srv.tick + 2 ^ 64 - w.began) % 2 ^ 32, switching := s1.sched.switching.drop c } } : State).event
                Cls.sched Code.ok Obs.ofSched w.target c 0)

/-- R328: a state switch restores what the target saved of the cluster and saves what the source had; the cores pass from one core set
to the other whole, and a core that finds nothing saved starts QUIESCENT with empty banks. Where the manual leaves a corner to reading,
it is the model's: log entry 44. -/
def Sys2Proof.Claims.MoveChangesHands : Prop :=
  ∀ (c : Nat) (w : Switch) (s : State), w.source ≠ w.target → (s.cluster c).cache = [] →
    let part := bits (s.psched w.source).cores (12 * c) 12 * 2 ^ (12 * c)
    let t := s.moveCluster c w
    ((t.psched w.source).cores = (s.psched w.source).cores - part)
    ∧ ((t.psched w.target).cores = (s.psched w.target).cores + part)
    ∧ (∀ p, p ≠ w.source → p ≠ w.target → (t.psched p).cores = (s.psched p).cores)
    ∧ (s.sched.saved.seek (16 * w.target + c) = none → ∀ k, k < 12 → bit (s.psched w.source).cores (12 * c + k) = true →
        (t.core c k).run = (if (s.core c k).run = .offline then .offline else .quiescent)
        ∧ (t.core c k).ib0 = {} ∧ (t.core c k).ib1 = {} ∧ (t.core c k).localStore = (s.core c k).localStore)

/-- R332 and R334: a core taken OFFLINE is abandoned as by ABORT with its accumulators lost and told with STATION_OFFLINE, and stays
so; an absent one is refused with RESOURCE_ABSENT. ACCT_CLR clears the counters of the classes named and no others. Where the manual
leaves a corner to reading, it is the model's: log entries 45 and 47. -/
def Sys2Proof.Claims.OfflineAndCounters : Prop :=
  (∀ (c k : Nat) (s : State), s.gram.image ≠ none → c < 16 → k < 12 →
    (s.corePresent c k = false → Completes (.coreOffline c k) s fun t =>
      t = { s with sched := { s.sched with lastCmd := Code.resourceAbsent } })
    ∧ (s.corePresent c k = true → Completes (.coreOffline c k) s fun t =>
        (t.core c k).run = .offline ∧ (t.core c k).queues = ⟨[], [], [], []⟩ ∧ t.sched.lastCmd = Code.ok
        ∧ ∃ s1, s1 = (s.abandon c k .offline).scramble c k (List.range 8)
          ∧ t = ({ s1 with sched := { s1.sched with lastCmd := Code.ok } } : State).event Cls.sched Code.stationOffline Obs.ofSched
              (pidField (s.corePid c k)) (12 * c + k) 0))
  ∧ ∀ (p classes : Nat) (s : State), s.gram.image ≠ none → p < 16 → s.defined p = true → Completes (.acctClr p classes) s fun t =>
      t = s.modPsched p fun x =>
        { x with acctM := if bit classes 0 = true then 0 else x.acctM, acctV := if bit classes 1 = true then 0 else x.acctV,
                 acctD := if bit classes 2 = true then 0 else x.acctD, acctB := if bit classes 3 = true then 0 else x.acctB }

/-! ### The model cache (R321 to R325) -/

/-- R322 and R323: a LOAD of an EMPTY or EVICTED entry takes as many free pages of the region as it needs, evicting resident entries
that nothing uses, oldest first, and the entry is LOADING; while a load runs another is refused with LOAD_BUSY, a bad description with
BAD_VALUE, and one for which no room can be made with CAPACITY. Where the manual leaves a corner to reading, it is the model's: log
entry 46. -/
def Sys2Proof.Claims.LoadTakesPages : Prop :=
  ∀ (e : Nat) (s : State), s.gram.image ≠ none → e < 64 →
    let told (st : Status) : State := { s with sched := { s.sched with mcLastCmd := st } }
    let d := s.sched.description (s.mcEntry e).pinned
    let proper := s.sched.mcPages ≠ 0 ∧ s.sched.mcLayers ≠ 0 ∧ s.sched.mcSrcKind ≤ 1 ∧ (s.sched.mcBase < 64 ∨ s.sched.mcBase = 0xFF)
      ∧ ((s.mcEntry e).state = .empty ∨ (s.mcEntry e).state = .evicted)
    (s.sched.mcBusy ≠ none → Completes (.mcLoad e) s fun t => t = told Code.loadBusy)
    ∧ (s.sched.mcBusy = none → s.sched.mcPages ≠ 0 → ¬ proper → Completes (.mcLoad e) s fun t => t = told Code.badValue)
    ∧ (s.sched.mcBusy = none → proper → State.makeRoom s.sched.mcPages 64 s = none → Completes (.mcLoad e) s fun t =>
        t = told Code.capacity)
    ∧ (∀ s1, s.sched.mcBusy = none → proper → State.makeRoom s.sched.mcPages 64 s = some s1 → Completes (.mcLoad e) s fun t =>
        t = { s1 with sched := t.sched, fresh := t.fresh } ∧ t.sched.mcBusy = some e ∧ t.sched.mcJobList = s.sched.mcList
        ∧ t.sched.mcLastCmd = Code.ok
        ∧ ∃ pages, pages.length = s.sched.mcPages ∧ (∀ x ∈ pages, x ∈ s1.freePages)
          ∧ t.mcEntry e = { d with state := .loading, pageList := pages })

/-- R323 and R324: the entries that may be replaced are those resident, not pinned, named by no request and no resident model's base: a
pin is an exemption and its end ends it. Room is made of the oldest of them, and only while free pages are wanting. -/
def Sys2Proof.Claims.RoomIsMade : Prop :=
  (∀ (pages n : Nat) (s : State), pages ≤ s.freePages.length → State.makeRoom pages n s = some s)
  ∧ (∀ (e : Nat) (x : McEntry) (s : State), s.evictable e x = true ↔
      x.state = .resident ∧ x.pinned = false ∧ s.namedEntry e = false ∧ s.baseInUse e = false)
  ∧ (∀ (e : Nat) (s : State), s.oldestEntry = some e → ∃ x ∈ s.sched.mc, x.1 = e ∧ s.evictable e x.2 = true
      ∧ ∀ y ∈ s.sched.mc, s.evictable y.1 y.2 = true → x.2.last ≤ y.2.last)
  ∧ ∀ (pages n : Nat) (s t : State), State.makeRoom pages n s = some t → pages ≤ t.freePages.length

/-- R322: a load that ends with its bytes copied and its page list written makes its entry RESIDENT, touched now, and sends OK; one
whose source answers nothing makes it EVICTED with FETCH_FAULT. Without switches no other load starts. Where the manual leaves a corner
to reading, it is the model's: log entry 46. -/
def Sys2Proof.Claims.LoadDone : Prop :=
  ∀ (e : Nat) (bytes : Option (List (Nat × Byte))) (listWritten : Bool) (s : State), s.sched.mcBusy = some e →
    s.sched.switching = [] → s.asleepAmong ((s.mcEntry e).pageList.flatMap fun p => (List.range 32768).map (p * 32768 + ·)) = [] →
    (s.mcEntry e).srcKind = 0 →
    (bytes = none ∨ s.linkUp = false → Completes (.modelLoadDone bytes listWritten) s fun t =>
      t = (({ s with sched := { s.sched with mcBusy := none, mcLastCmd := Code.fetchFault } } : State).modMc e fun x =>
        { x with state := .evicted, pageList := [], damaged := [], failed := [], lost := false }).event Cls.sched Code.fetchFault
          Obs.ofSched 0xFF e 0)
    ∧ ∀ b, bytes = some b → s.linkUp = true → listWritten = true →
        let filled := s.fillPages (s.mcEntry e).pageList fun i => (List.range 64).map fun k => Tbl.look 0 b (64 * i + k)
        Completes (.modelLoadDone bytes listWritten) s fun t =>
          (t.mcEntry e).state = .resident ∧ (t.mcEntry e).last = t.srv.tick ∧ (t.mcEntry e).pageList = (s.mcEntry e).pageList
          ∧ t.sched.mcBusy = none
          ∧ ∃ s1, s1 = filled.compWriteBytes s.sched.mcJobList ((s.mcEntry e).pageList.flatMap fun p => leBytes 8 (p * 0x200000)) .ordered
            ∧ t = ({ s1 with sched := t.sched } : State).event Cls.sched Code.ok Obs.ofSched 0xFF e 0

/-- The command has left its status in the model cache's LAST_CMD_STATUS. -/
def Sys2Proof.Claims.mcTold (st : Status) (t : State) : State := { t with sched := { t.sched with mcLastCmd := st } }

/-- R324: whether pinned or not, EVICT gives up an entry's pages and keeps its description, UNLOAD empties it; PIN and UNPIN set and
clear its pin. Each ends OK and leaves every other entry alone. -/
def Sys2Proof.Claims.PinsAndEvictions : Prop :=
  ∀ (e : Nat) (s : State), s.gram.image ≠ none → e < 64 →
    ((s.mcEntry e).state = .resident ∨ (s.mcEntry e).state = .damaged → Completes (.mcEvict e) s fun t =>
        t = Claims.mcTold Code.ok (s.modMc e fun x =>
          { x with state := .evicted, pageList := [], damaged := [], failed := [], lost := false }))
    ∧ ((s.mcEntry e).state ≠ .loading → Completes (.mcUnload e) s fun t =>
        t = Claims.mcTold Code.ok { s with sched := { s.sched with mc := s.sched.mc.drop e } })
    ∧ (Completes (.mcPin e) s fun t => t = Claims.mcTold Code.ok (s.modMc e fun x => { x with pinned := true }))
    ∧ (Completes (.mcUnpin e) s fun t => t = Claims.mcTold Code.ok (s.modMc e fun x => { x with pinned := false }))

/-- R324 with R303 and R306: at its boundary, a request of no step that failed, neither cancelled nor expired, whose model has been
unloaded ends FAULTED with CAUSE MODEL_GONE; one whose model is there and not RESIDENT, as when it was evicted, is PAUSED with
reason MODEL. -/
def Sys2Proof.Claims.GoneModelsAtBoundary : Prop :=
  ∀ (i : Nat) (s : State), (s.req i).cancelReq = false → ¬ ((s.req i).deadline ≠ 0 ∧ (s.req i).deadline ≤ s.srv.tick) →
    (s.modelGone (s.req i) = true →
      s.settleRequest i none = (false, s.endRequest i .faulted Code.modelGone Code.modelGone))
    ∧ (s.modelGone (s.req i) = false → (s.req i).draft = 0xFF → (s.mcEntry (s.req i).model).state ≠ .resident →
        s.settleRequest i none = (false, s.pause i 2))

/-- R321 and the model's reading of what R324 does not say (log entry 46): EVICT and UNLOAD of a LOADING entry are refused with
BAD_VALUE, EVICT of an EMPTY or EVICTED one ends OK without effect, and TOUCH makes an entry's LAST the tick now. -/
def Sys2Proof.Claims.ModelCacheCorners : Prop :=
  ∀ (e : Nat) (s : State), s.gram.image ≠ none → e < 64 →
    ((s.mcEntry e).state = .loading → Completes (.mcEvict e) s (fun t => t = Claims.mcTold Code.badValue s)
      ∧ Completes (.mcUnload e) s fun t => t = Claims.mcTold Code.badValue s)
    ∧ ((s.mcEntry e).state = .empty ∨ (s.mcEntry e).state = .evicted → Completes (.mcEvict e) s fun t =>
        t = Claims.mcTold Code.ok s)
    ∧ (Completes (.mcTouch e) s fun t => t = Claims.mcTold Code.ok (s.modMc e fun x => { x with last := s.srv.tick }))

/-- R31: before an image is in force, a command to the scheduling block reaches nothing and is recorded with NO_IMAGE. -/
def Sys2Proof.Claims.SchedulingNeedsImage : Prop :=
  ∀ (e x y : Nat) (by_ : Master) (c : Instr) (s : State), s.gram.image = none →
    c ∈ [Instr.mcLoad e, .mcEvict e, .mcUnload e, .mcPin e, .mcUnpin e, .mcTouch e, .clusterSwitch x y, .coreOffline x y,
      .acctClr x y, .phaseCommand by_ x] →
    Completes c s fun t => t = { s with mgmt := t.mgmt } ∧ t.mgmt.errStatus = Code.noImage
      ∧ t.mgmt.errCount = (s.mgmt.errCount + 1) % 2 ^ 32

/-! ### Event rings and interrupt vectors (R349 to R356) -/

/-- R24, R25 and R352: a happening is recorded with the next sequence number while the store has room, and its island's count,
which is never lower than that of the island's record before and the same while the island's clock is held; at a full store it is
dropped and counted in its ring, whose next record is marked LOST. Where the manual leaves a corner to reading,
it is the model's: log entries 3 and 37. -/
def Sys2Proof.Claims.EventsRecorded : Prop :=
  ∀ (cls pid d0 d1 : Nat) (code : Status) (o : Obs) (s : State),
    let t := s.event cls code o pid d0 d1
    (s.mgmt.store.length < 256 → ∃ e : Event,
      t = { s with
        mgmt := { s.mgmt with evSeq := (s.mgmt.evSeq + 1) % 2 ^ 32, store := s.mgmt.store ++ [e] }
        fresh := t.fresh, counts := t.counts, clockHeld := t.clockHeld }
      ∧ e.cls = cls ∧ e.code = code ∧ e.source = o.source ∧ e.island = o.island ∧ e.pid = pid ∧ e.ring = s.ringOf pid
      ∧ e.seq = s.mgmt.evSeq ∧ e.detail0 = d0 % 2 ^ 32 ∧ e.detail1 = d1 % 2 ^ 64
      ∧ t.counts.look 0 o.island = e.count ∧ s.counts.look 0 o.island ≤ e.count
      ∧ (s.clockHeld.contains o.island = true → e.count = s.counts.look 0 o.island))
    ∧ (256 ≤ s.mgmt.store.length → t = s.modRing (s.ringOf pid) fun x =>
        { x with dropped := (x.dropped + 1) % 2 ^ 32, lost := true })

/-- R350 to R353: the record writer writes the first waiting record whose ring is enabled and has a free slot that leaves the tail off
the head, while the link is up: 32 bytes at the tail with the ring's PHASE and LOST; the tail moves on, PHASE turns over with the
ring's end, and the ring's vector is told. Without such a record nothing happens. Where the manual leaves a corner to reading, it is
the model's: log entry 37. -/
def Sys2Proof.Claims.RecordsWritten : Prop :=
  (∀ s : State, s.nextRecord s.mgmt.store = none → exec .eventRecordWrite s = .next s)
  ∧ (∀ s : State, s.linkUp = false → exec .eventRecordWrite s = .next s)
  ∧ ∀ (e : Event) (rest : List Event) (s : State), s.nextRecord s.mgmt.store = some (e, rest) →
      Completes .eventRecordWrite s fun t =>
        let x := s.ring e.ring
        (x.enable = true ∧ (x.tail + 1) % 2 ^ x.log2 ≠ x.head % 2 ^ x.log2 ∧ (e.bytes x.phase x.lost).length = 32)
        ∧ t = ((({ s with mgmt := { s.mgmt with store := rest } } : State).compWriteBytes (x.base + 32 * x.tail)
            (e.bytes x.phase x.lost) .ordered).modRing e.ring fun y =>
              { y with tail := (x.tail + 1) % 2 ^ x.log2, lost := false,
                       phase := if (x.tail + 1) % 2 ^ x.log2 = 0 then !y.phase else y.phase }).notify (x.vec.getD e.ring)

/-- R353: a vector that is told sends a release write of its data to its address, unless it is masked, when it pends, or in its
holdoff, when the message is owed; unmasking sends a pending message, the holdoff's end an owed one. That a vector pends whose message
finds the link down is the model's choice: log entry 37. -/
def Sys2Proof.Claims.VectorsNotify : Prop :=
  ∀ (v : Nat) (s : State),
    let x := s.vec v
    let sent (s : State) : State :=
      if s.linkUp = false then s.modVec v fun x => { x with pend := true }
      else (s.emit (.compWrite x.addr .release (leBytes 4 x.data))).modVec v fun x =>
        { x with pend := false, holding := decide (0 < s.holdoff v), owed := false }
    (s.notify v = if x.mask = true then s.modVec v fun x => { x with pend := true }
      else if x.holding = true then s.modVec v fun x => { x with owed := true } else sent s)
    ∧ (v < 32 → x.pend = false → Completes (.ivUnmask v) s fun t => t = s.modVec v fun x => { x with mask := false })
    ∧ (v < 32 → x.pend = true → Completes (.ivUnmask v) s fun t => t = sent (s.modVec v fun x => { x with mask := false }))
    ∧ (x.holding = false → exec (.interruptHoldoffEnd v) s = .next s)
    ∧ (x.holding = true → x.owed = false → Completes (.interruptHoldoffEnd v) s fun t =>
        t = s.modVec v fun x => { x with holding := false, owed := false })
    ∧ (x.holding = true → x.owed = true → x.mask = false → Completes (.interruptHoldoffEnd v) s fun t =>
        t = sent (s.modVec v fun x => { x with holding := false, owed := false }))

/-- R349 and R356: a ring that is not enabled takes an aligned base and starts over; its configuration sets its size, enable, vector
and holdoff, and a new size starts it over; a reserved value, a ring out of number or a change while enabled is refused, recorded
with BAD_VALUE. -/
def Sys2Proof.Claims.RingsConfigured : Prop :=
  ∀ (r v : Nat) (s : State),
    let x := s.ring r
    let here := r < 16 ∧ (r = 0 ∨ r < s.rings)
    let log2 := bits v 0 4
    (here → v < 2 ^ 64 → v % 4096 = 0 → x.enable = false → Completes (.eventRingConfig r true v) s fun t =>
      t = s.modRing r fun x => { x with base := v, tail := 0, phase := true, head := 0 })
    ∧ (¬ here ∨ v % 4096 ≠ 0 ∨ x.enable = true → Completes (.eventRingConfig r true v) s fun t =>
        t = s.recordAccess Code.badValue (0x8000 + 0x40 * r))
    ∧ (here → 6 ≤ log2 → log2 ≤ 14 → log2 = x.log2 → Completes (.eventRingConfig r false v) s fun t =>
        t = s.modRing r fun x => { x with enable := bit v 4, vec := some (bits v 5 5), holdoff := bits v 16 16 })
    ∧ (here → 6 ≤ log2 → log2 ≤ 14 → log2 ≠ x.log2 → x.enable = false → Completes (.eventRingConfig r false v) s fun t =>
        t = s.modRing r fun x => { x with log2 := log2, tail := 0, phase := true, head := 0, enable := bit v 4,
                                          vec := some (bits v 5 5), holdoff := bits v 16 16 })
    ∧ (¬ here ∨ log2 < 6 ∨ 14 < log2 ∨ (x.enable = true ∧ log2 ≠ x.log2) → Completes (.eventRingConfig r false v) s fun t =>
        t = s.recordAccess Code.badValue (0x8000 + 0x40 * r + 8))

/-! ### The Xomon link (R336 to R348, R354) -/

/-- R354: what the link loses when it goes down: its state, its directory, its cache with the dirty lines counted, and the
withdrawals, whose writes then complete; the intake holds no ring line any more. -/
def Sys2Proof.Claims.linkGone (s : State) : State :=
  let xl : Xl := { s.xl with
    state := .down, train := .idle, directory := [], withdraws := [], fills := [], cache := []
    lostDirty := s.xl.lostDirty + (s.xl.cache.filter fun l => l.2.dirty).length
    downOwed := s.xl.downOwed || s.xl.wasUp
    downs := (s.xl.downs + 1) % 2 ^ 16 }
  let srv : Srv := { s.srv with parts := s.srv.parts.map fun (p, x) => (p, { x with lines := [] }) }
  (s.xl.withdraws.filterMap (·.2)).foldl (fun s op => s.submit op) { s with xl := xl, srv := srv }

/-- R337, R354 and R422: XL_PERST_n asserted takes the link down, released it trains again; a link that is down trains again at its
retry or by RETRAIN, and one that is up retrains; a failed lane is masked out and the link retrains; training that fails takes the link
down; a replay is counted. Where the manual leaves a corner to reading, it is the model's: log entry 34. -/
def Sys2Proof.Claims.LinkStates : Prop :=
  ∀ s : State,
    let canTrain := s.mgmt.boot = .ready ∧ s.xl.state = .down ∧ bit s.pwr.domOn 66 = true
    let trains (s : State) : State := { s with xl := { s.xl with state := .training, train := .detect } }
    (s.xl.perst = false → s.xl.state ≠ .down → Completes .xlPerstAssert s fun t =>
      t = (Claims.linkGone s).modXl fun x => { x with perst := true })
    ∧ (s.xl.perst = false → s.xl.state = .down → Completes .xlPerstAssert s fun t => t = s.modXl fun x => { x with perst := true })
    ∧ (canTrain → Completes .xlPerstRelease s fun t => t = trains (s.modXl fun x => { x with perst := false }))
    ∧ (¬ canTrain → Completes .xlPerstRelease s fun t => t = s.modXl fun x => { x with perst := false })
    ∧ (canTrain → s.xl.perst = false → Completes .linkRetryTimer s (fun t => t = trains s)
        ∧ Completes .xlRetrain s fun t => t = trains (s.modXl fun x => { x with lastCmd := Code.ok }))
    ∧ (s.xl.perst = true ∨ ¬ canTrain → exec .linkRetryTimer s = .next s)
    ∧ (s.xl.state = .up → Completes .xlRetrain s fun t =>
        t = s.modXl fun x => { x with state := .retraining, train := .equalise, lastCmd := Code.ok })
    ∧ (∀ lane, s.xl.state = .up → lane < 16 → Completes (.linkLaneFail lane) s fun t =>
        t = (s.modXl fun x => { x with lanes := putBit x.lanes lane false, state := .retraining, train := .equalise }))
    ∧ (s.xl.state = .training ∨ s.xl.state = .retraining → Completes .linkTrainingFailure s fun t => t = Claims.linkGone s)
    ∧ (s.linkUp = true → Completes .flitReplay s fun t => t = s.modXl fun x => { x with replays := (x.replays + 1) % 2 ^ 32 })

/-- R337 to R339: in L0 the hand-off window opens while a half of the lanes is good; the companion reads the device's capability and
writes its own with its windows, and its REQUEST is granted the highest generation both offer at the width of the good lanes, or
refused and the link goes down; a window that passes leaves the link to a root port, where PCI Express is permitted. Where the manual
leaves a corner to reading, it is the model's: log entry 34. -/
def Sys2Proof.Claims.LinkHandsOff : Prop :=
  ∀ s : State,
    (∀ good, s.xl.train = .detect → Completes (.linkL0 good) s fun t =>
      let begun : State := s.modXl fun x =>
        { x with lanes := good % 2 ^ 16, compCap := 0, compWin := [], grant := false, refused := false, gen := 0,
                 grantWidth := 0, rootPort := false, root64 := false }
      t = if bits good 0 8 = 0xFF ∨ bits good 8 8 = 0xFF then begun.modXl fun x => { x with train := .window }
        else Claims.linkGone begun)
    ∧ (s.xl.train = .window →
      let c := s.xl.compCap
      let gen := commonGen s.devCap c
      (bit c 3 = true → bit c 6 = true → gen ≠ 0 → c < 2 ^ 7 → Completes .handoffRequest s fun t =>
        t = s.modXl fun x => { x with grant := true, gen := gen, grantWidth := widthOf x.lanes, train := .granted })
      ∧ (bit c 3 = false ∨ bit c 6 = false ∨ gen = 0 ∨ 2 ^ 7 ≤ c → Completes .handoffRequest s fun t =>
          t = (Claims.linkGone s).modXl fun x => { x with refused := true })
      ∧ (∀ p64, s.xl.pcieOk = true → Completes (.handoffWindowExpire p64) s fun t =>
          t = s.modXl fun x => { x with rootPort := true, root64 := p64, train := .equalise })
      ∧ (∀ p64, s.xl.pcieOk = false → Completes (.handoffWindowExpire p64) s fun t => t = Claims.linkGone s)
      ∧ ∀ v, v < 2 ^ 64 → Completes (.configAccess true 0x110 8 v) s fun t =>
          t = { s with xl := t.xl } ∧ t.xl.compCap = v ∧ t.xl.train = .window ∧ t.xl.grant = s.xl.grant)
    ∧ (∀ off size, s.xl.train = .window ∨ s.xl.train = .granted → 0x100 ≤ off → off + size ≤ 0x140 →
        Completes (.configAccess false off size 0) s fun t =>
          t = s.emit (.configReply (leAt s.capability (off - 0x100) size)) ∧ s.capability.length = 64
          ∧ leAt s.capability 0 4 = 0x0001000B)
    ∧ (s.xl.train = .granted → Completes .handoffRecoveryTimer s fun t => t = s.modXl fun x => { x with train := .equalise })
    ∧ (s.xl.train ≠ .granted → exec .handoffRecoveryTimer s = .next s)
    ∧ (s.xl.train ≠ .window → exec .handoffRequest s = .next s)

/-- R339, R340, R354 and R423: after equalisation the link comes up in the mode settled, at the width of the good lanes, with the
features both ends offer, none beside a root port; the first time after a reset its first event goes ahead; a link that retrained, went
down before or comes up short of width or generation says so. Where the manual leaves a corner to reading, it is the model's: log entry
34. -/
def Sys2Proof.Claims.LinkComesUp : Prop :=
  ∀ s : State, s.xl.train = .equalise ∨ s.xl.train = .granted →
    let w := widthOf s.xl.lanes
    (s.settle.1 ≠ 0 → w ≠ 0 → (s.xl.rootPort = true → s.xl.pcieOk = true) → Completes .linkUp s fun t =>
      t.xl.state = .up ∧ t.xl.train = .idle ∧ t.xl.mode = s.settle.1 ∧ t.xl.width = w ∧ t.xl.windows = s.xl.compWin
      ∧ t.xl.feat = (if s.xl.rootPort = true then 0 else bits (s.devCap &&& s.xl.compCap) 3 4)
      ∧ t.xl.wasUp = true ∧ t.xl.downOwed = false
      ∧ t.xl.retrains = (if s.xl.state = .retraining then (s.xl.retrains + 1) % 2 ^ 16 else s.xl.retrains)
      ∧ (s.xl.wasUp = true → s.mgmt.afterRestart = false → s.xl.state ≠ .retraining → s.xl.downOwed = false → w = 16 →
          (s.settle.2 = 0 ∨ s.xl.maxgen ≤ s.settle.2) → t = { s with xl := t.xl })
      ∧ (s.xl.wasUp = true → s.mgmt.afterRestart = false → s.xl.state ≠ .retraining → s.xl.downOwed = true → w = 16 →
          (s.settle.2 = 0 ∨ s.xl.maxgen ≤ s.settle.2) →
          t = ({ s with xl := t.xl } : State).event Cls.xl Code.linkDown Obs.ofXl 0xFF s.xl.lostDirty 0))
    ∧ (s.settle.1 = 0 ∨ w = 0 → Completes .linkUp s fun t => t = Claims.linkGone s)

/-- R342, R343 and R345: a snoop is answered by what the link cache holds, a dirty copy given up; the companion's answer to a
withdrawal merges its dirty copy and lets the writes that waited proceed; withdrawals left unanswered take the link down with
SNOOP_TIMEOUT. Where the manual leaves a corner to reading, it is the model's: log entry 35. -/
def Sys2Proof.Claims.SnoopsAnswered : Prop :=
  ∀ (line : Nat) (s : State), s.linkUp = true →
    (s.xl.rootPort = false → s.xl.cache.seek line = none → Completes (.companionSnoop line) s fun t =>
      t = s.emit (.snoopReply line false none))
    ∧ (∀ x, s.xl.rootPort = false → s.xl.cache.seek line = some x → x.watched = false → Completes (.companionSnoop line) s fun t =>
        t = (s.emit (.snoopReply line true (if x.dirty then some x.bytes else none))).modXl fun y => { y with cache := y.cache.drop line })
    ∧ (∀ dirty, (∀ w ∈ s.xl.withdraws, w.1 ≠ line) → exec (.withdrawAnswer line dirty) s = .next s)
    ∧ (s.xl.withdraws = [(line, none)] → s.xl.fills = [] → Completes (.withdrawAnswer line none) s fun t =>
        t = s.modXl fun x => { x with withdraws := [], directory := x.directory.filter (· != line) })
    ∧ (∀ op, s.xl.withdraws = [(line, some op)] → Completes (.withdrawAnswer line none) s fun t =>
        t = ((s.modXl fun x => { x with withdraws := [], directory := x.directory.filter (· != line),
                                        fills := x.fills.filter (· != line) }).submit op).pumpFills)
    ∧ (s.xl.withdraws ≠ [] → Completes .snoopTimeout s fun t =>
        t = Claims.linkGone (s.event Cls.xl Code.snoopTimeout Obs.ofXl 0xFF 0 0))
    ∧ (s.xl.withdraws = [] → exec .snoopTimeout s = .next s)

/-! ### The companion's windows and the control cores (R183, R340 to R347) -/

/-- R340, R342 and R347: a companion read of window 0 answers the register; of window 1, the bytes of device memory its lines hold,
which join the directory while coherence is in force, or WINDOW_RANGE where a line has no channel; of window 2, a core's local store;
any other window is WINDOW_RANGE. An uncorrectable line is answered poisoned, or POISONED without data where that cannot be told. Where
the manual leaves a corner to reading, it is the model's: log entry 36. -/
def Sys2Proof.Claims.CompanionReads : Prop :=
  ∀ (off size : Nat) (u : Upset) (s : State),
    (Completes (.companionRead 0 off size u) s fun t =>
      t = (s.readReg .companion off size).2.emit (.readReply Code.ok false (leBytes size (s.readReg .companion off size).1)))
    ∧ (0xC000000000 < off + size ∨ s.linesServed (lineRange off size) = false → Completes (.companionRead 1 off size u) s fun t =>
        t = s.emit (.readReply Code.windowRange false []))
    ∧ (∀ b poisoned s1, off + size ≤ 0xC000000000 → s.linesServed (lineRange off size) = true →
        State.readForCompanion (lineRange off size) (s.strike u) = (.ok (b, poisoned), s1) →
        Completes (.companionRead 1 off size u) s fun t =>
          let kept := if s1.cohD = true then (lineRange off size).foldl (fun t l => State.recordFill t l) s1 else s1
          t = if poisoned = true ∧ kept.canFlag = false then kept.emit (.readReply Code.poisoned false [])
            else kept.emit (.readReply Code.ok poisoned (slice b (off % 64) size)))
    ∧ (∀ c k, s.windowCore off = some (c, k) → off % 0x200000 + size ≤ 0x200000 → u.localStore = none →
        (∀ w ∈ (s.core c k).lsBad, off % 0x200000 + size ≤ w ∨ w + 8 ≤ off % 0x200000) → Completes (.companionRead 2 off size u) s fun t =>
          t = s.emit (.readReply Code.ok false (Memory.readList (s.core c k).localStore (off % 0x200000) size)))
    ∧ (s.windowCore off = none → Completes (.companionRead 2 off size u) s fun t => t = s.emit (.readReply Code.windowRange false []))
    ∧ ∀ w, 3 ≤ w → Completes (.companionRead w off size u) s fun t => t = s.emit (.readReply Code.windowRange false [])

/-- R340, R346 and R347: a companion write waits for the earlier ones its order follows; then window 0 takes it as a register write,
window 1 line by line at the base dies, poisoned where that can be told, window 2 in a core's local store, with WINDOW_RANGE where
there is nothing to write. An unlocked debug module, whose registers the manual does not give, is refused by name. Where the manual
leaves a corner to reading, it is the model's: log entries 11 and 36. -/
def Sys2Proof.Claims.CompanionWrites : Prop :=
  ∀ (off : Nat) (order : Ordering) (poisoned : Bool) (b : List Byte) (s : State),
    (∀ w, s.companionMustWait order = true → exec (.companionWrite w off order poisoned b) s = .next s)
    ∧ (s.companionMustWait order = false →
      (s.debugOpen off = false → Completes (.companionWrite 0 off order poisoned b) s fun t =>
        t = (s.writeReg .companion off b.length (leNat b)).emit (.writeReply Code.ok))
      ∧ (s.debugOpen off = true → exec (.companionWrite 0 off order poisoned b) s = .refused .debugModule)
      ∧ (0xC000000000 < off + b.length ∨ s.linesServed (lineRange off b.length) = false →
          Completes (.companionWrite 1 off order poisoned b) s fun t => t = s.emit (.writeReply Code.windowRange))
      ∧ (off + b.length ≤ 0xC000000000 → s.linesServed (lineRange off b.length) = true →
          Completes (.companionWrite 1 off order poisoned b) s fun t =>
            t = (lineRange off b.length).foldl (fun s l =>
              State.submit s (writeOfLine off b l (orderTag order) (poisoned && s.canFlag))) s)
      ∧ (∀ c k, s.windowCore off = some (c, k) → off % 0x200000 + b.length ≤ 0x200000 →
          Completes (.companionWrite 2 off order poisoned b) s fun t =>
            t = (s.localWrite c k (off % 0x200000) b.length b (2 ^ b.length - 1)).emit (.writeReply Code.ok))
      ∧ (s.windowCore off = none → Completes (.companionWrite 2 off order poisoned b) s fun t =>
          t = s.emit (.writeReply Code.windowRange))
      ∧ ∀ w, 3 ≤ w → Completes (.companionWrite w off order poisoned b) s fun t => t = s.emit (.writeReply Code.windowRange))

/-- R149 and R183: an access of a control core returns what its body does in its cluster's partition's space, a failed one is
recorded, one that waits has not happened; a load of a register of its own cluster's block returns the register; a store-conditional
stores only under the reservation of its line, which it ends, and a FENCE that is not full waits for nothing. The codes of the AMO
operations and of a store-conditional's result are the family's (log entry 23). -/
def Sys2Proof.Claims.ControlCoreAccesses : Prop :=
  ∀ (c : Nat) (x : CcAccess) (u : Upset) (s : State),
    let a := s.controlCore c u
    let s0 := (s.strike u).ccUpset a (ccAddress x)
    (∀ v s1, (ccBody a x).run s0 = (.ok v, s1) → Completes (.controlCoreAccess c x u) s fun t =>
      t = s1.modCluster c fun y => { y with ccData := v })
    ∧ (∀ st s1, (ccBody a x).run s0 = (.error (.fault st), s1) → Completes (.controlCoreAccess c x u) s fun t =>
        t = s1.modCluster c fun y => { y with ccFault := some st })
    ∧ (x = .fence false → u = {} → Completes (.controlCoreAccess c x u) s fun t =>
        t = s.modCluster c fun y => { y with ccData := y.ccData })
    ∧ (∀ va size v r s1, x = .storeConditional va size v → (ccBody a x).run s0 = (.ok r, s1) → (r = 0 ∨ r = 1))
    ∧ ∀ off size, x = .loadRegister off size → u = {} → Completes (.controlCoreAccess c x u) s fun t =>
        t = (s.readReg (.controlCore c) (0x800000 + c * 0x20000 + off % 0x20000) size).2.modCluster c fun y =>
          { y with ccData := (s.readReg (.controlCore c) (0x800000 + c * 0x20000 + off % 0x20000) size).1 }

/-! ### Fabric ports and flows (R358 to R362, R373, R375) -/

/-- R360, R361 and R373: a port enabled and powered that trains comes up at the slowest of the image's rate and what was agreed, on the
lanes of its mode, tells so, and PORT_DEGRADED where it fell short, and its open flows send again; one that is down or up, or whose
lanes give no mode, does not come up. A port that cannot be brought up is DOWN, its flows failed with PORT_DOWN, and tells so once. -/
def Sys2Proof.Claims.PortsComeUp : Prop :=
  ∀ (f rate lanes : Nat) (s : State),
    let x := s.port f
    let r := max (s.fabRec f).rate (min rate 2)
    (s.portReady f = false ∨ x.state = .off ∨ x.state = .up → exec (.portLinkUp f rate lanes) s = .next s)
    ∧ (s.portReady f = true → x.state ≠ .off → x.state ≠ .up →
      (portMode r lanes = none → Completes (.portLinkUp f rate lanes) s fun t => t = s.modPort f fun x => { x with lanes := lanes % 256 })
      ∧ ∀ w4 half, portMode r lanes = some (w4, half) → (∀ y ∈ x.flows, y.2.state ≠ .open_) →
          Completes (.portLinkUp f rate lanes) s fun t =>
            let up := (s.modPort f fun x =>
              { x with state := .up, rate := r, width4 := w4, half := half, lanes := lanes % 256, downSent := false }).event Cls.fab
                Code.ok (Obs.ofPort f) 0xFF f 0
            t = if (s.fabRec f).rate < r ∨ w4 = true then up.event Cls.fab Code.portDegraded (Obs.ofPort f) 0xFF f 0 else up)
    ∧ (x.state.pending = false → exec (.portDownTimeout f) s = .next s)
    ∧ (x.state.pending = true → Completes (.portDownTimeout f) s fun t =>
        let failed := (s.portFail f).modPort f fun x => { x with state := .down }
        t = if (failed.port f).downSent = true then failed
          else (failed.modPort f fun x => { x with downSent := true }).event Cls.fab Code.portDown (Obs.ofPort f) 0xFF f 0)
    ∧ (x.state.pending = true ∨ x.state = .down → Completes (.portBringupFailure f true) s fun t =>
        t = s.event Cls.fab Code.anFailed (Obs.ofPort f) 0xFF f 0)
    ∧ (Completes (.portLossOfLock f) s fun t =>
        t = s.modPort f fun x => if x.state = .up then { x with state := .retraining } else x)
    ∧ (s.portPresent f = true → s.gram.image ≠ none → Completes (.fabRetrain f) s fun t =>
        t = s.modPort f fun x => { x with lastCmd := Code.ok, state := if x.state = .up then .retraining else x.state })
    ∧ (s.portPresent f = false → Completes (.fabRetrain f) s fun t => t = s.recordAccess Code.badAccess (0x100000 + f * 0x10000 + 4))

/-- R361: the lanes a port can use: all eight, except at the lowest rate, or one half of four. -/
def Sys2Proof.Claims.PortModes : Prop :=
  ∀ rate lanes : Nat, lanes < 256 →
    (lanes = 0xFF → rate ≠ 2 → portMode rate lanes = some (false, false))
    ∧ (lanes = 0xFF → rate = 2 → portMode rate lanes = some (true, false))
    ∧ (lanes ≠ 0xFF → lanes % 16 = 0xF → portMode rate lanes = some (true, false))
    ∧ (lanes % 16 ≠ 0xF → lanes / 16 = 0xF → portMode rate lanes = some (true, true))
    ∧ (lanes % 16 ≠ 0xF → lanes / 16 ≠ 0xF → portMode rate lanes = none)

/-- R362, R373 and R375: an entry enabled becomes a flow in its hello with a fresh transport state and an EPOCH of its own; one already
enabled, or with a reserved station, is refused with FLOW_INVALID. Cleared, it is closed, and those who wait on it fault with
FLOW_FAILED. -/
def Sys2Proof.Claims.FlowsOpenAndClose : Prop :=
  ∀ (f n : Nat) (s : State), n < 1024 → s.portPresent f = true → s.gram.image ≠ none →
    let fl := s.flow f n
    (fl.enable = true ∨ (fl.stream = true ∧ station fl.local_ = .reserved) → Completes (.flowOpen f n) s fun t =>
      t = s.modPort f fun x => { x with lastCmd := Code.flowInvalid })
    ∧ (fl.enable = false → (fl.stream = true → station fl.local_ ≠ .reserved) → Completes (.flowOpen f n) s fun t =>
        t = { s with fab := t.fab, cores := t.cores, clusters := t.clusters, fresh := s.fresh + 1 }
        ∧ (t.flow f n).state = .hello ∧ (t.flow f n).enable = true ∧ (t.flow f n).sendPsn = 0 ∧ (t.flow f n).expect = 0
        ∧ (t.flow f n).window = [] ∧ (t.flow f n).queue = [] ∧ (t.flow f n).epoch ≠ fl.epoch % 2 ^ 32
        ∧ (t.flow f n).rflow = fl.rflow ∧ (t.flow f n).pid = fl.pid ∧ (t.flow f n).stream = fl.stream
        ∧ (t.port f).lastCmd = Code.ok ∧ ∀ m, m ≠ n → t.flow f m = s.flow f m)
    ∧ (fl.enable = false → Completes (.flowClose f n) s fun t => t = s.modPort f fun x => { x with lastCmd := Code.ok })
    ∧ (fl.enable = true → Completes (.flowClose f n) s fun t =>
        t = ((s.failWaiters f n Code.flowFailed).modFlow f n fun fl =>
          { fl with state := .closed, err := 0, enable := false, waiters := [], queue := [], window := [], requests := [],
                    begun := false, tileIn := [], tileSize := 0 }).modPort f fun x => { x with lastCmd := Code.ok })

/-- R359 and R362: while a flow is in its hello over a port that is up, its HELLO goes out with its EPOCH and what this device offers;
with no agreement in time the flow is in ERROR with FLOW_FAILED. Neighbor Solicitations for the port's address are answered on a
port that is up and carries UDP. -/
def Sys2Proof.Claims.HelloTimers : Prop :=
  ∀ (f n : Nat) (s : State),
    ((s.port f).state = .up → (s.flow f n).state = .hello → Completes (.helloSendTimer f n) s fun t =>
      t = s.flowEmit f n { typ := 0, len := 32, payload := s.helloPayload f n } ∧ (s.helloPayload f n).length = 32
      ∧ leAt (s.helloPayload f n) 0 4 = (s.flow f n).epoch % 2 ^ 32)
    ∧ ((s.port f).state ≠ .up ∨ (s.flow f n).state ≠ .hello → exec (.helloSendTimer f n) s = .next s)
    ∧ ((s.flow f n).state = .hello → Completes (.helloTimeout f n) s fun t => t = s.flowError f n Code.flowFailed)
    ∧ ((s.flow f n).state ≠ .hello → exec (.helloTimeout f n) s = .next s)
    ∧ ((s.port f).state = .up → (s.fabRec f).carriage = 1 → Completes (.neighborSolicitation f (s.port f).ip) s fun t =>
        t = s.emit (.advertisement f))
    ∧ ∀ target, target ≠ (s.port f).ip → exec (.neighborSolicitation f target) s = .next s

/-- R362: a HELLO is answered with HELLO_ACK and the two ends agree on the smaller payload and the common features, or the flow is in
ERROR with HELLO_MISMATCH; the HELLO_ACK that agrees opens it; a HELLO with another EPOCH fails an open flow. Where the manual leaves a
corner to reading, it is the model's: log entry 49. -/
def Sys2Proof.Claims.HellosAgree : Prop :=
  ∀ (f : Nat) (p : Packet) (rest : List Packet) (s : State), (s.port f).rx = p :: rest →
    let n := p.dflow
    let s0 := s.modPort f fun x => { x with rx := rest }
    let fl := s.flow f n
    let offered := leAt p.payload 7 1 % 16
    let sound := bit (leAt p.payload 4 2) 0 = true ∧ (fl.stream = true → bit offered 1 = true)
    let agreed := { fl with payload := min (s.port f).mtu (leAt p.payload 6 1), feat := offered, peerEpoch := some (leAt p.payload 0 4) }
    (p.typ = 0 → fl.state = .hello → sound → Completes (.hello f) s fun t =>
      t = (s0.sendHelloAck f n).modFlow f n fun _ => agreed)
    ∧ (p.typ = 0 → fl.state = .hello → ¬ sound → Completes (.hello f) s fun t =>
        t = (s0.sendHelloAck f n).flowError f n Code.helloMismatch)
    ∧ (p.typ = 0 → fl.state = .open_ → fl.peerEpoch = some (leAt p.payload 0 4) → Completes (.hello f) s fun t => t = s0.sendHelloAck f n)
    ∧ (p.typ = 0 → fl.state = .open_ → fl.peerEpoch ≠ some (leAt p.payload 0 4) → Completes (.hello f) s fun t =>
        t = s0.flowError f n Code.flowFailed)
    ∧ (p.typ = 1 → fl.state = .hello → sound → Completes (.helloAck f) s fun t =>
        t = s0.modFlow f n fun _ => { agreed with state := .open_ })
    ∧ (p.typ = 1 → fl.state = .hello → ¬ sound → Completes (.helloAck f) s fun t => t = s0.flowError f n Code.helloMismatch)
    ∧ (p.typ ≠ 0 → exec (.hello f) s = .next s) ∧ (p.typ ≠ 1 → exec (.helloAck f) s = .next s)

/-! ### Frames and packets (R359, R363 to R374) -/

/-- R359 and R364: a frame on a port that is up is counted in bytes and dropped into one of four counts, a bad check sequence first, a
control frame, another's address, a malformed header; a sound one whose packet its flow takes waits at the port; by how much the
FEC's counts have risen since is free. Where the manual leaves a corner to reading, it is the model's: log entry 48. -/
def Sys2Proof.Claims.FramesReceived : Prop :=
  ∀ (f : Nat) (m : Frame) (s : State),
    let x := s.port f
    let s0 := (s.fecRise f).modPort f fun x => { x with bytesIn := (x.bytesIn + m.bytes) % 2 ^ 64 }
    let carriage := (s.fabRec f).carriage
    let drop (d : Drop) : Prop := Completes (.frameReceive f m) s fun t => t = s0.modPort f fun x => x.countDrop d
    (x.state ≠ .up → exec (.frameReceive f m) s = .next s)
    ∧ (x.state = .up →
      (m.fcsOk = false → drop .fcs)
      ∧ (m.fcsOk = true → m.etype = 0x8808 ∨ m.dmac / 16 = 0x0180C200000 → drop .ctrl)
      ∧ (m.fcsOk = true → m.etype ≠ 0x8808 → m.dmac / 16 ≠ 0x0180C200000 → m.dmac ≠ x.mac → drop .addr)
      ∧ (m.fcsOk = true → m.etype ≠ 0x8808 → m.dmac / 16 ≠ 0x0180C200000 → m.dmac = x.mac →
          (1 < m.tags ∨ m.bytes < 64 ∨ 9216 < m.bytes → drop .badHdr)
          ∧ (m.tags ≤ 1 → 64 ≤ m.bytes → m.bytes ≤ 9216 → m.etype = x.etype → x.etype ≠ 0x86DD →
            (carriage ≠ 0 → drop .badHdr)
            ∧ (carriage = 0 → s.flowTakes f m.packet = false → drop .badHdr)
            ∧ (carriage = 0 → s.flowTakes f m.packet = true → Completes (.frameReceive f m) s fun t =>
                t = s0.modPort f fun x => { x with rx := x.rx ++ [{ m.packet with ce := false }] }))))

/-- R363 and R365: a packet leaves in an Ethernet frame of at least 64 bytes: the flow's DMAC, the port's MAC, a tag where VLAN_EN is set,
then with CARRIAGE 0 FAB_ETYPE, the transport header of 32 bytes and the payload, with CARRIAGE 1 an IPv6 header from FAB_IP to PEER_IP
of hop limit 64 and a UDP header whose checksum makes the sum of the datagram and its pseudo-header zero; the FCS is the CRC-32 of all
before it. The header carries the flow's RFLOW, its own number and its receive state. Where the manual leaves a corner to reading, it is
the model's: log entry 92. -/
def Sys2Proof.Claims.FramesSent : Prop :=
  ∀ (f n : Nat) (p : Packet) (s : State),
    let x := s.port f
    let fl := s.flow f n
    let m := s.frame f n p
    let body := packetHeader p ++ p.payload
    let tag := if fl.vlanEn = true then 4 else 0
    let ip := m.drop (14 + tag)
    (packetHeader p).length = 32 ∧ 64 ≤ m.length
    ∧ m.take 12 = beBytes 6 fl.dmac ++ beBytes 6 x.mac
    ∧ (fl.vlanEn = true → (m.drop 12).take 4 = [0x81, 0x00] ++ beBytes 2 (0x2000 * fl.pcp + fl.vid))
    ∧ m.drop (m.length - 4) = leBytes 4 (crc32 (m.take (m.length - 4)))
    ∧ ((s.fabRec f).carriage = 0 → (m.drop (12 + tag)).take (2 + body.length) = beBytes 2 x.etype ++ body)
    ∧ ((s.fabRec f).carriage ≠ 0 →
        (m.drop (12 + tag)).take 2 = [0x86, 0xDD] ∧ (ip.drop 6).take 34 = [17, 64] ++ leBytes 16 x.ip ++ leBytes 16 fl.peerIp
        ∧ (ip.drop 40).take 6 = beBytes 2 (0xC000 + n) ++ beBytes 2 x.udp ++ beBytes 2 (8 + body.length)
        ∧ (ip.drop 48).take body.length = body
        ∧ sumWords ((ip.drop 8).take 32 ++ beBytes 4 (8 + body.length) ++ beBytes 4 17 ++ (ip.drop 40).take (8 + body.length)) % 0xFFFF = 0)
    ∧ ∃ q : Packet, (s.flowEmit f n p).out = s.out ++ [.packet f n q (s.frame f n q)]
        ∧ q = { p with dflow := fl.rflow, sflow := n, recvPsn := fl.expect, donePsn := fl.done, ceEcho := fl.ceEcho }

/-- R365 and R366: a packet is taken by the flow it names only if that is open, or in its hello for a HELLO, expects packets of the
peer's flow and of its type, and the packet's version, reserved bits, length and operation are those of its type. Where the manual
leaves a corner to reading, it is the model's: log entry 48. -/
def Sys2Proof.Claims.FlowTakesPackets : Prop :=
  ∀ (f : Nat) (p : Packet) (s : State), s.flowTakes f p = true →
    let fl := s.flow f p.dflow
    p.dflow < 1024 ∧ p.sflow = fl.rflow ∧ p.ver = 1 ∧ p.reserved = 0 ∧ p.typ ≤ 12
    ∧ (fl.state = .open_ ∨ (fl.state = .hello ∧ p.typ ≤ 1)) ∧ (p.typ = 9 ∨ p.typ = 10 → fl.stream = true)
    ∧ (2 ≤ p.typ → p.typ ≤ 6 → fl.stream = false) ∧ (p.typ ≠ 3 → p.payload.length = p.len)
    ∧ (p.typ = 3 → p.payload = [] ∧ p.len ≤ payloadBytes fl.payload)

/-- R371 and R372: what every packet carries: RECV_PSN takes the packets it covers out of the window, which grows by one for each whole
window covered up to 256; DONE_PSN ends the writes it covers; a CE mark is remembered for the next ACK. Where the manual leaves a
corner to reading, it is the model's: log entry 49. -/
def Sys2Proof.Claims.ReceiveStateCovers : Prop :=
  ∀ (fl : Flow) (recv : Nat),
    let g := fl.coverRecv recv
    (psnReached recv fl.peerRecv = true → psnReached fl.sendPsn recv = true →
      g.peerRecv = recv ∧ (∀ w, w ∈ g.window ↔ w ∈ fl.window ∧ psnReached w.1.psn recv = true)
      ∧ (g.cwnd = fl.cwnd ∨ g.cwnd = min 256 (fl.cwnd + 1))
      ∧ (fl.covered + (fl.window.length - g.window.length) < fl.cwnd → g.cwnd = fl.cwnd))
    ∧ (psnReached recv fl.peerRecv = false ∨ psnReached fl.sendPsn recv = false → g = fl)
    ∧ g.sendPsn = fl.sendPsn ∧ g.waiters = fl.waiters ∧ g.state = fl.state

/-- R370 and R371: a sequenced packet of an open flow with the PSN expected is accepted, and an ACK is due after sixteen; one beyond a
gap is dropped with one NAK for the gap; a repeat changes nothing at the receiver but is answered: a write by an ACK, a read by the
data again, an atomic from the cache of results. Where the manual leaves a corner to reading, it is the model's: log entry 49. -/
def Sys2Proof.Claims.RequestsSequenced : Prop :=
  ∀ (f : Nat) (p : Packet) (rest : List Packet) (u : Upset) (s : State),
    let b := if p.typ = 11 then s else s.strike u
    (b.port f).rx = p :: rest → (b.flow f p.dflow).state = .open_ →
    let n := p.dflow
    let t0 := (b.modPort f fun x => { x with rx := rest }).cover f n p
    let e := (t0.flow f n).expect
    let all (P : State → Prop) : Prop :=
      (p.typ = 2 → Completes (.write f u) s P) ∧ (p.typ = 3 → Completes (.readReq f u) s P) ∧ (p.typ = 5 → Completes (.atomic f u) s P)
      ∧ (p.typ = 11 → Completes (.mgmt f) s P)
    (p.psn = e → all fun t => t = ((t0.modFlow f n fun fl => fl.accept).addRequest f n p).ackDue f n)
    ∧ (p.psn ≠ e → psnReached p.psn e = true → all fun t => t = t0.seqGap f n)
    ∧ (p.psn ≠ e → psnReached p.psn e = false →
      (p.typ = 2 → Completes (.write f u) s fun t => t = t0.sendAck f n)
      ∧ (p.typ = 11 → Completes (.mgmt f) s fun t => t = t0.sendAck f n)
      ∧ (p.typ = 3 → (t0.flow f n).requests = [] → Completes (.readReq f u) s fun t => t = (t0.performRead f n p).2)
      ∧ ∀ old, p.typ = 5 → (t0.flow f n).atomics.find? (fun a => a.1 == p.psn) = some old → Completes (.atomic f u) s fun t =>
          t = t0.flowEmit f n { typ := 6, psn := p.psn, len := 4, payload := leBytes 4 old.2, last := true })

/-- R188, R368 and R371: requests of a flow are performed in the order of their PSNs, each after every earlier one, and DONE_PSN covers
each once it is: a read is answered with the bytes of its range, or a NAK with the status of the first access that fails. Where the
manual leaves a corner to reading, it is the model's: log entry 50. -/
def Sys2Proof.Claims.RequestsPerformed : Prop :=
  ∀ (f n : Nat) (p : Packet) (rest : List Packet) (s : State),
    (∀ t, s.performRequest f n p = (true, t) → State.runRequests f n (p :: rest) s = State.runRequests f n rest (t.requestDone f n p)
      ∧ ((t.requestDone f n p).flow f n).done = (p.psn + 1) % 2 ^ 32)
    ∧ (∀ t, s.performRequest f n p = (false, t) → State.runRequests f n (p :: rest) s = t)
    ∧ (∀ places s1 b s2, p.typ = 3 →
        (incomingLines (0x8000 + f * 1024 + n) (s.flow f n).pid false (lineRange p.addr p.len)).run s = (.ok places, s1) →
        (incomingReads (0x8000 + f * 1024 + n) places).run s1 = (.ok b, s2) →
        s.performRequest f n p =
          (true, s2.flowEmit f n { typ := 4, psn := p.psn, len := p.len, payload := slice b (p.addr % 64) p.len, last := true }))
    ∧ (∀ st s1, p.typ = 3 →
        (incomingLines (0x8000 + f * 1024 + n) (s.flow f n).pid false (lineRange p.addr p.len)).run s = (.error (.fault st), s1) →
        s.performRequest f n p = (true, s1.flowEmit f n { typ := 8, psn := p.psn, status := st }))

/-- R374: a MGMT packet is refused and counted unless the image, the flow's entry and its hello all allow it; one that is allowed reads
a register of the MGMT, PWR or THM block or orders the power limit, and is counted. Where the manual leaves a corner to reading, it is
the model's: log entry 51. -/
def Sys2Proof.Claims.ManagementPackets : Prop :=
  ∀ (f n : Nat) (p : Packet) (s : State),
    (s.mgmtAllowed f n = false → s.performMgmt f n p =
      (s.modPort f fun x => { x with rmRefused := (x.rmRefused + 1) % 2 ^ 32 }).mgmtAnswer f n p.psn Code.mgmtRefused 0)
    ∧ (s.mgmtAllowed f n = true → p.op = 0 → ∀ w v, bmcReads p.addr = true → s.regAt (.peer f n) p.addr = .reg w v →
        s.performMgmt f n p = (s.modPort f fun x => { x with rmAccepted := (x.rmAccepted + 1) % 2 ^ 32 }).mgmtAnswer f n p.psn Code.ok v)
    ∧ (s.mgmtAllowed f n = true → p.op = 1 → p.addr ≠ 0x20010 → p.addr ≠ 0x60004 → s.performMgmt f n p =
        (s.modPort f fun x => { x with rmRefused := (x.rmRefused + 1) % 2 ^ 32 }).mgmtAnswer f n p.psn Code.mgmtRefused 0)

/-- R368 and R371: the data of a READ_RESP and the old value of an ATOMIC_RESP reach the verb that waits for that PSN, which waits no
longer; an ACK that echoes congestion halves the window once; a MGMT_RESP reaches nobody; each first takes its receive state. Where the
manual leaves a corner to reading, it is the model's: log entries 49 and 51. -/
def Sys2Proof.Claims.AnswersArrive : Prop :=
  ∀ (f : Nat) (p : Packet) (rest : List Packet) (s : State), (s.port f).rx = p :: rest → (s.flow f p.dflow).state = .open_ →
    let n := p.dflow
    let t0 := (s.modPort f fun x => { x with rx := rest }).cover f n p
    let t1 := t0.modFlow f n fun fl => { fl with waiters := fl.waiters.filter (·.psn != p.psn) }
    (∀ w c k q, p.typ = 4 → (t0.flow f n).waiters.find? (·.psn == p.psn) = some w → w.writer = .verb c k q →
      Completes (.readResp f) s fun t =>
        t = t1.modEntry { c := c, k := k, q := q, id := w.tag, pid := 0 } fun e =>
          { e with got := e.got.put w.key (slice p.payload 0 128) })
    ∧ (∀ w c k q, p.typ = 6 → (t0.flow f n).waiters.find? (·.psn == p.psn) = some w → w.writer = .verb c k q →
      Completes (.atomicResp f) s fun t =>
        t = (State.flowPump f n (t1.flow f n).queue t1).modEntry { c := c, k := k, q := q, id := w.tag, pid := 0 } fun e =>
          { e with old := some (leAt p.payload 0 4), asked := e.asked.erase w.key })
    ∧ (p.typ = 4 → (t0.flow f n).waiters.find? (·.psn == p.psn) = none → Completes (.readResp f) s fun t => t = t1)
    ∧ (p.typ = 7 → p.ceEcho = false → Completes (.ack f) s fun t => t = t0.modFlow f n fun fl => fl)
    ∧ (p.typ = 7 → p.ceEcho = true → psnReached p.recvPsn (t0.flow f n).halvedTo = true → Completes (.ack f) s fun t =>
        t = t0.modFlow f n fun fl => { fl with cwnd := max 4 (fl.cwnd / 2), halvedTo := fl.sendPsn })
    ∧ (p.typ = 12 → Completes (.mgmtResp f) s fun t => t = t0)

/-- R371 and R372: a NAK that names a request tells whoever made it, a verb with REMOTE_FAULT, a tile's producer with its status, and
the software otherwise by an event; one for a gap sends the window again, or fails the flow where a packet was sent RETRY times
already; so does a window that is not acknowledged in time. Where the manual leaves a corner to reading, it is the model's: log entries
49 and 50. -/
def Sys2Proof.Claims.NaksAndTimers : Prop :=
  (∀ (f : Nat) (p : Packet) (rest : List Packet) (s : State), (s.port f).rx = p :: rest → (s.flow f p.dflow).state = .open_ → p.typ = 8 →
    let n := p.dflow
    let s0 := s.modPort f fun x => { x with rx := rest, naks := (x.naks + 1) % 2 ^ 32 }
    (p.op = 1 → Completes (.nak f) s fun t => t = (s0.cover f n p).goBack f n)
    ∧ (p.op ≠ 1 → Completes (.nak f) s fun t => t = (s0.remoteFault f n p).cover f n p)
    ∧ ∀ w c k q, (s.flow f n).waiters.find? (·.psn == p.psn) = some w → w.writer = .verb c k q →
        s0.remoteFault f n p = (s0.modFlow f n fun fl =>
          { fl with waiters := fl.waiters.filter (·.psn != p.psn), peerStatus := p.status }).verbFault c k q w.tag 0 Code.remoteFault)
  ∧ ∀ (f n : Nat) (s : State),
      (((s.flow f n).state ≠ .open_ ∨ (s.flow f n).window = []) → exec (.retransmitTimeout f n) s = .next s)
      ∧ ((s.flow f n).state = .open_ → (s.flow f n).window ≠ [] →
          let s0 := s.modFlow f n fun fl => { fl with cwnd := 4 }
          ((∀ w ∈ (s.flow f n).window, w.2 < (s.port f).retry) → Completes (.retransmitTimeout f n) s fun t => t = s0.resend f n)
          ∧ ((∃ w ∈ (s.flow f n).window, (s.port f).retry ≤ w.2) → Completes (.retransmitTimeout f n) s fun t =>
              t = s0.flowError f n Code.flowFailed))
      ∧ ((s.flow f n).state = .open_ → (s.flow f n).requests = [] → Completes (.ackTimer f n) s fun t =>
          t = if 0 < (s.flow f n).unacked then
              (s.flowEmit f n { typ := 7 }).modFlow f n fun fl => { fl with unacked := 0, ceEcho := false }
            else s)

/-- R369: the bytes of a tile gather at its flow until its last packet, when the whole tile lands at the flow's local port, or is
turned away with STREAM_MISMATCH where it does not fit; a credit packet grants its credits to the flow's local producer. Where the
manual leaves a corner to reading, it is the model's: log entry 25. -/
def Sys2Proof.Claims.StreamPackets : Prop :=
  ∀ (f : Nat) (p : Packet) (rest : List Packet) (s : State), (s.port f).rx = p :: rest → (s.flow f p.dflow).state = .open_ →
    let n := p.dflow
    let t0 := (s.modPort f fun x => { x with rx := rest }).cover f n p
    let fl := t0.flow f n
    let source := 0x8000 + f * 1024 + n
    let accepted (t : State) : State := ((t.streamDone f n p.psn).modFlow f n fun fl => fl.accept).ackDue f n
    let bytes := (if p.first then [] else fl.tileIn) ++ p.payload
    let size := if p.first then p.addr else fl.tileSize
    (p.typ = 9 → p.psn = fl.expect →
      (p.last = false → Completes (.tile f) s fun t =>
        t = accepted (t0.modFlow f n fun fl => { fl with tileIn := bytes, tileSize := size }))
      ∧ (p.last = true → bytes.length ≠ size ∨ t0.tileFits fl.local_ source bytes = false → Completes (.tile f) s fun t =>
          t = accepted ((t0.modFlow f n fun fl => { fl with tileIn := [] }).sendNak f n p.psn Code.streamMismatch))
      ∧ ∀ t1, p.last = true → bytes.length = size → t0.tileFits fl.local_ source bytes = true →
          t0.landTile f n bytes = (true, t1) → Completes (.tile f) s fun t =>
            t = accepted (t1.modFlow f n fun fl => { fl with tileIn := [] }))
    ∧ (p.typ = 10 → p.psn = fl.expect → Completes (.credit f) s fun t =>
        t = ((List.range p.op).foldl (fun s _ => State.grantCredit s (s.flow f n).local_ source)
          ((t0.modFlow f n fun fl => fl.accept).streamDone f n p.psn)).ackDue f n)
    ∧ (p.typ = 10 → p.psn ≠ fl.expect → psnReached p.psn fl.expect = false → Completes (.credit f) s fun t => t = t0.sendAck f n)
    ∧ (∀ t1, p.typ = 9 → p.psn = fl.expect → p.last = true → bytes.length = size → t0.tileFits fl.local_ source bytes = true →
        t0.landTile f n bytes = (false, t1) → Completes (.tile f) s fun t => t = t1.modPort f fun x => { x with rx := p :: x.rx })

/-! ### Power (R377 to R386, R390 to R398) -/

/-- R24, R377 and R378: a stack port with no work and the bank-side units of a stack with no admitted sequence go off when idle, the
stack into self-refresh; a domain that work waits for comes on, unless its budget is 0, and where it does not, the domain fails with
DOMAIN_FAULT told. The counts of a domain's islands start at zero as it comes on and are lost as it goes off, and no other island's. A
domain nobody waits for is left alone. -/
def Sys2Proof.Claims.DomainsSwitch : Prop :=
  (∀ (n : Nat) (s : State), n < 12 → s.admittedOn n = [] →
    (s.domainReady (32 + n) = true → (s.stack n).state = .inService → (s.stack n).tg.run = none → (s.stack n).scrub.state ≠ 1 →
      (s.stack n).held = [] → (s.stack n).heldWaiting = [] → Completes (.domainIdleOff (32 + n)) s fun t =>
        t = ((s.selfRefresh n).modPwr fun x => { x with domOn := putBit x.domOn (32 + n) false }).restartCounts (32 + n))
    ∧ (s.domainReady (44 + n) = true → Completes (.domainIdleOff (44 + n)) s fun t =>
        t = (s.modPwr fun x => { x with domOn := putBit x.domOn (44 + n) false }).restartCounts (44 + n)))
  ∧ (∀ (d : Nat) (s : State), d < 67 → s.domainReady d = false → s.wanted d = true →
      let on := (s.modPwr fun x => { x with domOn := putBit x.domOn d true, waking := putBit x.waking d false }).restartCounts d
      (s.budget d ≠ 0 → (d < 56 ∨ 64 ≤ d) → Completes (.domainOnComplete d true) s fun t => t = on)
      ∧ (s.budget d ≠ 0 → 56 ≤ d → d < 64 → Completes (.domainOnComplete d true) s fun t => t = on.portStart (d - 56))
      ∧ (d < 32 ∨ 44 ≤ d → (∀ reached, reached = false ∨ s.budget d = 0 → Completes (.domainOnComplete d reached) s fun t =>
          t = (s.modPwr fun x => { x with waking := putBit x.waking d false, domFailed := putBit x.domFailed d true }).event Cls.pwr
            Code.domainFault Obs.ofPwr 0xFF d 0)))
  ∧ (∀ (d island : Nat) (s : State),
      (s.restartCounts d).counts.look 0 island = (if islandDomain island = some d then 0 else s.counts.look 0 island))
  ∧ ∀ (d : Nat) (reached : Bool) (s : State),
      (s.domainReady d = true ∨ s.wanted d = false → exec (.domainOnComplete d reached) s = .next s)
      ∧ (d < 32 ∨ 56 ≤ d ∨ s.domainReady d = false → exec (.domainIdleOff d) s = .next s)

/-- R386: a decision window reads the monitors and the regulators, steps the thermal model, sets the limit in force, divides it, sets
operating points and shares, and settles the window's orders, in this order; then the gating rules apply. Before firmware is ready
nothing runs. Where the manual leaves a corner to reading, it is the model's: log entry 52. -/
def Sys2Proof.Claims.DecisionWindowSteps : Prop :=
  ∀ (monitors : Tbl MonSample) (lost : List Nat) (s : State),
    (s.mgmt.boot = .ready → Completes (.decisionWindow monitors lost) s fun t =>
      let read := (s.readMonitors monitors).readRegulators lost
      t = (read.thermalStep.computeLimit.divide.setPoints).settleOrders.gate)
    ∧ (s.mgmt.boot ≠ .ready → exec (.decisionWindow monitors lost) s = .next s)

/-- R381, R385, R389 and R398: the limit in force is the least of the module limit lowered by T, FLOOR in an alert and 300 W while
restricted; the module limit is the least of the image's, the board's, the regulators' and every order's; P(T) falls from the module
limit at T 0 to 300 W at T 31. Where the manual leaves a corner to reading, it is the model's: log entry 52. -/
def Sys2Proof.Claims.LimitInForce : Prop :=
  ∀ s : State,
    (∀ w ∈ s.limitTerms, s.moduleLimit.2 ≤ w.2) ∧ s.moduleLimit ∈ s.limitTerms
    ∧ (∀ w, w ∈ s.limitTerms ↔ w = (0, s.imageLimit) ∨ w = (1, s.pwr.termBoard)
        ∨ w = (2, if s.pwr.termReg = 0 ∨ s.pwr.regLost ≠ [] then 300 else s.pwr.termReg) ∨ ∃ v ∈ s.pwr.slots, w = (3, v))
    ∧ s.computeLimit.pwr.inForce ≤ s.moduleLimit.2
    ∧ (s.pwr.restricted = true → s.computeLimit.pwr.inForce ≤ 300)
    ∧ (∀ i, s.gram.image = some i → s.pwr.alert = true → s.computeLimit.pwr.inForce ≤ i.floor)
    ∧ (s.thm.t = 0 → s.pwr.alert = false → s.pwr.restricted = false → s.computeLimit.pwr.inForce = s.moduleLimit.2)
    ∧ (∀ l, s.thm.t = 31 → 300 ≤ l → (s.throttled l).1 = 300)
    ∧ (∀ l, s.thm.t ≤ 31 → 300 ≤ l → 300 ≤ (s.throttled l).1 ∧ (s.throttled l).1 ≤ l)

/-- R392: of the orders of one window for one object, one that contradicts a higher master's changes nothing and is answered
PREEMPTED_BY_PEER; the others take effect. Where the manual leaves a corner to reading, it is the model's: log entry 43. -/
def Sys2Proof.Claims.OrdersSettle : Prop :=
  ∀ (a b : Order) (s : State), s.pwr.orders = [a, b] → a.object = b.object → a.rank < b.rank → a.value ≠ b.value →
    let s0 := s.modPwr fun x => { x with orders := [] }
    s.settleOrders = (s0.obey a).preempt b
    ∧ (a.object = 1 → (s0.obey a).thm.warn = a.value)
    ∧ ((∀ f n, b.by_ ≠ .peer f n) → b.object ≠ 0 → ((s0.obey a).preempt b).thm.lastCmd = Code.preemptedByPeer)

/-- R393: a limit order of 300 to 2,400 W fills its master's slot, 0 empties it, under presence the slot of presence; any other value
is refused with BAD_VALUE and recorded. Where the manual leaves a corner to reading, it is the model's: log entry 43. -/
def Sys2Proof.Claims.LimitOrders : Prop :=
  ∀ (by_ : Master) (w : Nat) (s : State), w < 4096 →
    (w = 0 ∨ (300 ≤ w ∧ w ≤ 2400) → Completes (.pwrOrderWrite by_ w) s fun t =>
      t = s.modPwr fun x =>
        if s.sec.presence = true then { x with slotPresence := w, lastCmd := Code.ok }
        else match by_ with
          | .bmc => { x with slotBmc := w, lastCmd := Code.ok }
          | .peer _ _ => { x with slotPeer := w, lastCmd := Code.ok }
          | _ => { x with slotCompanion := w, lastCmd := Code.ok })
    ∧ ((1 ≤ w ∧ w < 300) ∨ 2400 < w → Completes (.pwrOrderWrite by_ w) s fun t =>
        t = (s.modPwr fun x => { x with lastCmd := Code.badValue }).recordAccess Code.badValue 0x20010)

/-- R383 to R385: PWR_ALERT_n holds the alert: every operating point falls to ALERT.FREQ at most and B_POWER to its alert value, it is
counted and told once; released for its hold time the alert ends and the clusters climb back; an alert held too long is told once as
ALERT_STUCK. Where the manual leaves a corner to reading, it is the model's: log entry 53. -/
def Sys2Proof.Claims.PowerAlert : Prop :=
  ∀ s : State,
    (s.pwr.alertPin = true ∨ s.mgmt.boot = .reset ∨ s.mgmt.boot = .shutdown → exec .pwrAlertAssert s = .next s)
    ∧ (s.pwr.alertPin = false → s.mgmt.boot ≠ .reset → s.mgmt.boot ≠ .shutdown → Completes .pwrAlertAssert s fun t =>
        let pwr := { s.pwr with alertPin := true, alert := true, climb := 0, alerts := (s.pwr.alerts + 1) % 2 ^ 32,
                                opp := s.pwr.opp.map fun (c, f) => (c, min f s.pwr.alertFreq) }
        let stk := s.stk.map fun (n, x) => (n, ({ x with bPower := min x.bPower s.pwr.alertB } : Stack))
        t = if s.pwr.alert = true then { s with pwr := pwr, stk := stk }
          else ({ s with pwr := pwr, stk := stk } : State).event Cls.pwr Code.alertAsserted Obs.ofPwr 0xFF 0 0)
    ∧ (s.pwr.alert = true → Completes .alertRelease s fun t =>
        t = s.modPwr fun x => { x with alertPin := false, alert := false, alertStuck := false, climb := 0xFFFF })
    ∧ (s.pwr.alert = false → exec .alertRelease s = .next s)
    ∧ (s.pwr.alertPin = true → s.pwr.alertStuck = false → Completes .alertStuck s fun t =>
        t = (s.modPwr fun x => { x with alertStuck := true }).event Cls.pwr Code.alertStuck Obs.ofPwr 0xFF 0 0)
    ∧ (s.pwr.alertPin = false ∨ s.pwr.alertStuck = true → exec .alertStuck s = .next s)

/-- R382, R390 and R395 to R397: an order, a comparator, a stack at its limit or a regulator's fault shuts the device down: the event
of its reason, a record in the store, every domain off, THERM_TRIP_n held, and FAULT_n unless the comparator acted; a second shutdown
changes nothing. A comparator needs no firmware, and then no record is written. Where the manual leaves a corner to reading, it is the
model's: log entries 54 and 55. -/
def Sys2Proof.Claims.Shutdowns : Prop :=
  (∀ (by_ : Master) (s : State), s.mgmt.boot = .ready ∨ s.mgmt.boot = .firmware → (∀ f n, by_ ≠ .peer f n) →
    s.flash.shutdowns.length ≤ 16 → Completes (.shutdownOrder by_) s fun t =>
      t.mgmt.boot = .shutdown ∧ t.mgmt.thermTrip = true ∧ t.mgmt.faultPin = true ∧ t.pwr.domOn = 0 ∧ t.xl.state = .down
      ∧ t.cores = [] ∧ t.seqs = [] ∧ t.flash.shutdowns.length = min 16 (s.flash.shutdowns.length + 1)
      ∧ (∀ n, n < 12 → (t.stack n).asleep = true) ∧ ∀ f, f < 8 → (t.port f).state = .off)
  ∧ (∀ (d : Nat) (s : State), s.mgmt.boot = .ready ∨ s.mgmt.boot = .firmware → s.flash.shutdowns.length ≤ 16 → Completes (.hwTrip d) s fun t =>
      t.mgmt.boot = .shutdown ∧ t.mgmt.thermTrip = true ∧ t.mgmt.faultPin = s.mgmt.faultPin ∧ t.pwr.domOn = 0
      ∧ t.flash.shutdowns.length = min 16 (s.flash.shutdowns.length + 1))
  ∧ (∀ (d : Nat) (s : State), s.mgmt.boot = .halted → Completes (.hwTrip d) s fun t =>
      t.mgmt.boot = .shutdown ∧ t.mgmt.thermTrip = true ∧ t.pwr.domOn = 0 ∧ t.flash.shutdowns = s.flash.shutdowns)
  ∧ (∀ (d : Nat) (s : State), s.mgmt.boot = .shutdown ∨ s.mgmt.boot = .reset → exec (.hwTrip d) s = .next s)
  ∧ (∀ (n m : Nat) (s : State), (s.stack n).tmax = some m → s.stackPresent n = true →
      (4 * (m : Int) ≤ signed 12 (s.stack n).temp → Completes (.stackTmaxTimeout n) s fun t => t = s.shutdown 3 (144 + n))
      ∧ (signed 12 (s.stack n).temp < 4 * (m : Int) → exec (.stackTmaxTimeout n) s = .next s))
  ∧ ∀ (a w : Nat) (s : State), s.mgmt.boot = .ready → a < 256 →
      (bits w 2 5 ≠ 0 → Completes (.pmbusAlert a w) s fun t => t = s.shutdown 4 a)
      ∧ (bits w 2 5 = 0 → bit w 14 = true → Completes (.pmbusAlert a w) s fun t =>
          t = { s with thm := { s.thm with t := min 31 (s.thm.t + 4) } })
      ∧ (bits w 2 5 = 0 → bit w 14 = false → exec (.pmbusAlert a w) s = .next s)

/-- R397: PWR_REC_ACK acknowledges the unacknowledged shutdown record of that SEQ, and the restriction ends with the last; a SEQ that
names none is refused with BAD_VALUE. Where the manual leaves a corner to reading, it is the model's: log entry 53. -/
def Sys2Proof.Claims.RecordsAcknowledged : Prop :=
  ∀ (by_ : Master) (seq : Nat) (s : State), (∀ f n, by_ ≠ .peer f n) → seq < 2 ^ 32 →
    ((∃ r ∈ s.flash.shutdowns, r.seq = seq ∧ r.acked = false) → Completes (.pwrRecAck by_ seq) s fun t =>
      let rs := s.flash.shutdowns.map fun r => if r.seq = seq then { r with acked := true } else r
      t = { s with flash := { s.flash with shutdowns := rs },
                   pwr := { s.pwr with lastCmd := Code.ok, restricted := s.pwr.restricted && rs.any fun r => !r.acked } })
    ∧ ((∀ r ∈ s.flash.shutdowns, r.seq = seq → r.acked = true) → Completes (.pwrRecAck by_ seq) s fun t =>
        t = (s.modPwr fun x => { x with lastCmd := Code.badValue }).recordAccess Code.badValue 0x20A04)

/-! ### Temperature (R387 to R390) -/

/-- R389 and R390: the update of a millisecond applies, in this order, the rate of rise (T rises by 2), the warning, the level (T rises
by 1 after a millisecond at or above THROTTLE, and falls by 1 after one wholly 3 °C below it without a rise), and the shutdown; T stays
within 0 to 31. Where the manual leaves a corner to reading, it is the model's: log entry 53. -/
def Sys2Proof.Claims.ThrottleLevel : Prop :=
  ∀ s : State,
    (s.mgmt.boot = .ready → Completes .throttleUpdate s fun t => t = s.riseRule.warnRule.levelRule.shutRule)
    ∧ (s.mgmt.boot ≠ .ready → exec .throttleUpdate s = .next s)
    ∧ (s.thm.t ≤ 31 → s.riseRule.thm.t ≤ 31 ∧ s.levelRule.thm.t ≤ 31)
    ∧ (∀ i, s.thm.risen = some i → s.riseRule.thm.t = min 31 (s.thm.t + 2))
    ∧ (s.thm.risen = none → s.riseRule.thm.t = s.thm.t)
    ∧ (s.thm.windowH ≠ [] → (∀ h ∈ s.thm.windowH, 4 * (s.thm.throttle : Int) ≤ h) → s.levelRule.thm.t = min 31 (s.thm.t + 1))
    ∧ (s.thm.windowH ≠ [] → s.thm.rise = false → (∀ h ∈ s.thm.windowH, h ≤ 4 * (s.thm.throttle : Int) - 12) →
        s.levelRule.thm.t = s.thm.t - 1)
    ∧ (s.warnRule.thm.t = s.thm.t)

/-- R388: a calibration reads every diode, marks as failed one outside −40 to 150 °C or that lies more than 10 °C from the model three
times in a row, moves each die's reference by the mean difference of its sound diodes, at most 2 °C, and is counted. Where the manual
leaves a corner to reading, it is the model's: log entry 53. -/
def Sys2Proof.Claims.DiodesCalibrated : Prop :=
  (∀ (r : List Int) (s : State), bit s.mgmt.bkgRun 2 = false → exec (.diodeCalibration r) s = .next s)
  ∧ (∀ (r : List Int) (s : State), bit s.mgmt.bkgRun 2 = true → Completes (.diodeCalibration r) s fun t =>
      let read := (List.range 16).foldl (fun s j => State.readDiode s j (r.getD j 0)) s
      t = ((read.moveReference 0).moveReference 1).modThm fun x => { x with cal := (x.cal + 1) % 2 ^ 32 })
  ∧ ∀ (j die : Nat) (d : Int) (s : State),
      (d < -160 ∨ 600 < d → j < 16 → bit (s.readDiode j d).thm.dfail j = true)
      ∧ (-160 ≤ d → d ≤ 600 → d - s.thm.watched j ≤ 40 → s.thm.watched j - d ≤ 40 → (s.readDiode j d).thm.dfail = s.thm.dfail)
      ∧ (die < 2 → ∀ old, s.thm.reference.look 0 die = old →
          old - 8 ≤ (s.moveReference die).thm.reference.look 0 die ∧ (s.moveReference die).thm.reference.look 0 die ≤ old + 8)

/-! ### The management window (R7 to R9, R31, R341, R394, R411, R412, R448) -/

/-- R7, R31 and R448: a register is read and written by an access of exactly its width. A narrower or wider one, or one where no
register lies, reads as all ones and changes nothing but the record of BAD_ACCESS with its offset and count; what lies in an absent
unit or a locked debug module reads as all ones without a record. Before an image is in force a write to a block that needs one is
recorded with NO_IMAGE. Where the manual leaves a corner to reading, it is the model's: log entry 60. -/
def Sys2Proof.Claims.RegisterAccessRules : Prop :=
  ∀ (by_ : Master) (off size v : Nat) (s : State), (∀ o, blockAt off ≠ some (.debug, o)) →
    let recorded (st : Status) : State := { s with mgmt := { s.mgmt with
      errStatus := st, errOffset := off % 2 ^ 24, errCount := (s.mgmt.errCount + 1) % 2 ^ 32 } }
    (∀ w x, s.regAt by_ off = .reg w x →
      (w = size → s.readReg by_ off size = (x, s))
      ∧ (w ≠ size → s.readReg by_ off size = (2 ^ (8 * size) - 1, recorded Code.badAccess))
      ∧ (by_ = .companion → w ≠ size → Completes (.registerWrite by_ off size v) s fun t => t = recorded Code.badAccess)
      ∧ (∀ b o, by_ = .companion → w = size → blockAt off = some (b, o) →
          (b.needsImage = true → s.gram.image = none → x = 0
            ∧ Completes (.registerWrite by_ off size v) s fun t => t = recorded Code.noImage)
          ∧ (b.needsImage = false ∨ s.gram.image ≠ none → Completes (.registerWrite by_ off size v) s fun t =>
              t = s.writeBlock by_ b o (v % 2 ^ (8 * size)))))
    ∧ (s.regAt by_ off = .hole → s.readReg by_ off size = (2 ^ (8 * size) - 1, recorded Code.badAccess)
      ∧ (by_ = .companion → Completes (.registerWrite by_ off size v) s fun t => t = recorded Code.badAccess))
    ∧ (s.regAt by_ off = .lacking → s.readReg by_ off size = (2 ^ (8 * size) - 1, s)
      ∧ (by_ = .companion → Completes (.registerWrite by_ off size v) s fun t => t = recorded Code.badAccess))

/-- R112, R394 and R413: the companion reaches the whole window, a control core the registers of its cluster's cores and no others, and
the board management controller and fabric peers no register by an access of their own. A debug module that is locked ignores what is
written to it; what an unlocked one does the manual leaves to another standard, and it is refused by name. Where the manual leaves a
corner to reading, it is the model's: log entries 11 and 60. -/
def Sys2Proof.Claims.RegisterReach : Prop :=
  (∀ (c off size v : Nat) (s : State), ownCores c off = false → exec (.registerWrite (.controlCore c) off size v) s = .next s)
  ∧ (∀ (c off size v : Nat) (s : State), ownCores c off = true → Completes (.registerWrite (.controlCore c) off size v) s fun t =>
      t = s.writeReg (.controlCore c) off size v)
  ∧ (∀ (off size v : Nat) (s : State), exec (.registerWrite .bmc off size v) s = .next s)
  ∧ (∀ (f n off size v : Nat) (s : State), exec (.registerWrite (.peer f n) off size v) s = .next s)
  ∧ ∀ (off o size v : Nat) (s : State), blockAt off = some (.debug, o) →
      (s.sec.debug = false → exec (.registerWrite .companion off size v) s = .next s)
      ∧ (s.sec.debug = true → exec (.registerWrite .companion off size v) s = .refused .debugModule)

/-- R9, R58, R391, R399 and R440: registers of several blocks take the fields written: GRAM_SRC and GRAM_LEN, PWR_ALERT within its
ranges, the reset causes by ones. A reserved value changes no field and is recorded once with BAD_VALUE, in the block's last status
too. Where the manual leaves a corner to reading, it is the model's: log entry 60. -/
def Sys2Proof.Claims.RegisterFields : Prop :=
  ∀ (v : Nat) (s : State),
    (v % 64 = 0 → v < 2 ^ 64 → Completes (.registerWrite .companion 0x10008 8 v) s fun t =>
      t = { s with gram := { s.gram with src := v } })
    ∧ (v % 64 ≠ 0 → v < 2 ^ 64 → Completes (.registerWrite .companion 0x10008 8 v) s fun t =>
        t = ({ s with gram := { s.gram with lastCmd := Code.badValue } } : State).recordAccess Code.badValue 0x10008)
    ∧ (v < 2 ^ 32 → Completes (.registerWrite .companion 0x10010 4 v) s fun t => t = { s with gram := { s.gram with len := v } })
    ∧ (let f := bits v 0 5
       let b := bits v 5 5
       let h := bits v 10 10
       (v < 2 ^ 32 → 10 ≤ f → f ≤ 30 → 2 ≤ b → b ≤ 16 → 1 ≤ h → h ≤ 1000 → Completes (.registerWrite .companion 0x20020 4 v) s fun t =>
          t = { s with pwr := { s.pwr with alertFreq := f, alertB := b, alertHold := h, lastCmd := Code.ok } })
       ∧ (v < 2 ^ 32 → f < 10 ∨ 30 < f ∨ b < 2 ∨ 16 < b ∨ h < 1 ∨ 1000 < h → Completes (.registerWrite .companion 0x20020 4 v) s fun t =>
          t = ({ s with pwr := { s.pwr with lastCmd := Code.badValue } } : State).recordAccess Code.badValue 0x20020))
    ∧ (v < 2 ^ 32 → Completes (.registerWrite .companion 0xA080 4 v) s fun t =>
        t = { s with mgmt := { s.mgmt with
              powerOn := s.mgmt.powerOn && !bit v 0, resetPin := s.mgmt.resetPin && !bit v 1,
              restarted := s.mgmt.restarted && !bit v 2, factory := s.mgmt.factory && !bit v 3 } })

/-! ### The board management controller (R394, R407) -/

/-- R394: while firmware answers it, the board management controller reads the MGMT, PWR and THM blocks and writes five registers, each
write answered with the status it left; anything else is answered BAD_ACCESS and changes nothing, but that a read of a place without a
register is recorded. SCHED_PHASE needs an image. Where the manual leaves a corner to reading, it is the model's: log entry 61. -/
def Sys2Proof.Claims.BmcAccesses : Prop :=
  ∀ (off v : Nat) (s : State), s.mgmt.boot = .firmware ∨ s.mgmt.boot = .ready ∨ s.mgmt.boot = .shutdown →
    (∀ w x, bmcReads off = true → s.regAt .bmc off = .reg w x → Completes (.mctpRead off) s fun t =>
      t = s.emit (.mctpReply Code.ok (leBytes 8 x)))
    ∧ (bmcReads off = false → Completes (.mctpRead off) s fun t => t = s.emit (.mctpReply Code.badAccess (leBytes 8 0)))
    ∧ (off ∉ [0x20010, 0x20048, 0x20A04, 0x30008, 0x60004] → Completes (.mctpWrite off v) s fun t =>
        t = s.emit (.mctpReply Code.badAccess (leBytes 8 0)))
    ∧ (off ∈ [0x20010, 0x20048, 0x20A04, 0x30008] → Completes (.mctpWrite off v) s fun t =>
        ∃ s1, s1 = s.writeReg .bmc off 4 v
          ∧ t = s1.emit (.mctpReply (if off / 0x10000 = 2 then s1.pwr.lastCmd else s1.thm.lastCmd) (leBytes 8 0)))
    ∧ (s.gram.image = none → Completes (.mctpWrite 0x60004 v) s fun t =>
        t = (s.recordAccess Code.noImage 0x60004).emit (.mctpReply Code.noImage (leBytes 8 0)))

/-- R406 to R410: a report, the certificates or the logs are made as a job, its report signed over what the device holds at one instant
with its nonce; while one runs another is refused with ATTEST_BUSY; its end writes the products to SEC_ATT_DST as a release while the
link is up, keeps the report, and sends its status. Of the controller's, the report alone is kept, read in chunks of 64 bytes. Where
the manual leaves a corner to reading, it is the model's: log entry 58. -/
def Sys2Proof.Claims.Attestation : Prop :=
  (∀ s : State,
    let busy (t : State) : Prop := t = { s with sec := { s.sec with lastCmd := Code.attestBusy } }
    let begun (mask : Nat) (t : State) : Prop :=
      t = { s with sec := t.sec, mgmt := t.mgmt } ∧ t.sec.attState = 1 ∧ t.sec.attStatus = Code.pending ∧ t.sec.attJob = mask
      ∧ t.sec.attWrites = true ∧ t.sec.lastCmd = Code.ok ∧ (mask ≠ 1 → t.mgmt = s.mgmt)
      ∧ (mask = 1 → t.sec.attBody = s.reportBody s.sec.nonceBytes s.mgmt.evSeq)
    (s.sec.attState = 1 → Completes .attestReport s busy ∧ Completes .attestCerts s busy ∧ Completes .attestLogs s busy)
    ∧ (s.sec.attState ≠ 1 → Completes .attestReport s (begun 1) ∧ Completes .attestCerts s (begun 2) ∧ Completes .attestLogs s (begun 4)))
  ∧ (∀ s : State, s.sec.attState ≠ 1 → exec .attestDone s = .next s)
  ∧ (∀ s : State, s.sec.attState = 1 → s.sec.attJob = 1 → Completes .attestDone s fun t =>
      let report := signReport s.sec.attBody
      let st := if s.sec.attWrites = true ∧ s.linkUp = false then Code.linkDown else Code.ok
      let done : State := { s with sec := { s.sec with attState := 2, attStatus := st, report := report } }
      t = if s.sec.attWrites = false then done
        else (if s.linkUp = true then done.compWriteBytes s.sec.attDst report .release else done).event Cls.sec st Obs.ofSec 0xFF 0 0)
  ∧ ∀ s : State, s.mgmt.boot = .ready →
      (∀ nonce, s.sec.attState = 1 → Completes (.mctpAttest nonce) s fun t => t = s.emit (.mctpReply Code.attestBusy []))
      ∧ (∀ nonce, s.sec.attState ≠ 1 → Completes (.mctpAttest nonce) s fun t =>
          t.sec.attState = 1 ∧ t.sec.attJob = 1 ∧ t.sec.attWrites = false ∧ t.out = s.out ++ [.mctpReply Code.ok []]
          ∧ t.sec.attBody = s.reportBody nonce s.mgmt.evSeq ∧ t.sec.lastCmd = s.sec.lastCmd)
      ∧ (∀ i, s.sec.attState ≠ 1 ∨ bit s.sec.attJob 0 = false → i < 8 → s.sec.report ≠ [] → Completes (.mctpReportChunk i) s fun t =>
          t = s.emit (.mctpReply Code.ok (slice s.sec.report (64 * i) 64)))
      ∧ (∀ i, s.sec.attState ≠ 1 ∨ bit s.sec.attJob 0 = false → 8 ≤ i → Completes (.mctpReportChunk i) s fun t =>
          t = s.emit (.mctpReply Code.badValue []))
      ∧ (∀ i, s.sec.attState = 1 → bit s.sec.attJob 0 = true → Completes (.mctpReportChunk i) s fun t =>
          t = s.emit (.mctpReply Code.attestBusy []))
      ∧ (∀ i, i < 64 → Completes (.mctpCertsChunk i) s fun t => t = s.emit (.mctpReply Code.ok (slice certOutput (64 * i) 64)))
      ∧ ∀ i, 64 ≤ i → Completes (.mctpCertsChunk i) s fun t => t = s.emit (.mctpReply Code.badValue [])

/-! ### Background work (R428 to R433) -/

/-- R428 and R429: while the image runs them, wear management counts the erasure of a sector, and an ageing monitor below its threshold
raises its die's guard-band by 5 mV, to at most 60 mV. -/
def Sys2Proof.Claims.WearAndAgeing : Prop :=
  ∀ (n : Nat) (s : State),
    (bit s.mgmt.bkgRun 3 = true → n < 32 → Completes (.flashSectorErase n) s fun t =>
      t = { s with flash := { s.flash with erases := s.flash.erases.upd 0 n (· + 1) } })
    ∧ (bit s.mgmt.bkgRun 3 = false ∨ 32 ≤ n → exec (.flashSectorErase n) s = .next s)
    ∧ (bit s.mgmt.bkgRun 4 = true → n < 2 → Completes (.ageingMonitorRead n true) s fun t =>
        t = { s with flash := { s.flash with guardbands := s.flash.guardbands.upd 0 n fun v => min 60 (v + 5) } })
    ∧ exec (.ageingMonitorRead n false) s = .next s

/-- R430 to R433: at a multiple of its period a telemetry sample takes a number of its own and writes one record for each source of the
kinds enabled, or, with the link down, is dropped whole and counted. Its ring takes an aligned base while not enabled, and its size,
kinds and enable; a change while enabled, or a reserved value, is refused and recorded. Where the manual leaves a corner to reading, it
is the model's: log entry 59. -/
def Sys2Proof.Claims.TelemetrySamples : Prop :=
  (∀ s : State, bit s.mgmt.bkgRun 5 = false ∨ s.mgmt.telEnable = false ∨ s.srv.tick % s.srvImage.telem ≠ 0 →
    exec .telemetrySample s = .next s)
  ∧ (∀ s : State, bit s.mgmt.bkgRun 5 = true → s.mgmt.telEnable = true → s.srv.tick % s.srvImage.telem = 0 →
      let s0 : State := { s with mgmt := { s.mgmt with telNext := (s.mgmt.telNext + 1) % 2 ^ 32 } }
      (s.linkUp = false → Completes .telemetrySample s fun t =>
        t = { s0 with mgmt := { s0.mgmt with telMissed := (s.mgmt.telMissed + 1) % 2 ^ 32 } })
      ∧ (s.linkUp = true → Completes .telemetrySample s fun t =>
          let sources := s0.telSources s.mgmt.telKinds
          t = (List.range sources.length).foldl (fun x i => State.telRecord x s.mgmt.telNext i (sources.getD i ⟨0, 0⟩)) s0))
  ∧ ∀ (v : Nat) (s : State),
      let m := s.mgmt
      (v % 4096 = 0 → v < 2 ^ 64 → m.telEnable = false → Completes (.telemetryConfig true v) s fun t =>
        t = { s with mgmt := { m with telBase := v, telTail := 0, telPhase := true } })
      ∧ (v % 4096 ≠ 0 ∨ m.telEnable = true → Completes (.telemetryConfig true v) s fun t => t = s.recordAccess Code.badValue 0xA000)
      ∧ (6 ≤ bits v 0 4 → bits v 0 4 ≤ 14 → m.telEnable = false → Completes (.telemetryConfig false v) s fun t =>
          t = { s with mgmt := { m with telTail := 0, telPhase := true, telLog2 := bits v 0 4, telEnable := bit v 4,
                                        telKinds := bits v 8 4 } })
      ∧ (6 ≤ bits v 0 4 → bits v 0 4 ≤ 14 → m.telEnable = true → bits v 0 4 = m.telLog2 → Completes (.telemetryConfig false v) s fun t =>
          t = { s with mgmt := { m with telEnable := bit v 4, telKinds := bits v 8 4 } })
      ∧ (bits v 0 4 < 6 ∨ 14 < bits v 0 4 → Completes (.telemetryConfig false v) s fun t => t = s.recordAccess Code.badValue 0xA008)

/-! ### Reset and the whole block -/

/-- R10, R24, R31, R403, R434 and R441: what reset leaves, as the manual gives it: no image, every power domain off, no link and no
fabric port up, every stack in self-refresh and untrained, no partition, core, sequence or request at work, the serving tick not
running, every island's count at zero, no command waiting, nothing on the outputs. Registers whose reset values the manual does not
give hold the model's choices (log entry 2), of which this says nothing. -/
def Sys2Proof.Claims.ResetState : Prop :=
  let s := State.reset
  s.pending = [] ∧ s.mgmt.boot = .reset ∧ s.mgmt.powerOn = true ∧ s.gram.image = none ∧ s.gram.state = .empty ∧ s.pwr.domOn = 0
  ∧ s.pwr.alert = false ∧ s.xl.state = .down ∧ (∀ f, (s.port f).state = .off) ∧ (∀ n, (s.stack n).state = .selfRefresh
      ∧ (s.stack n).trained = false ∧ (s.stack n).asleep = true) ∧ s.seqs = [] ∧ s.srv.table = [] ∧ s.srv.groups = []
  ∧ s.srv.ticking = false ∧ (∀ island, s.counts.look 0 island = 0) ∧ s.transit = [] ∧ s.out = [] ∧ s.mgmt.store = [] ∧ s.mgmt.thermTrip = false ∧ s.mgmt.faultPin = false

/-- The memory's canonical form, which every byte operation keeps: addresses strictly rising and no listed byte that reads as an
unlisted one. Reset's memory has it. Where the manual leaves a corner to reading, it is the model's: log entry 4. -/
def Sys2Proof.Claims.ResetMemoryCanonical : Prop := Memory.wf State.reset.mem = true

/-- Every command keeps the memory's canonical form, from every state that has it. -/
def Sys2Proof.Claims.MemoryCanonicalKept : Prop :=
  ∀ (c : Instr) (s t : State), Memory.wf s.mem = true → exec c s = .next t → Memory.wf t.mem = true

/-- A step keeps the memory's canonical form, from every state that has it. -/
def Sys2Proof.Claims.StepKeepsMemory : Prop := ∀ s t : State, Memory.wf s.mem = true → step s = .next t → Memory.wf t.mem = true

/-- No command touches the queue of waiting commands. -/
def Sys2Proof.Claims.CommandsLeaveTheQueue : Prop := ∀ (c : Instr) (s t : State), exec c s = .next t → t.pending = s.pending

/-- R401 and R404: fuses are not changed by any command, but that FW_COMMIT may raise the floor of the firmware's security version and
revoke keys: the floor never falls and a revoked key is never restored. -/
def Sys2Proof.Claims.FusesOnlyRise : Prop :=
  ∀ (c : Instr) (s t : State), exec c s = .next t →
    t.fuses = { s.fuses with floor := t.fuses.floor, revoked := t.fuses.revoked } ∧ s.fuses.floor ≤ t.fuses.floor
    ∧ ∀ k, bit s.fuses.revoked k = true → bit t.fuses.revoked k = true

/-- Every command of every constructor takes a step of the block to a next state; of registerWrite and companionWrite alone, a write
into an unlocked debug module is refused by name instead. No command faults. Where the manual leaves a corner to reading, it is the
model's: log entry 11. -/
def Sys2Proof.Claims.EveryCommandRuns : Prop :=
  ∀ (c : Instr) (s : State),
    ((∀ m off w v, c ≠ .registerWrite m off w v) → (∀ w off r p b, c ≠ .companionWrite w off r p b) → ∃ t, exec c s = .next t)
    ∧ ((∃ t, exec c s = .next t) ∨ (exec c s = .refused .debugModule ∧ s.sec.debug = true))
    ∧ (s.sec.debug = false → ∃ t, exec c s = .next t)

/-! ### Who may sign an image (R36) -/

/-- R36: an image whose SIGNER is 0 passes VERIFY's first check only while no owner key is enrolled, under a Woath image key of the
running firmware; one whose SIGNER is 1 only while an owner key is enrolled, and only if the trailer's key identifier names that key.
Every other combination, and every signature that fails, ends the load with IMG_SIGNATURE and leaves the structure in force. The
signature function is an unconstrained function of the configuration (log entry 6). -/
def Sys2Proof.Claims.SignersAccepted : Prop :=
  ∀ (j : LoadJob) (s : State), s.gram.job = some j → s.gram.state = .verify →
    let signer := leAt j.bytes 7 1
    let t := trailer j.bytes
    let signed (key : List Byte) : Prop := leAt t 114 6 = 0 ∧ leAt t 120 8 = keyId key
      ∧ Config.ed448Good (slice key 0 57) (imageDigest j.bytes) (slice t 0 114) = true
    let accepted : Prop := j.keyBad = false
      ∧ ((signer = 0 ∧ j.ownerKey = none ∧ ∃ key ∈ imageKeys s.mgmt.firmware, signed key)
        ∨ (signer = 1 ∧ ∃ key, j.ownerKey = some key ∧ signed key))
    (¬ accepted → Completes .imageVerifyDone s fun t => LoadRefused s t { status := Code.imgSignature })
    ∧ (accepted → ∀ f, s.judgeImage j.bytes = some f → Completes .imageVerifyDone s fun t => LoadRefused s t f)
    ∧ (accepted ↔ signatureGood s.mgmt.firmware j.ownerKey j.keyBad signer j.bytes = true)


/-! ## The obligations, each joining its parts -/

/-- A step takes the command at the front of the queue and is exec of it on the state with the queue's rest. Parts:
`Claims.StepRunsFrontCommand`. -/
def Obligations.StepTakesTheFrontCommand : Prop :=
  Sys2Proof.Claims.StepRunsFrontCommand

/-- On an empty queue a step moves only the serving tick, where it runs (the model's choice, log entry 5). Parts:
`Claims.IdleStepMovesTickOnly`. -/
def Obligations.IdleBlockOnlyTicks : Prop :=
  Sys2Proof.Claims.IdleStepMovesTickOnly

/-- What reset leaves: no image, every domain off, every link down, every stack asleep, canonical memory. Parts:
`Claims.ResetState`, `Claims.ResetMemoryCanonical`. -/
def Obligations.ResetLeavesTheBlockIdle : Prop :=
  Sys2Proof.Claims.ResetState
  ∧ Sys2Proof.Claims.ResetMemoryCanonical

/-- RESET_n, loss of power, the rails and the reference clocks: what each clears and what survives it. Parts:
`Claims.ResetAndPowerLoss`, `Claims.RailsAndClocks`. -/
def Obligations.ResetsPowerLossAndClocks : Prop :=
  Sys2Proof.Claims.ResetAndPowerLoss
  ∧ Sys2Proof.Claims.RailsAndClocks

/-- ROM chooses a firmware slot, readiness starts the link, and a restart or factory reset boots from ROM again. Parts:
`Claims.RomChoosesSlot`, `Claims.ReadinessStartsLink`, `Claims.RestartFromRom`. -/
def Obligations.RomBootsAndRestarts : Prop :=
  Sys2Proof.Claims.RomChoosesSlot
  ∧ Sys2Proof.Claims.ReadinessStartsLink
  ∧ Sys2Proof.Claims.RestartFromRom

/-- Presence is debounced over 20 samples and the seal loop over two; a break is held until acknowledged. Parts:
`Claims.PresenceDebounced`, `Claims.SealBreaks`. -/
def Obligations.PresenceAndSealSampled : Prop :=
  Sys2Proof.Claims.PresenceDebounced
  ∧ Sys2Proof.Claims.SealBreaks

/-- Owner operations have their effect under presence with the seal whole, and are refused and counted otherwise. Parts:
`Claims.OwnerOperations`, `Claims.FirmwareUpdates`. -/
def Obligations.OwnerOperationsNeedPresence : Prop :=
  Sys2Proof.Claims.OwnerOperations
  ∧ Sys2Proof.Claims.FirmwareUpdates

/-- COMMIT raises floor and revocations, a rollback names a slot that passes anew, and no command ever lowers a fuse. Parts:
`Claims.CommitAndRollback`, `Claims.FusesOnlyRise`. -/
def Obligations.FusesOnlyRiseByCommit : Prop :=
  Sys2Proof.Claims.CommitAndRollback
  ∧ Sys2Proof.Claims.FusesOnlyRise

/-- A load command begins reading an image or says why not; the image read goes through check 1. Parts: `Claims.ImageLoadStarts`,
`Claims.ImageReadAndChecked`. -/
def Obligations.ImageLoadsBegin : Prop :=
  Sys2Proof.Claims.ImageLoadStarts
  ∧ Sys2Proof.Claims.ImageReadAndChecked

/-- Which signer is accepted with and without an owner key; every other image is refused with IMG_SIGNATURE. Parts:
`Claims.SignersAccepted`. -/
def Obligations.ImageSignersAccepted : Prop :=
  Sys2Proof.Claims.SignersAccepted

/-- VERIFY ends with the first fault or passes to APPLY; a partial image may create a partition; returning cores are tested.
Parts: `Claims.ImageVerifiedOrRefused`, `Claims.PartialImageCreatesPartition`, `Claims.ReturningCoreTested`. -/
def Obligations.ImageVerifiedAndPartitionMade : Prop :=
  Sys2Proof.Claims.ImageVerifiedOrRefused
  ∧ Sys2Proof.Claims.PartialImageCreatesPartition
  ∧ Sys2Proof.Claims.ReturningCoreTested

/-- The stacks' bring-up builds the sets, APPLY puts the image in force, and a waiting partial image is applied at a quantum
boundary. Parts: `Claims.BringupEnds`, `Claims.ImageInForce`, `Claims.QuantumBoundary`. -/
def Obligations.ImagePutInForce : Prop :=
  Sys2Proof.Claims.BringupEnds
  ∧ Sys2Proof.Claims.ImageInForce
  ∧ Sys2Proof.Claims.QuantumBoundary

/-- START, STOP and ABORT of a core, the load of a bank, the strap and the address FIFO. Parts: `Claims.CoreStartStopAbort`,
`Claims.BankLoadStrapAndFifo`. -/
def Obligations.CoreControlRegisters : Prop :=
  Sys2Proof.Claims.CoreStartStopAbort
  ∧ Sys2Proof.Claims.BankLoadStrapAndFifo

/-- A clause image read is judged and makes its bank READY or FAILED; the dispatcher places verbs in their queues. Parts:
`Claims.ClauseLoadEnds`, `Claims.VerbIsPlaced`. -/
def Obligations.ClauseBanksDispatch : Prop :=
  Sys2Proof.Claims.ClauseLoadEnds
  ∧ Sys2Proof.Claims.VerbIsPlaced

/-- A fault halts its queue alone and makes the core FAULTED; a JOIN that waits too long is JOIN_TIMEOUT. Parts:
`Claims.QueueFaults`, `Claims.JoinTimesOut`. -/
def Obligations.QueuesFault : Prop :=
  Sys2Proof.Claims.QueueFaults
  ∧ Sys2Proof.Claims.JoinTimesOut

/-- A finished verb at the front of its queue completes and signals; branches, swaps and ends take effect then. Parts:
`Claims.VerbCompletes`, `Claims.BranchesTakeEffect`. -/
def Obligations.VerbsComplete : Prop :=
  Sys2Proof.Claims.VerbCompletes
  ∧ Sys2Proof.Claims.BranchesTakeEffect

/-- A verb whose predicate does not hold does nothing; JOIN lowers its counts; FENCE waits for what its scope names. Parts:
`Claims.NopAndPredicates`, `Claims.JoinAndFence`. -/
def Obligations.PredicatesJoinsAndFences : Prop :=
  Sys2Proof.Claims.NopAndPredicates
  ∧ Sys2Proof.Claims.JoinAndFence

/-- The scalar verbs on counters, predicates and the strap, and the load of a counter from memory. Parts: `Claims.ScalarVerbs`,
`Claims.ScalarLoad`. -/
def Obligations.ScalarQueueVerbs : Prop :=
  Sys2Proof.Claims.ScalarVerbs
  ∧ Sys2Proof.Claims.ScalarLoad

/-- BIND makes a port a producer or a consumer and grants its credits; UNBIND waits until nothing is on its way. Parts:
`Claims.BindPorts`, `Claims.UnbindPorts`. -/
def Obligations.StreamPortsBound : Prop :=
  Sys2Proof.Claims.BindPorts
  ∧ Sys2Proof.Claims.UnbindPorts

/-- MMA adds products along K to the banks, MDRAIN rounds each sum once and writes it, MZERO empties banks. Parts:
`Claims.MatrixMultiply`, `Claims.MatrixDrain`, `Claims.MatrixZero`. -/
def Obligations.MatrixVerbs : Prop :=
  Sys2Proof.Claims.MatrixMultiply
  ∧ Sys2Proof.Claims.MatrixDrain
  ∧ Sys2Proof.Claims.MatrixZero

/-- VMAP does its function's work element by element, VRED reduces each row to one element. Parts: `Claims.VectorMap`,
`Claims.VectorReduce`. -/
def Obligations.VectorMapsAndReductions : Prop :=
  Sys2Proof.Claims.VectorMap
  ∧ Sys2Proof.Claims.VectorReduce

/-- VSMAX, VNORM and VSAMPLE work row by row. Parts: `Claims.VectorSoftmax`, `Claims.VectorNormalise`, `Claims.VectorSample`. -/
def Obligations.VectorRowVerbs : Prop :=
  Sys2Proof.Claims.VectorSoftmax
  ∧ Sys2Proof.Claims.VectorNormalise
  ∧ Sys2Proof.Claims.VectorSample

/-- DCOPY writes its source into its destination, DFLUSH writes a footprint's lines back, DAK2 takes blocks from the address FIFO.
Parts: `Claims.CopiesData`, `Claims.FlushesLines`, `Claims.AddressStreamCopies`. -/
def Obligations.CopiesAndFlushes : Prop :=
  Sys2Proof.Claims.CopiesData
  ∧ Sys2Proof.Claims.FlushesLines
  ∧ Sys2Proof.Claims.AddressStreamCopies

/-- DGATHER and DSCATTER take and store elements by index, with INDEX_RANGE outside the table. Parts: `Claims.GathersElements`,
`Claims.ScattersElements`. -/
def Obligations.GathersAndScatters : Prop :=
  Sys2Proof.Claims.GathersElements
  ∧ Sys2Proof.Claims.ScattersElements

/-- Scopes nest as sets of parties; DATOM gives the old value to its destination; DCVCFG sets the check-value unit or faults.
Parts: `Claims.ScopesNest`, `Claims.AtomicVerb`, `Claims.ConfiguresCheckValues`. -/
def Obligations.AtomicsAndCheckValueUnit : Prop :=
  Sys2Proof.Claims.ScopesNest
  ∧ Sys2Proof.Claims.AtomicVerb
  ∧ Sys2Proof.Claims.ConfiguresCheckValues

/-- Tiles leave on credits, land in the peer's next slot or fault their sender, and credits come back. Parts: `Claims.TilesLeave`,
`Claims.TilesArrive`, `Claims.CreditsReturn`. -/
def Obligations.TilesAndCreditsTravel : Prop :=
  Sys2Proof.Claims.TilesLeave
  ∧ Sys2Proof.Claims.TilesArrive
  ∧ Sys2Proof.Claims.CreditsReturn

/-- A whole line written stands in the cells, a part waits in the buffer, a line found uncorrectable becomes poison. Parts:
`Claims.LineWrites`, `Claims.BufferedLinesLeave`, `Claims.LineReads`. -/
def Obligations.LinesWrittenAndRead : Prop :=
  Sys2Proof.Claims.LineWrites
  ∧ Sys2Proof.Claims.BufferedLinesLeave
  ∧ Sys2Proof.Claims.LineReads

/-- Cache lines are written back, sleeping stacks wake, channels are mapped out and return. Parts: `Claims.EvictionAndWake`,
`Claims.ChannelsOutAndBack`. -/
def Obligations.CachesStacksAndChannels : Prop :=
  Sys2Proof.Claims.EvictionAndWake
  ∧ Sys2Proof.Claims.ChannelsOutAndBack

/-- Refresh is owed and repaid, and the base die's temperature throttles, refreshes and fails as its descriptor says. Parts:
`Claims.RefreshAndRecalibration`, `Claims.StackTemperature`. -/
def Obligations.RefreshAndStackTemperature : Prop :=
  Sys2Proof.Claims.RefreshAndRecalibration
  ∧ Sys2Proof.Claims.StackTemperature

/-- The pattern checker runs over a range, and a stack's training passes, remaps lanes or fails. Parts: `Claims.CheckerRuns`,
`Claims.StackTraining`. -/
def Obligations.CheckersAndStackTraining : Prop :=
  Sys2Proof.Claims.CheckerRuns
  ∧ Sys2Proof.Claims.StackTraining

/-- A bank-side descriptor is judged, queued and admitted in share order; a CANCEL stops its sequence. Parts:
`Claims.DescriptorTaken`, `Claims.CancelStops`, `Claims.AdmissionOrder`. -/
def Obligations.SequencesTakenAndAdmitted : Prop :=
  Sys2Proof.Claims.DescriptorTaken
  ∧ Sys2Proof.Claims.CancelStops
  ∧ Sys2Proof.Claims.AdmissionOrder

/-- A bank-side unit runs in slices under its claim, and a claim that holds a writer too long stops. Parts: `Claims.SliceRuns`,
`Claims.ClaimStalls`. -/
def Obligations.SequencesRunInSlices : Prop :=
  Sys2Proof.Claims.SliceRuns
  ∧ Sys2Proof.Claims.ClaimStalls

/-- A sequence ends with its results stored, its held writes done and a summary of the manual's layout. Parts:
`Claims.SequenceEnds`, `Claims.SummaryLayout`. -/
def Obligations.SequencesEndWithSummary : Prop :=
  Sys2Proof.Claims.SequenceEnds
  ∧ Sys2Proof.Claims.SummaryLayout

/-- Patrol reads and range scrubs find damage, and a damaged block of a model is fetched anew. Parts: `Claims.RefetchesDamage`,
`Claims.PatrolReads`, `Claims.RangeScrubStarts`, `Claims.RangeScrubEnds`. -/
def Obligations.DamageFoundAndRefetched : Prop :=
  Sys2Proof.Claims.RefetchesDamage
  ∧ Sys2Proof.Claims.PatrolReads
  ∧ Sys2Proof.Claims.RangeScrubStarts
  ∧ Sys2Proof.Claims.RangeScrubEnds

/-- The integrity and stack registers take the values the manual allows and refuse the others. Parts: `Claims.IntegrityRegisters`,
`Claims.StackRegistersRefused`. -/
def Obligations.IntegrityAndStackRegisters : Prop :=
  Sys2Proof.Claims.IntegrityRegisters
  ∧ Sys2Proof.Claims.StackRegistersRefused

/-- The intake takes a ring's records in order; a SUBMIT passes its checks in the table's order or is refused. Parts:
`Claims.RecordsTaken`, `Claims.SubmitChecksInOrder`, `Claims.PromptRead`. -/
def Obligations.RequestsSubmitted : Prop :=
  Sys2Proof.Claims.RecordsTaken
  ∧ Sys2Proof.Claims.SubmitChecksInOrder
  ∧ Sys2Proof.Claims.PromptRead

/-- CANCEL, PREFIX_ADD and PREFIX_DEL records. Parts: `Claims.CancelRecords`, `Claims.PrefixRecords`. -/
def Obligations.CancelsAndPrefixRecords : Prop :=
  Sys2Proof.Claims.CancelRecords
  ∧ Sys2Proof.Claims.PrefixRecords

/-- A step's boundary delivers its tokens and decides what follows; a step that runs too long is abandoned. Parts:
`Claims.StepBoundaryTaken`, `Claims.TokensDelivered`, `Claims.WatchdogAbandons`. -/
def Obligations.StepBoundariesPassed : Prop :=
  Sys2Proof.Claims.StepBoundaryTaken
  ∧ Sys2Proof.Claims.TokensDelivered
  ∧ Sys2Proof.Claims.WatchdogAbandons

/-- Watched companion lines reach the intake, and the serving block's registers take rings, pages and peeks. Parts:
`Claims.WatchedLinesRead`, `Claims.ServingRegisters`. -/
def Obligations.ServingLinesAndRegisters : Prop :=
  Sys2Proof.Claims.WatchedLinesRead
  ∧ Sys2Proof.Claims.ServingRegisters

/-- Phase commands, cores taken offline and the class counters. Parts: `Claims.PhaseCommandOrdered`, `Claims.PhaseCommandDone`,
`Claims.SchedulingNeedsImage`, `Claims.OfflineAndCounters`. -/
def Obligations.PhasesAndCoresOffline : Prop :=
  Sys2Proof.Claims.PhaseCommandOrdered
  ∧ Sys2Proof.Claims.PhaseCommandDone
  ∧ Sys2Proof.Claims.SchedulingNeedsImage
  ∧ Sys2Proof.Claims.OfflineAndCounters

/-- A cluster switch is accepted or refused, and its drain ends or times out. Parts: `Claims.SwitchAccepted`, `Claims.DrainEnds`.
-/
def Obligations.SwitchesDrain : Prop :=
  Sys2Proof.Claims.SwitchAccepted
  ∧ Sys2Proof.Claims.DrainEnds

/-- A drained cluster's state moves out and in, and its cores change hands. Parts: `Claims.SwitchMoves`,
`Claims.MoveChangesHands`. -/
def Obligations.SwitchesChangeHands : Prop :=
  Sys2Proof.Claims.SwitchMoves
  ∧ Sys2Proof.Claims.MoveChangesHands

/-- A model-cache load takes pages and ends RESIDENT or EVICTED; what a request's boundary decides, in order. Parts:
`Claims.LoadTakesPages`, `Claims.LoadDone`, `Claims.ModelCacheCorners`, `Claims.BoundaryOrder`. -/
def Obligations.ModelCacheLoadsAndBoundaries : Prop :=
  Sys2Proof.Claims.LoadTakesPages
  ∧ Sys2Proof.Claims.LoadDone
  ∧ Sys2Proof.Claims.ModelCacheCorners
  ∧ Sys2Proof.Claims.BoundaryOrder

/-- A pin exempts from replacement only; EVICT gives up pages and keeps the description; UNLOAD empties the entry. Parts:
`Claims.RoomIsMade`, `Claims.PinsAndEvictions`, `Claims.GoneModelsAtBoundary`. -/
def Obligations.ModelCachePinsAndEvictions : Prop :=
  Sys2Proof.Claims.RoomIsMade
  ∧ Sys2Proof.Claims.PinsAndEvictions
  ∧ Sys2Proof.Claims.GoneModelsAtBoundary

/-- Events take the device's sequence numbers, are written to their rings and notify by their vectors. Parts:
`Claims.EventsRecorded`, `Claims.RecordsWritten`, `Claims.VectorsNotify`, `Claims.RingsConfigured`. -/
def Obligations.EventsReachTheirRings : Prop :=
  Sys2Proof.Claims.EventsRecorded
  ∧ Sys2Proof.Claims.RecordsWritten
  ∧ Sys2Proof.Claims.VectorsNotify
  ∧ Sys2Proof.Claims.RingsConfigured

/-- The Xomon link trains, is equalised, comes up in the mode settled and goes down. Parts: `Claims.LinkStates`,
`Claims.LinkHandsOff`, `Claims.LinkComesUp`. -/
def Obligations.LinkTrains : Prop :=
  Sys2Proof.Claims.LinkStates
  ∧ Sys2Proof.Claims.LinkHandsOff
  ∧ Sys2Proof.Claims.LinkComesUp

/-- Snoops and companion accesses of the link's windows. Parts: `Claims.SnoopsAnswered`, `Claims.CompanionReads`,
`Claims.CompanionWrites`. -/
def Obligations.CompanionAccesses : Prop :=
  Sys2Proof.Claims.SnoopsAnswered
  ∧ Sys2Proof.Claims.CompanionReads
  ∧ Sys2Proof.Claims.CompanionWrites

/-- Accesses of a control core; its AMO and store-conditional codes are the model's (log entry 23). Parts:
`Claims.ControlCoreAccesses`. -/
def Obligations.ControlCoreAccesses : Prop :=
  Sys2Proof.Claims.ControlCoreAccesses

/-- A fabric port comes up at what both ends can do, and flows open and close. Parts: `Claims.PortsComeUp`, `Claims.PortModes`,
`Claims.FlowsOpenAndClose`. -/
def Obligations.FabricPortsAndFlows : Prop :=
  Sys2Proof.Claims.PortsComeUp
  ∧ Sys2Proof.Claims.PortModes
  ∧ Sys2Proof.Claims.FlowsOpenAndClose

/-- HELLO and HELLO_ACK open a flow or fail it. Parts: `Claims.HelloTimers`, `Claims.HellosAgree`. -/
def Obligations.FlowHellos : Prop :=
  Sys2Proof.Claims.HelloTimers
  ∧ Sys2Proof.Claims.HellosAgree

/-- A frame is counted and dropped or waits at its port, and leaves whole with its headers and checks; what every packet carries
moves the flow's receive state. Parts: `Claims.FramesReceived`, `Claims.FramesSent`, `Claims.FlowTakesPackets`,
`Claims.ReceiveStateCovers`. -/
def Obligations.FramesAndReceiveState : Prop :=
  Sys2Proof.Claims.FramesReceived
  ∧ Sys2Proof.Claims.FramesSent
  ∧ Sys2Proof.Claims.FlowTakesPackets
  ∧ Sys2Proof.Claims.ReceiveStateCovers

/-- Requests of a flow are sequenced, performed in order and answered; management packets are taken or refused. Parts:
`Claims.RequestsSequenced`, `Claims.RequestsPerformed`, `Claims.ManagementPackets`. -/
def Obligations.RemoteRequests : Prop :=
  Sys2Proof.Claims.RequestsSequenced
  ∧ Sys2Proof.Claims.RequestsPerformed
  ∧ Sys2Proof.Claims.ManagementPackets

/-- Answers reach who waits for them, NAKs and timers retransmit or fail, tiles of a flow gather and land. Parts:
`Claims.AnswersArrive`, `Claims.NaksAndTimers`, `Claims.StreamPackets`. -/
def Obligations.RemoteAnswers : Prop :=
  Sys2Proof.Claims.AnswersArrive
  ∧ Sys2Proof.Claims.NaksAndTimers
  ∧ Sys2Proof.Claims.StreamPackets

/-- Domains switch with the work there is; a decision window runs its steps in order and settles the orders. Parts:
`Claims.DomainsSwitch`, `Claims.DecisionWindowSteps`, `Claims.OrdersSettle`. -/
def Obligations.PowerManagerWindows : Prop :=
  Sys2Proof.Claims.DomainsSwitch
  ∧ Sys2Proof.Claims.DecisionWindowSteps
  ∧ Sys2Proof.Claims.OrdersSettle

/-- The limit in force is the least of what applies; orders fill their master's slot; the alert lowers the device to its floor.
Parts: `Claims.LimitInForce`, `Claims.LimitOrders`, `Claims.PowerAlert`. -/
def Obligations.PowerLimitAndAlert : Prop :=
  Sys2Proof.Claims.LimitInForce
  ∧ Sys2Proof.Claims.LimitOrders
  ∧ Sys2Proof.Claims.PowerAlert

/-- Shutdowns and their records, the throttle level of each millisecond, and the diodes' calibration. Parts: `Claims.Shutdowns`,
`Claims.RecordsAcknowledged`, `Claims.ThrottleLevel`, `Claims.DiodesCalibrated`. -/
def Obligations.ShutdownAndThermal : Prop :=
  Sys2Proof.Claims.Shutdowns
  ∧ Sys2Proof.Claims.RecordsAcknowledged
  ∧ Sys2Proof.Claims.ThrottleLevel
  ∧ Sys2Proof.Claims.DiodesCalibrated

/-- Registers are read and written at their width, by the masters that reach them, and refuse reserved values. Parts:
`Claims.RegisterAccessRules`, `Claims.RegisterReach`, `Claims.RegisterFields`, `Claims.BmcAccesses`. -/
def Obligations.RegistersReadAndWritten : Prop :=
  Sys2Proof.Claims.RegisterAccessRules
  ∧ Sys2Proof.Claims.RegisterReach
  ∧ Sys2Proof.Claims.RegisterFields
  ∧ Sys2Proof.Claims.BmcAccesses

/-- Attestation jobs, wear and ageing, and telemetry samples. Parts: `Claims.Attestation`, `Claims.WearAndAgeing`,
`Claims.TelemetrySamples`. -/
def Obligations.AttestationAndBackground : Prop :=
  Sys2Proof.Claims.Attestation
  ∧ Sys2Proof.Claims.WearAndAgeing
  ∧ Sys2Proof.Claims.TelemetrySamples

/-- Every command and every step keeps the canonical form of the stored bytes. Parts: `Claims.MemoryCanonicalKept`,
`Claims.StepKeepsMemory`. -/
def Obligations.MemoryFormKept : Prop :=
  Sys2Proof.Claims.MemoryCanonicalKept
  ∧ Sys2Proof.Claims.StepKeepsMemory

/-- No command touches the queue, and every command of every constructor answers a next state but a write into an unlocked debug
module. Parts: `Claims.CommandsLeaveTheQueue`, `Claims.EveryCommandRuns`. -/
def Obligations.CommandsRunAndLeaveTheQueue : Prop :=
  Sys2Proof.Claims.CommandsLeaveTheQueue
  ∧ Sys2Proof.Claims.EveryCommandRuns
end

