-- ==== Sys2Proof/Laws/Tables.lean ====
section
/-!
SUPPORT. The laws of sparse tables: a read after a write gives what was written at that number and what was there at any other.
-/

namespace Sys2Proof

@[simp] theorem Tbl.look_nil {α : Type} (d : α) (n : Nat) : Tbl.look d [] n = d := rfl

@[simp] theorem Tbl.look_put_self {α : Type} (d x : α) (n : Nat) (t : Tbl α) : Tbl.look d (Tbl.put n x t) n = x := by
  induction t with
  | nil => simp [Tbl.put, Tbl.look]
  | cons h r ih =>
    obtain ⟨k, v⟩ := h
    simp only [Tbl.put]
    split
    · simp [Tbl.look]
    · split
      · simp [Tbl.look]
      · rename_i h1 h2
        have : ¬k = n := fun h => h2 h.symm
        simp [Tbl.look, this, ih]

theorem Tbl.look_put_other {α : Type} (d x : α) {n m : Nat} (t : Tbl α) (h : m ≠ n) :
    Tbl.look d (Tbl.put n x t) m = Tbl.look d t m := by
  induction t with
  | nil =>
    have : ¬n = m := fun e => h e.symm
    simp [Tbl.put, Tbl.look, this]
  | cons e r ih =>
    obtain ⟨k, v⟩ := e
    have hn : ¬n = m := fun e => h e.symm
    simp only [Tbl.put]
    split
    · simp [Tbl.look, hn]
    · split
      · rename_i _ hk
        subst hk
        simp [Tbl.look, hn]
      · simp only [Tbl.look, ih]

/-- A read of a table after one member has been set. -/
theorem Tbl.look_put {α : Type} (d x : α) (n m : Nat) (t : Tbl α) :
    Tbl.look d (Tbl.put n x t) m = if m = n then x else Tbl.look d t m := by
  split
  · rename_i h
    subst h
    exact Tbl.look_put_self d x m t
  · rename_i h
    exact Tbl.look_put_other d x t h

@[simp] theorem Tbl.look_upd_self {α : Type} (d : α) (n : Nat) (f : α → α) (t : Tbl α) :
    Tbl.look d (Tbl.upd d n f t) n = f (Tbl.look d t n) := Tbl.look_put_self d _ n t

theorem Tbl.look_upd_other {α : Type} (d : α) {n m : Nat} (f : α → α) (t : Tbl α) (h : m ≠ n) :
    Tbl.look d (Tbl.upd d n f t) m = Tbl.look d t m := Tbl.look_put_other d _ t h

/-- A read of a table after one member has been changed. -/
theorem Tbl.look_upd {α : Type} (d : α) (n m : Nat) (f : α → α) (t : Tbl α) :
    Tbl.look d (Tbl.upd d n f t) m = if m = n then f (Tbl.look d t n) else Tbl.look d t m := Tbl.look_put d _ n m t

/-- Changing every listed member by a function that keeps the default changes every member by it. -/
theorem Tbl.look_map {α : Type} (d : α) (f : α → α) (hd : f d = d) (t : Tbl α) (n : Nat) :
    Tbl.look d (t.map fun x => (x.1, f x.2)) n = f (Tbl.look d t n) := by
  induction t with
  | nil => simp [Tbl.look, hd]
  | cons e r ih =>
    obtain ⟨k, v⟩ := e
    simp only [List.map_cons, Tbl.look, ih]
    split <;> rfl

@[simp] theorem Tbl.seek_put_self {α : Type} (x : α) (n : Nat) (t : Tbl α) : Tbl.seek (Tbl.put n x t) n = some x := by
  induction t with
  | nil => simp [Tbl.put, Tbl.seek]
  | cons h r ih =>
    obtain ⟨k, v⟩ := h
    simp only [Tbl.put]
    split
    · simp [Tbl.seek]
    · split
      · simp [Tbl.seek]
      · rename_i h1 h2
        have : ¬k = n := fun h => h2 h.symm
        simp [Tbl.seek, this, ih]

/-- A table read with a default is a table searched. -/
theorem Tbl.look_eq_seek {α : Type} (d : α) (t : Tbl α) (n : Nat) : Tbl.look d t n = (Tbl.seek t n).getD d := by
  induction t with
  | nil => rfl
  | cons h r ih =>
    obtain ⟨k, v⟩ := h
    simp only [Tbl.look, Tbl.seek]
    split
    · rfl
    · exact ih

end Sys2Proof
end

