-- ==== Sys2Proof/Laws/Memory.lean ====
section
/-!
SUPPORT. The laws of memory: every operation keeps the canonical form, a read after a write to the same place gives the value
written, and a write leaves every other place alone.
-/

namespace Sys2Proof

/-- A memory that is canonical from a place is canonical from any lower place. -/
theorem Memory.wfFrom_mono {lo lo' : Nat} (h : lo' ≤ lo) : ∀ m : List Host.Cell, Memory.wfFrom lo m = true →
    Memory.wfFrom lo' m = true
  | [], _ => rfl
  | (a, b) :: r, hm => by
    simp only [Memory.wfFrom, Bool.and_eq_true, decide_eq_true_eq] at hm ⊢
    exact ⟨⟨Nat.le_trans h hm.1.1, hm.1.2⟩, hm.2⟩

/-- A byte below every listed address reads 0. -/
theorem Memory.read_below {lo a : Nat} (h : a < lo) : ∀ m : List Host.Cell, Memory.wfFrom lo m = true → Memory.read m a = 0
  | [], _ => rfl
  | (k, b) :: r, hm => by
    simp only [Memory.wfFrom, Bool.and_eq_true, decide_eq_true_eq] at hm
    have hk : ¬k = a := by omega
    simp only [Memory.read, Tbl.look, hk, if_false]
    exact Memory.read_below (by omega) r hm.2

theorem Memory.drop_wfFrom (a : Nat) : ∀ (lo : Nat) (m : List Host.Cell), Memory.wfFrom lo m = true →
    Memory.wfFrom lo (Tbl.drop a m) = true
  | _, [], _ => rfl
  | lo, (k, b) :: r, hm => by
    simp only [Memory.wfFrom, Bool.and_eq_true, decide_eq_true_eq] at hm
    simp only [Tbl.drop]
    split
    · exact Memory.wfFrom_mono (by omega) r hm.2
    · simp only [Memory.wfFrom, Bool.and_eq_true, decide_eq_true_eq]
      exact ⟨hm.1, Memory.drop_wfFrom a (k + 1) r hm.2⟩

theorem Memory.put_wfFrom (a : Nat) (b : Byte) (hb : b ≠ 0) : ∀ (lo : Nat) (m : List Host.Cell), lo ≤ a →
    Memory.wfFrom lo m = true → Memory.wfFrom lo (Tbl.put a b m) = true
  | lo, [], hl, _ => by simpa [Tbl.put, Memory.wfFrom, hl] using hb
  | lo, (k, c) :: r, hl, hm => by
    simp only [Memory.wfFrom, Bool.and_eq_true, decide_eq_true_eq] at hm
    simp only [Tbl.put]
    split
    · rename_i hlt
      simp only [Memory.wfFrom, Bool.and_eq_true, decide_eq_true_eq]
      exact ⟨⟨hl, hb⟩, ⟨⟨by omega, hm.1.2⟩, hm.2⟩⟩
    · split
      · rename_i _ he
        subst he
        simp only [Memory.wfFrom, Bool.and_eq_true, decide_eq_true_eq]
        exact ⟨⟨hm.1.1, hb⟩, hm.2⟩
      · simp only [Memory.wfFrom, Bool.and_eq_true, decide_eq_true_eq]
        exact ⟨hm.1, Memory.put_wfFrom a b hb (k + 1) r (by omega) hm.2⟩

/-- A write of one byte keeps the canonical form. -/
theorem Memory.write_wf (m : List Host.Cell) (a : Nat) (b : Byte) (h : Memory.wf m = true) :
    Memory.wf (Memory.write m a b) = true := by
  unfold Memory.write
  split
  · exact Memory.drop_wfFrom a 0 m h
  · rename_i hb
    exact Memory.put_wfFrom a b hb 0 m (Nat.zero_le a) h

/-- A write of bytes keeps the canonical form. -/
theorem Memory.writeList_wf : ∀ (b : List Byte) (m : List Host.Cell) (a : Nat), Memory.wf m = true →
    Memory.wf (Memory.writeList m a b) = true
  | [], _, _, h => h
  | x :: r, m, a, h => Memory.writeList_wf r (Memory.write m a x) (a + 1) (Memory.write_wf m a x h)

/-- Taking cells out of a memory keeps the canonical form. -/
theorem Memory.filter_wfFrom (p : Host.Cell → Bool) : ∀ (lo : Nat) (m : List Host.Cell), Memory.wfFrom lo m = true →
    Memory.wfFrom lo (m.filter p) = true
  | _, [], _ => rfl
  | lo, (k, b) :: r, hm => by
    simp only [Memory.wfFrom, Bool.and_eq_true, decide_eq_true_eq] at hm
    simp only [List.filter]
    split
    · simp only [Memory.wfFrom, Bool.and_eq_true, decide_eq_true_eq]
      exact ⟨hm.1, Memory.filter_wfFrom p (k + 1) r hm.2⟩
    · exact Memory.wfFrom_mono (by omega) _ (Memory.filter_wfFrom p (k + 1) r hm.2)

theorem Memory.filter_wf (p : Host.Cell → Bool) (m : List Host.Cell) (h : Memory.wf m = true) : Memory.wf (m.filter p) = true :=
  Memory.filter_wfFrom p 0 m h

theorem Memory.read_drop_self (a : Nat) : ∀ (lo : Nat) (m : List Host.Cell), Memory.wfFrom lo m = true →
    Memory.read (Tbl.drop a m) a = 0
  | _, [], _ => rfl
  | lo, (k, b) :: r, hm => by
    simp only [Memory.wfFrom, Bool.and_eq_true, decide_eq_true_eq] at hm
    simp only [Tbl.drop]
    split
    · rename_i h
      subst h
      exact Memory.read_below (Nat.lt_succ_self k) r hm.2
    · rename_i h
      simp only [Memory.read, Tbl.look, h, if_false]
      exact Memory.read_drop_self a (k + 1) r hm.2

theorem Memory.read_drop_other {a c : Nat} (h : c ≠ a) : ∀ m : List Host.Cell, Memory.read (Tbl.drop a m) c = Memory.read m c
  | [] => rfl
  | (k, b) :: r => by
    simp only [Tbl.drop]
    split
    · rename_i hk
      subst hk
      have : ¬k = c := fun e => h e.symm
      simp [Memory.read, Tbl.look, this]
    · simp only [Memory.read, Tbl.look]
      split
      · rfl
      · exact Memory.read_drop_other h r

/-- A read after a write to the same place gives the byte written. -/
theorem Memory.read_write_self (m : List Host.Cell) (a : Nat) (b : Byte) (h : Memory.wf m = true) :
    Memory.read (Memory.write m a b) a = b := by
  unfold Memory.write
  split
  · rename_i hb
    rw [Memory.read_drop_self a 0 m h, hb]
  · exact Tbl.look_put_self 0 b a m

/-- A write leaves every other place alone. -/
theorem Memory.read_write_other (m : List Host.Cell) {a c : Nat} (b : Byte) (h : c ≠ a) :
    Memory.read (Memory.write m a b) c = Memory.read m c := by
  unfold Memory.write
  split
  · exact Memory.read_drop_other h m
  · exact Tbl.look_put_other 0 b m h

/-- A write of bytes leaves every place outside them alone. -/
theorem Memory.read_writeList_other : ∀ (b : List Byte) (m : List Host.Cell) (a c : Nat), c < a ∨ a + b.length ≤ c →
    Memory.read (Memory.writeList m a b) c = Memory.read m c
  | [], _, _, _, _ => rfl
  | x :: r, m, a, c, h => by
    simp only [List.length_cons] at h
    rw [Memory.writeList, Memory.read_writeList_other r _ (a + 1) c (by omega), Memory.read_write_other m x (by omega)]

/-- A read inside bytes just written gives the byte written there. -/
theorem Memory.read_writeList_self : ∀ (b : List Byte) (m : List Host.Cell) (a i : Nat), Memory.wf m = true → i < b.length →
    Memory.read (Memory.writeList m a b) (a + i) = b.getD i 0
  | [], _, _, i, _, h => absurd h (Nat.not_lt_zero i)
  | x :: r, m, a, 0, hm, _ => by
    rw [Memory.writeList, Memory.read_writeList_other r _ (a + 1) (a + 0) (by omega)]
    exact Memory.read_write_self m a x hm
  | x :: r, m, a, i + 1, hm, h => by
    have := Memory.read_writeList_self r (Memory.write m a x) (a + 1) i (Memory.write_wf m a x hm) (by simpa using h)
    rw [Memory.writeList, show a + (i + 1) = a + 1 + i by omega, this]
    rfl

end Sys2Proof
end

