-- ==== Sys2Proof/Laws/State.lean ====
section
/-!
SUPPORT. One lemma for each field of the state under each named update: what an update does not name, it leaves alone.
-/

namespace Sys2Proof.Machine

variable (s : State)

/-! ### modCore -/

@[simp] theorem State.modCore_pending (c k : Nat) (f : CoreSt → CoreSt) : (s.modCore c k f).pending = s.pending := rfl
@[simp] theorem State.modCore_fuses (c k : Nat) (f : CoreSt → CoreSt) : (s.modCore c k f).fuses = s.fuses := rfl
@[simp] theorem State.modCore_flash (c k : Nat) (f : CoreSt → CoreSt) : (s.modCore c k f).flash = s.flash := rfl
@[simp] theorem State.modCore_mgmt (c k : Nat) (f : CoreSt → CoreSt) : (s.modCore c k f).mgmt = s.mgmt := rfl
@[simp] theorem State.modCore_gram (c k : Nat) (f : CoreSt → CoreSt) : (s.modCore c k f).gram = s.gram := rfl
@[simp] theorem State.modCore_pwr (c k : Nat) (f : CoreSt → CoreSt) : (s.modCore c k f).pwr = s.pwr := rfl
@[simp] theorem State.modCore_thm (c k : Nat) (f : CoreSt → CoreSt) : (s.modCore c k f).thm = s.thm := rfl
@[simp] theorem State.modCore_sec (c k : Nat) (f : CoreSt → CoreSt) : (s.modCore c k f).sec = s.sec := rfl
@[simp] theorem State.modCore_srv (c k : Nat) (f : CoreSt → CoreSt) : (s.modCore c k f).srv = s.srv := rfl
@[simp] theorem State.modCore_sched (c k : Nat) (f : CoreSt → CoreSt) : (s.modCore c k f).sched = s.sched := rfl
@[simp] theorem State.modCore_xl (c k : Nat) (f : CoreSt → CoreSt) : (s.modCore c k f).xl = s.xl := rfl
@[simp] theorem State.modCore_fab (c k : Nat) (f : CoreSt → CoreSt) : (s.modCore c k f).fab = s.fab := rfl
@[simp] theorem State.modCore_stk (c k : Nat) (f : CoreSt → CoreSt) : (s.modCore c k f).stk = s.stk := rfl
@[simp] theorem State.modCore_clusters (c k : Nat) (f : CoreSt → CoreSt) : (s.modCore c k f).clusters = s.clusters := rfl
@[simp] theorem State.modCore_sets (c k : Nat) (f : CoreSt → CoreSt) : (s.modCore c k f).sets = s.sets := rfl
@[simp] theorem State.modCore_mem (c k : Nat) (f : CoreSt → CoreSt) : (s.modCore c k f).mem = s.mem := rfl
@[simp] theorem State.modCore_poison (c k : Nat) (f : CoreSt → CoreSt) : (s.modCore c k f).poison = s.poison := rfl
@[simp] theorem State.modCore_upsets (c k : Nat) (f : CoreSt → CoreSt) : (s.modCore c k f).upsets = s.upsets := rfl
@[simp] theorem State.modCore_stuck (c k : Nat) (f : CoreSt → CoreSt) : (s.modCore c k f).stuck = s.stuck := rfl
@[simp] theorem State.modCore_transfers (c k : Nat) (f : CoreSt → CoreSt) : (s.modCore c k f).transfers = s.transfers := rfl
@[simp] theorem State.modCore_recent (c k : Nat) (f : CoreSt → CoreSt) : (s.modCore c k f).recent = s.recent := rfl
@[simp] theorem State.modCore_seqs (c k : Nat) (f : CoreSt → CoreSt) : (s.modCore c k f).seqs = s.seqs := rfl
@[simp] theorem State.modCore_nextSeq (c k : Nat) (f : CoreSt → CoreSt) : (s.modCore c k f).nextSeq = s.nextSeq := rfl
@[simp] theorem State.modCore_answers (c k : Nat) (f : CoreSt → CoreSt) : (s.modCore c k f).answers = s.answers := rfl
@[simp] theorem State.modCore_transit (c k : Nat) (f : CoreSt → CoreSt) : (s.modCore c k f).transit = s.transit := rfl
@[simp] theorem State.modCore_out (c k : Nat) (f : CoreSt → CoreSt) : (s.modCore c k f).out = s.out := rfl
@[simp] theorem State.modCore_counts (c k : Nat) (f : CoreSt → CoreSt) : (s.modCore c k f).counts = s.counts := rfl
@[simp] theorem State.modCore_clockHeld (c k : Nat) (f : CoreSt → CoreSt) : (s.modCore c k f).clockHeld = s.clockHeld := rfl
@[simp] theorem State.modCore_fresh (c k : Nat) (f : CoreSt → CoreSt) : (s.modCore c k f).fresh = s.fresh := rfl

/-! ### modCluster -/

@[simp] theorem State.modCluster_pending (c : Nat) (f : Cluster → Cluster) : (s.modCluster c f).pending = s.pending := rfl
@[simp] theorem State.modCluster_fuses (c : Nat) (f : Cluster → Cluster) : (s.modCluster c f).fuses = s.fuses := rfl
@[simp] theorem State.modCluster_flash (c : Nat) (f : Cluster → Cluster) : (s.modCluster c f).flash = s.flash := rfl
@[simp] theorem State.modCluster_mgmt (c : Nat) (f : Cluster → Cluster) : (s.modCluster c f).mgmt = s.mgmt := rfl
@[simp] theorem State.modCluster_gram (c : Nat) (f : Cluster → Cluster) : (s.modCluster c f).gram = s.gram := rfl
@[simp] theorem State.modCluster_pwr (c : Nat) (f : Cluster → Cluster) : (s.modCluster c f).pwr = s.pwr := rfl
@[simp] theorem State.modCluster_thm (c : Nat) (f : Cluster → Cluster) : (s.modCluster c f).thm = s.thm := rfl
@[simp] theorem State.modCluster_sec (c : Nat) (f : Cluster → Cluster) : (s.modCluster c f).sec = s.sec := rfl
@[simp] theorem State.modCluster_srv (c : Nat) (f : Cluster → Cluster) : (s.modCluster c f).srv = s.srv := rfl
@[simp] theorem State.modCluster_sched (c : Nat) (f : Cluster → Cluster) : (s.modCluster c f).sched = s.sched := rfl
@[simp] theorem State.modCluster_xl (c : Nat) (f : Cluster → Cluster) : (s.modCluster c f).xl = s.xl := rfl
@[simp] theorem State.modCluster_fab (c : Nat) (f : Cluster → Cluster) : (s.modCluster c f).fab = s.fab := rfl
@[simp] theorem State.modCluster_stk (c : Nat) (f : Cluster → Cluster) : (s.modCluster c f).stk = s.stk := rfl
@[simp] theorem State.modCluster_cores (c : Nat) (f : Cluster → Cluster) : (s.modCluster c f).cores = s.cores := rfl
@[simp] theorem State.modCluster_sets (c : Nat) (f : Cluster → Cluster) : (s.modCluster c f).sets = s.sets := rfl
@[simp] theorem State.modCluster_mem (c : Nat) (f : Cluster → Cluster) : (s.modCluster c f).mem = s.mem := rfl
@[simp] theorem State.modCluster_poison (c : Nat) (f : Cluster → Cluster) : (s.modCluster c f).poison = s.poison := rfl
@[simp] theorem State.modCluster_upsets (c : Nat) (f : Cluster → Cluster) : (s.modCluster c f).upsets = s.upsets := rfl
@[simp] theorem State.modCluster_stuck (c : Nat) (f : Cluster → Cluster) : (s.modCluster c f).stuck = s.stuck := rfl
@[simp] theorem State.modCluster_transfers (c : Nat) (f : Cluster → Cluster) : (s.modCluster c f).transfers = s.transfers := rfl
@[simp] theorem State.modCluster_recent (c : Nat) (f : Cluster → Cluster) : (s.modCluster c f).recent = s.recent := rfl
@[simp] theorem State.modCluster_seqs (c : Nat) (f : Cluster → Cluster) : (s.modCluster c f).seqs = s.seqs := rfl
@[simp] theorem State.modCluster_nextSeq (c : Nat) (f : Cluster → Cluster) : (s.modCluster c f).nextSeq = s.nextSeq := rfl
@[simp] theorem State.modCluster_answers (c : Nat) (f : Cluster → Cluster) : (s.modCluster c f).answers = s.answers := rfl
@[simp] theorem State.modCluster_transit (c : Nat) (f : Cluster → Cluster) : (s.modCluster c f).transit = s.transit := rfl
@[simp] theorem State.modCluster_out (c : Nat) (f : Cluster → Cluster) : (s.modCluster c f).out = s.out := rfl
@[simp] theorem State.modCluster_counts (c : Nat) (f : Cluster → Cluster) : (s.modCluster c f).counts = s.counts := rfl
@[simp] theorem State.modCluster_clockHeld (c : Nat) (f : Cluster → Cluster) : (s.modCluster c f).clockHeld = s.clockHeld := rfl
@[simp] theorem State.modCluster_fresh (c : Nat) (f : Cluster → Cluster) : (s.modCluster c f).fresh = s.fresh := rfl

/-! ### modStack -/

@[simp] theorem State.modStack_pending (n : Nat) (f : Stack → Stack) : (s.modStack n f).pending = s.pending := rfl
@[simp] theorem State.modStack_fuses (n : Nat) (f : Stack → Stack) : (s.modStack n f).fuses = s.fuses := rfl
@[simp] theorem State.modStack_flash (n : Nat) (f : Stack → Stack) : (s.modStack n f).flash = s.flash := rfl
@[simp] theorem State.modStack_mgmt (n : Nat) (f : Stack → Stack) : (s.modStack n f).mgmt = s.mgmt := rfl
@[simp] theorem State.modStack_gram (n : Nat) (f : Stack → Stack) : (s.modStack n f).gram = s.gram := rfl
@[simp] theorem State.modStack_pwr (n : Nat) (f : Stack → Stack) : (s.modStack n f).pwr = s.pwr := rfl
@[simp] theorem State.modStack_thm (n : Nat) (f : Stack → Stack) : (s.modStack n f).thm = s.thm := rfl
@[simp] theorem State.modStack_sec (n : Nat) (f : Stack → Stack) : (s.modStack n f).sec = s.sec := rfl
@[simp] theorem State.modStack_srv (n : Nat) (f : Stack → Stack) : (s.modStack n f).srv = s.srv := rfl
@[simp] theorem State.modStack_sched (n : Nat) (f : Stack → Stack) : (s.modStack n f).sched = s.sched := rfl
@[simp] theorem State.modStack_xl (n : Nat) (f : Stack → Stack) : (s.modStack n f).xl = s.xl := rfl
@[simp] theorem State.modStack_fab (n : Nat) (f : Stack → Stack) : (s.modStack n f).fab = s.fab := rfl
@[simp] theorem State.modStack_clusters (n : Nat) (f : Stack → Stack) : (s.modStack n f).clusters = s.clusters := rfl
@[simp] theorem State.modStack_cores (n : Nat) (f : Stack → Stack) : (s.modStack n f).cores = s.cores := rfl
@[simp] theorem State.modStack_sets (n : Nat) (f : Stack → Stack) : (s.modStack n f).sets = s.sets := rfl
@[simp] theorem State.modStack_mem (n : Nat) (f : Stack → Stack) : (s.modStack n f).mem = s.mem := rfl
@[simp] theorem State.modStack_poison (n : Nat) (f : Stack → Stack) : (s.modStack n f).poison = s.poison := rfl
@[simp] theorem State.modStack_upsets (n : Nat) (f : Stack → Stack) : (s.modStack n f).upsets = s.upsets := rfl
@[simp] theorem State.modStack_stuck (n : Nat) (f : Stack → Stack) : (s.modStack n f).stuck = s.stuck := rfl
@[simp] theorem State.modStack_transfers (n : Nat) (f : Stack → Stack) : (s.modStack n f).transfers = s.transfers := rfl
@[simp] theorem State.modStack_recent (n : Nat) (f : Stack → Stack) : (s.modStack n f).recent = s.recent := rfl
@[simp] theorem State.modStack_seqs (n : Nat) (f : Stack → Stack) : (s.modStack n f).seqs = s.seqs := rfl
@[simp] theorem State.modStack_nextSeq (n : Nat) (f : Stack → Stack) : (s.modStack n f).nextSeq = s.nextSeq := rfl
@[simp] theorem State.modStack_answers (n : Nat) (f : Stack → Stack) : (s.modStack n f).answers = s.answers := rfl
@[simp] theorem State.modStack_transit (n : Nat) (f : Stack → Stack) : (s.modStack n f).transit = s.transit := rfl
@[simp] theorem State.modStack_out (n : Nat) (f : Stack → Stack) : (s.modStack n f).out = s.out := rfl
@[simp] theorem State.modStack_counts (n : Nat) (f : Stack → Stack) : (s.modStack n f).counts = s.counts := rfl
@[simp] theorem State.modStack_clockHeld (n : Nat) (f : Stack → Stack) : (s.modStack n f).clockHeld = s.clockHeld := rfl
@[simp] theorem State.modStack_fresh (n : Nat) (f : Stack → Stack) : (s.modStack n f).fresh = s.fresh := rfl

/-! ### modChan -/

@[simp] theorem State.modChan_pending (n ch : Nat) (f : Channel → Channel) : (s.modChan n ch f).pending = s.pending := rfl
@[simp] theorem State.modChan_fuses (n ch : Nat) (f : Channel → Channel) : (s.modChan n ch f).fuses = s.fuses := rfl
@[simp] theorem State.modChan_flash (n ch : Nat) (f : Channel → Channel) : (s.modChan n ch f).flash = s.flash := rfl
@[simp] theorem State.modChan_mgmt (n ch : Nat) (f : Channel → Channel) : (s.modChan n ch f).mgmt = s.mgmt := rfl
@[simp] theorem State.modChan_gram (n ch : Nat) (f : Channel → Channel) : (s.modChan n ch f).gram = s.gram := rfl
@[simp] theorem State.modChan_pwr (n ch : Nat) (f : Channel → Channel) : (s.modChan n ch f).pwr = s.pwr := rfl
@[simp] theorem State.modChan_thm (n ch : Nat) (f : Channel → Channel) : (s.modChan n ch f).thm = s.thm := rfl
@[simp] theorem State.modChan_sec (n ch : Nat) (f : Channel → Channel) : (s.modChan n ch f).sec = s.sec := rfl
@[simp] theorem State.modChan_srv (n ch : Nat) (f : Channel → Channel) : (s.modChan n ch f).srv = s.srv := rfl
@[simp] theorem State.modChan_sched (n ch : Nat) (f : Channel → Channel) : (s.modChan n ch f).sched = s.sched := rfl
@[simp] theorem State.modChan_xl (n ch : Nat) (f : Channel → Channel) : (s.modChan n ch f).xl = s.xl := rfl
@[simp] theorem State.modChan_fab (n ch : Nat) (f : Channel → Channel) : (s.modChan n ch f).fab = s.fab := rfl
@[simp] theorem State.modChan_clusters (n ch : Nat) (f : Channel → Channel) : (s.modChan n ch f).clusters = s.clusters := rfl
@[simp] theorem State.modChan_cores (n ch : Nat) (f : Channel → Channel) : (s.modChan n ch f).cores = s.cores := rfl
@[simp] theorem State.modChan_sets (n ch : Nat) (f : Channel → Channel) : (s.modChan n ch f).sets = s.sets := rfl
@[simp] theorem State.modChan_mem (n ch : Nat) (f : Channel → Channel) : (s.modChan n ch f).mem = s.mem := rfl
@[simp] theorem State.modChan_poison (n ch : Nat) (f : Channel → Channel) : (s.modChan n ch f).poison = s.poison := rfl
@[simp] theorem State.modChan_upsets (n ch : Nat) (f : Channel → Channel) : (s.modChan n ch f).upsets = s.upsets := rfl
@[simp] theorem State.modChan_stuck (n ch : Nat) (f : Channel → Channel) : (s.modChan n ch f).stuck = s.stuck := rfl
@[simp] theorem State.modChan_transfers (n ch : Nat) (f : Channel → Channel) : (s.modChan n ch f).transfers = s.transfers := rfl
@[simp] theorem State.modChan_recent (n ch : Nat) (f : Channel → Channel) : (s.modChan n ch f).recent = s.recent := rfl
@[simp] theorem State.modChan_seqs (n ch : Nat) (f : Channel → Channel) : (s.modChan n ch f).seqs = s.seqs := rfl
@[simp] theorem State.modChan_nextSeq (n ch : Nat) (f : Channel → Channel) : (s.modChan n ch f).nextSeq = s.nextSeq := rfl
@[simp] theorem State.modChan_answers (n ch : Nat) (f : Channel → Channel) : (s.modChan n ch f).answers = s.answers := rfl
@[simp] theorem State.modChan_transit (n ch : Nat) (f : Channel → Channel) : (s.modChan n ch f).transit = s.transit := rfl
@[simp] theorem State.modChan_out (n ch : Nat) (f : Channel → Channel) : (s.modChan n ch f).out = s.out := rfl
@[simp] theorem State.modChan_counts (n ch : Nat) (f : Channel → Channel) : (s.modChan n ch f).counts = s.counts := rfl
@[simp] theorem State.modChan_clockHeld (n ch : Nat) (f : Channel → Channel) : (s.modChan n ch f).clockHeld = s.clockHeld := rfl
@[simp] theorem State.modChan_fresh (n ch : Nat) (f : Channel → Channel) : (s.modChan n ch f).fresh = s.fresh := rfl

/-! ### modPort -/

@[simp] theorem State.modPort_pending (p : Nat) (f : FabPort → FabPort) : (s.modPort p f).pending = s.pending := rfl
@[simp] theorem State.modPort_fuses (p : Nat) (f : FabPort → FabPort) : (s.modPort p f).fuses = s.fuses := rfl
@[simp] theorem State.modPort_flash (p : Nat) (f : FabPort → FabPort) : (s.modPort p f).flash = s.flash := rfl
@[simp] theorem State.modPort_mgmt (p : Nat) (f : FabPort → FabPort) : (s.modPort p f).mgmt = s.mgmt := rfl
@[simp] theorem State.modPort_gram (p : Nat) (f : FabPort → FabPort) : (s.modPort p f).gram = s.gram := rfl
@[simp] theorem State.modPort_pwr (p : Nat) (f : FabPort → FabPort) : (s.modPort p f).pwr = s.pwr := rfl
@[simp] theorem State.modPort_thm (p : Nat) (f : FabPort → FabPort) : (s.modPort p f).thm = s.thm := rfl
@[simp] theorem State.modPort_sec (p : Nat) (f : FabPort → FabPort) : (s.modPort p f).sec = s.sec := rfl
@[simp] theorem State.modPort_srv (p : Nat) (f : FabPort → FabPort) : (s.modPort p f).srv = s.srv := rfl
@[simp] theorem State.modPort_sched (p : Nat) (f : FabPort → FabPort) : (s.modPort p f).sched = s.sched := rfl
@[simp] theorem State.modPort_xl (p : Nat) (f : FabPort → FabPort) : (s.modPort p f).xl = s.xl := rfl
@[simp] theorem State.modPort_stk (p : Nat) (f : FabPort → FabPort) : (s.modPort p f).stk = s.stk := rfl
@[simp] theorem State.modPort_clusters (p : Nat) (f : FabPort → FabPort) : (s.modPort p f).clusters = s.clusters := rfl
@[simp] theorem State.modPort_cores (p : Nat) (f : FabPort → FabPort) : (s.modPort p f).cores = s.cores := rfl
@[simp] theorem State.modPort_sets (p : Nat) (f : FabPort → FabPort) : (s.modPort p f).sets = s.sets := rfl
@[simp] theorem State.modPort_mem (p : Nat) (f : FabPort → FabPort) : (s.modPort p f).mem = s.mem := rfl
@[simp] theorem State.modPort_poison (p : Nat) (f : FabPort → FabPort) : (s.modPort p f).poison = s.poison := rfl
@[simp] theorem State.modPort_upsets (p : Nat) (f : FabPort → FabPort) : (s.modPort p f).upsets = s.upsets := rfl
@[simp] theorem State.modPort_stuck (p : Nat) (f : FabPort → FabPort) : (s.modPort p f).stuck = s.stuck := rfl
@[simp] theorem State.modPort_transfers (p : Nat) (f : FabPort → FabPort) : (s.modPort p f).transfers = s.transfers := rfl
@[simp] theorem State.modPort_recent (p : Nat) (f : FabPort → FabPort) : (s.modPort p f).recent = s.recent := rfl
@[simp] theorem State.modPort_seqs (p : Nat) (f : FabPort → FabPort) : (s.modPort p f).seqs = s.seqs := rfl
@[simp] theorem State.modPort_nextSeq (p : Nat) (f : FabPort → FabPort) : (s.modPort p f).nextSeq = s.nextSeq := rfl
@[simp] theorem State.modPort_answers (p : Nat) (f : FabPort → FabPort) : (s.modPort p f).answers = s.answers := rfl
@[simp] theorem State.modPort_transit (p : Nat) (f : FabPort → FabPort) : (s.modPort p f).transit = s.transit := rfl
@[simp] theorem State.modPort_out (p : Nat) (f : FabPort → FabPort) : (s.modPort p f).out = s.out := rfl
@[simp] theorem State.modPort_counts (p : Nat) (f : FabPort → FabPort) : (s.modPort p f).counts = s.counts := rfl
@[simp] theorem State.modPort_clockHeld (p : Nat) (f : FabPort → FabPort) : (s.modPort p f).clockHeld = s.clockHeld := rfl
@[simp] theorem State.modPort_fresh (p : Nat) (f : FabPort → FabPort) : (s.modPort p f).fresh = s.fresh := rfl

/-! ### modFlow -/

@[simp] theorem State.modFlow_pending (p n : Nat) (f : Flow → Flow) : (s.modFlow p n f).pending = s.pending := rfl
@[simp] theorem State.modFlow_fuses (p n : Nat) (f : Flow → Flow) : (s.modFlow p n f).fuses = s.fuses := rfl
@[simp] theorem State.modFlow_flash (p n : Nat) (f : Flow → Flow) : (s.modFlow p n f).flash = s.flash := rfl
@[simp] theorem State.modFlow_mgmt (p n : Nat) (f : Flow → Flow) : (s.modFlow p n f).mgmt = s.mgmt := rfl
@[simp] theorem State.modFlow_gram (p n : Nat) (f : Flow → Flow) : (s.modFlow p n f).gram = s.gram := rfl
@[simp] theorem State.modFlow_pwr (p n : Nat) (f : Flow → Flow) : (s.modFlow p n f).pwr = s.pwr := rfl
@[simp] theorem State.modFlow_thm (p n : Nat) (f : Flow → Flow) : (s.modFlow p n f).thm = s.thm := rfl
@[simp] theorem State.modFlow_sec (p n : Nat) (f : Flow → Flow) : (s.modFlow p n f).sec = s.sec := rfl
@[simp] theorem State.modFlow_srv (p n : Nat) (f : Flow → Flow) : (s.modFlow p n f).srv = s.srv := rfl
@[simp] theorem State.modFlow_sched (p n : Nat) (f : Flow → Flow) : (s.modFlow p n f).sched = s.sched := rfl
@[simp] theorem State.modFlow_xl (p n : Nat) (f : Flow → Flow) : (s.modFlow p n f).xl = s.xl := rfl
@[simp] theorem State.modFlow_stk (p n : Nat) (f : Flow → Flow) : (s.modFlow p n f).stk = s.stk := rfl
@[simp] theorem State.modFlow_clusters (p n : Nat) (f : Flow → Flow) : (s.modFlow p n f).clusters = s.clusters := rfl
@[simp] theorem State.modFlow_cores (p n : Nat) (f : Flow → Flow) : (s.modFlow p n f).cores = s.cores := rfl
@[simp] theorem State.modFlow_sets (p n : Nat) (f : Flow → Flow) : (s.modFlow p n f).sets = s.sets := rfl
@[simp] theorem State.modFlow_mem (p n : Nat) (f : Flow → Flow) : (s.modFlow p n f).mem = s.mem := rfl
@[simp] theorem State.modFlow_poison (p n : Nat) (f : Flow → Flow) : (s.modFlow p n f).poison = s.poison := rfl
@[simp] theorem State.modFlow_upsets (p n : Nat) (f : Flow → Flow) : (s.modFlow p n f).upsets = s.upsets := rfl
@[simp] theorem State.modFlow_stuck (p n : Nat) (f : Flow → Flow) : (s.modFlow p n f).stuck = s.stuck := rfl
@[simp] theorem State.modFlow_transfers (p n : Nat) (f : Flow → Flow) : (s.modFlow p n f).transfers = s.transfers := rfl
@[simp] theorem State.modFlow_recent (p n : Nat) (f : Flow → Flow) : (s.modFlow p n f).recent = s.recent := rfl
@[simp] theorem State.modFlow_seqs (p n : Nat) (f : Flow → Flow) : (s.modFlow p n f).seqs = s.seqs := rfl
@[simp] theorem State.modFlow_nextSeq (p n : Nat) (f : Flow → Flow) : (s.modFlow p n f).nextSeq = s.nextSeq := rfl
@[simp] theorem State.modFlow_answers (p n : Nat) (f : Flow → Flow) : (s.modFlow p n f).answers = s.answers := rfl
@[simp] theorem State.modFlow_transit (p n : Nat) (f : Flow → Flow) : (s.modFlow p n f).transit = s.transit := rfl
@[simp] theorem State.modFlow_out (p n : Nat) (f : Flow → Flow) : (s.modFlow p n f).out = s.out := rfl
@[simp] theorem State.modFlow_counts (p n : Nat) (f : Flow → Flow) : (s.modFlow p n f).counts = s.counts := rfl
@[simp] theorem State.modFlow_clockHeld (p n : Nat) (f : Flow → Flow) : (s.modFlow p n f).clockHeld = s.clockHeld := rfl
@[simp] theorem State.modFlow_fresh (p n : Nat) (f : Flow → Flow) : (s.modFlow p n f).fresh = s.fresh := rfl

/-! ### modPsrv -/

@[simp] theorem State.modPsrv_pending (p : Nat) (f : PartSrv → PartSrv) : (s.modPsrv p f).pending = s.pending := rfl
@[simp] theorem State.modPsrv_fuses (p : Nat) (f : PartSrv → PartSrv) : (s.modPsrv p f).fuses = s.fuses := rfl
@[simp] theorem State.modPsrv_flash (p : Nat) (f : PartSrv → PartSrv) : (s.modPsrv p f).flash = s.flash := rfl
@[simp] theorem State.modPsrv_mgmt (p : Nat) (f : PartSrv → PartSrv) : (s.modPsrv p f).mgmt = s.mgmt := rfl
@[simp] theorem State.modPsrv_gram (p : Nat) (f : PartSrv → PartSrv) : (s.modPsrv p f).gram = s.gram := rfl
@[simp] theorem State.modPsrv_pwr (p : Nat) (f : PartSrv → PartSrv) : (s.modPsrv p f).pwr = s.pwr := rfl
@[simp] theorem State.modPsrv_thm (p : Nat) (f : PartSrv → PartSrv) : (s.modPsrv p f).thm = s.thm := rfl
@[simp] theorem State.modPsrv_sec (p : Nat) (f : PartSrv → PartSrv) : (s.modPsrv p f).sec = s.sec := rfl
@[simp] theorem State.modPsrv_sched (p : Nat) (f : PartSrv → PartSrv) : (s.modPsrv p f).sched = s.sched := rfl
@[simp] theorem State.modPsrv_xl (p : Nat) (f : PartSrv → PartSrv) : (s.modPsrv p f).xl = s.xl := rfl
@[simp] theorem State.modPsrv_fab (p : Nat) (f : PartSrv → PartSrv) : (s.modPsrv p f).fab = s.fab := rfl
@[simp] theorem State.modPsrv_stk (p : Nat) (f : PartSrv → PartSrv) : (s.modPsrv p f).stk = s.stk := rfl
@[simp] theorem State.modPsrv_clusters (p : Nat) (f : PartSrv → PartSrv) : (s.modPsrv p f).clusters = s.clusters := rfl
@[simp] theorem State.modPsrv_cores (p : Nat) (f : PartSrv → PartSrv) : (s.modPsrv p f).cores = s.cores := rfl
@[simp] theorem State.modPsrv_sets (p : Nat) (f : PartSrv → PartSrv) : (s.modPsrv p f).sets = s.sets := rfl
@[simp] theorem State.modPsrv_mem (p : Nat) (f : PartSrv → PartSrv) : (s.modPsrv p f).mem = s.mem := rfl
@[simp] theorem State.modPsrv_poison (p : Nat) (f : PartSrv → PartSrv) : (s.modPsrv p f).poison = s.poison := rfl
@[simp] theorem State.modPsrv_upsets (p : Nat) (f : PartSrv → PartSrv) : (s.modPsrv p f).upsets = s.upsets := rfl
@[simp] theorem State.modPsrv_stuck (p : Nat) (f : PartSrv → PartSrv) : (s.modPsrv p f).stuck = s.stuck := rfl
@[simp] theorem State.modPsrv_transfers (p : Nat) (f : PartSrv → PartSrv) : (s.modPsrv p f).transfers = s.transfers := rfl
@[simp] theorem State.modPsrv_recent (p : Nat) (f : PartSrv → PartSrv) : (s.modPsrv p f).recent = s.recent := rfl
@[simp] theorem State.modPsrv_seqs (p : Nat) (f : PartSrv → PartSrv) : (s.modPsrv p f).seqs = s.seqs := rfl
@[simp] theorem State.modPsrv_nextSeq (p : Nat) (f : PartSrv → PartSrv) : (s.modPsrv p f).nextSeq = s.nextSeq := rfl
@[simp] theorem State.modPsrv_answers (p : Nat) (f : PartSrv → PartSrv) : (s.modPsrv p f).answers = s.answers := rfl
@[simp] theorem State.modPsrv_transit (p : Nat) (f : PartSrv → PartSrv) : (s.modPsrv p f).transit = s.transit := rfl
@[simp] theorem State.modPsrv_out (p : Nat) (f : PartSrv → PartSrv) : (s.modPsrv p f).out = s.out := rfl
@[simp] theorem State.modPsrv_counts (p : Nat) (f : PartSrv → PartSrv) : (s.modPsrv p f).counts = s.counts := rfl
@[simp] theorem State.modPsrv_clockHeld (p : Nat) (f : PartSrv → PartSrv) : (s.modPsrv p f).clockHeld = s.clockHeld := rfl
@[simp] theorem State.modPsrv_fresh (p : Nat) (f : PartSrv → PartSrv) : (s.modPsrv p f).fresh = s.fresh := rfl

/-! ### modPsched -/

@[simp] theorem State.modPsched_pending (p : Nat) (f : PartSched → PartSched) : (s.modPsched p f).pending = s.pending := rfl
@[simp] theorem State.modPsched_fuses (p : Nat) (f : PartSched → PartSched) : (s.modPsched p f).fuses = s.fuses := rfl
@[simp] theorem State.modPsched_flash (p : Nat) (f : PartSched → PartSched) : (s.modPsched p f).flash = s.flash := rfl
@[simp] theorem State.modPsched_mgmt (p : Nat) (f : PartSched → PartSched) : (s.modPsched p f).mgmt = s.mgmt := rfl
@[simp] theorem State.modPsched_gram (p : Nat) (f : PartSched → PartSched) : (s.modPsched p f).gram = s.gram := rfl
@[simp] theorem State.modPsched_pwr (p : Nat) (f : PartSched → PartSched) : (s.modPsched p f).pwr = s.pwr := rfl
@[simp] theorem State.modPsched_thm (p : Nat) (f : PartSched → PartSched) : (s.modPsched p f).thm = s.thm := rfl
@[simp] theorem State.modPsched_sec (p : Nat) (f : PartSched → PartSched) : (s.modPsched p f).sec = s.sec := rfl
@[simp] theorem State.modPsched_srv (p : Nat) (f : PartSched → PartSched) : (s.modPsched p f).srv = s.srv := rfl
@[simp] theorem State.modPsched_xl (p : Nat) (f : PartSched → PartSched) : (s.modPsched p f).xl = s.xl := rfl
@[simp] theorem State.modPsched_fab (p : Nat) (f : PartSched → PartSched) : (s.modPsched p f).fab = s.fab := rfl
@[simp] theorem State.modPsched_stk (p : Nat) (f : PartSched → PartSched) : (s.modPsched p f).stk = s.stk := rfl
@[simp] theorem State.modPsched_clusters (p : Nat) (f : PartSched → PartSched) : (s.modPsched p f).clusters = s.clusters := rfl
@[simp] theorem State.modPsched_cores (p : Nat) (f : PartSched → PartSched) : (s.modPsched p f).cores = s.cores := rfl
@[simp] theorem State.modPsched_sets (p : Nat) (f : PartSched → PartSched) : (s.modPsched p f).sets = s.sets := rfl
@[simp] theorem State.modPsched_mem (p : Nat) (f : PartSched → PartSched) : (s.modPsched p f).mem = s.mem := rfl
@[simp] theorem State.modPsched_poison (p : Nat) (f : PartSched → PartSched) : (s.modPsched p f).poison = s.poison := rfl
@[simp] theorem State.modPsched_upsets (p : Nat) (f : PartSched → PartSched) : (s.modPsched p f).upsets = s.upsets := rfl
@[simp] theorem State.modPsched_stuck (p : Nat) (f : PartSched → PartSched) : (s.modPsched p f).stuck = s.stuck := rfl
@[simp] theorem State.modPsched_transfers (p : Nat) (f : PartSched → PartSched) : (s.modPsched p f).transfers = s.transfers := rfl
@[simp] theorem State.modPsched_recent (p : Nat) (f : PartSched → PartSched) : (s.modPsched p f).recent = s.recent := rfl
@[simp] theorem State.modPsched_seqs (p : Nat) (f : PartSched → PartSched) : (s.modPsched p f).seqs = s.seqs := rfl
@[simp] theorem State.modPsched_nextSeq (p : Nat) (f : PartSched → PartSched) : (s.modPsched p f).nextSeq = s.nextSeq := rfl
@[simp] theorem State.modPsched_answers (p : Nat) (f : PartSched → PartSched) : (s.modPsched p f).answers = s.answers := rfl
@[simp] theorem State.modPsched_transit (p : Nat) (f : PartSched → PartSched) : (s.modPsched p f).transit = s.transit := rfl
@[simp] theorem State.modPsched_out (p : Nat) (f : PartSched → PartSched) : (s.modPsched p f).out = s.out := rfl
@[simp] theorem State.modPsched_counts (p : Nat) (f : PartSched → PartSched) : (s.modPsched p f).counts = s.counts := rfl
@[simp] theorem State.modPsched_clockHeld (p : Nat) (f : PartSched → PartSched) : (s.modPsched p f).clockHeld = s.clockHeld := rfl
@[simp] theorem State.modPsched_fresh (p : Nat) (f : PartSched → PartSched) : (s.modPsched p f).fresh = s.fresh := rfl

/-! ### modRing -/

@[simp] theorem State.modRing_pending (r : Nat) (f : Ring → Ring) : (s.modRing r f).pending = s.pending := rfl
@[simp] theorem State.modRing_fuses (r : Nat) (f : Ring → Ring) : (s.modRing r f).fuses = s.fuses := rfl
@[simp] theorem State.modRing_flash (r : Nat) (f : Ring → Ring) : (s.modRing r f).flash = s.flash := rfl
@[simp] theorem State.modRing_gram (r : Nat) (f : Ring → Ring) : (s.modRing r f).gram = s.gram := rfl
@[simp] theorem State.modRing_pwr (r : Nat) (f : Ring → Ring) : (s.modRing r f).pwr = s.pwr := rfl
@[simp] theorem State.modRing_thm (r : Nat) (f : Ring → Ring) : (s.modRing r f).thm = s.thm := rfl
@[simp] theorem State.modRing_sec (r : Nat) (f : Ring → Ring) : (s.modRing r f).sec = s.sec := rfl
@[simp] theorem State.modRing_srv (r : Nat) (f : Ring → Ring) : (s.modRing r f).srv = s.srv := rfl
@[simp] theorem State.modRing_sched (r : Nat) (f : Ring → Ring) : (s.modRing r f).sched = s.sched := rfl
@[simp] theorem State.modRing_xl (r : Nat) (f : Ring → Ring) : (s.modRing r f).xl = s.xl := rfl
@[simp] theorem State.modRing_fab (r : Nat) (f : Ring → Ring) : (s.modRing r f).fab = s.fab := rfl
@[simp] theorem State.modRing_stk (r : Nat) (f : Ring → Ring) : (s.modRing r f).stk = s.stk := rfl
@[simp] theorem State.modRing_clusters (r : Nat) (f : Ring → Ring) : (s.modRing r f).clusters = s.clusters := rfl
@[simp] theorem State.modRing_cores (r : Nat) (f : Ring → Ring) : (s.modRing r f).cores = s.cores := rfl
@[simp] theorem State.modRing_sets (r : Nat) (f : Ring → Ring) : (s.modRing r f).sets = s.sets := rfl
@[simp] theorem State.modRing_mem (r : Nat) (f : Ring → Ring) : (s.modRing r f).mem = s.mem := rfl
@[simp] theorem State.modRing_poison (r : Nat) (f : Ring → Ring) : (s.modRing r f).poison = s.poison := rfl
@[simp] theorem State.modRing_upsets (r : Nat) (f : Ring → Ring) : (s.modRing r f).upsets = s.upsets := rfl
@[simp] theorem State.modRing_stuck (r : Nat) (f : Ring → Ring) : (s.modRing r f).stuck = s.stuck := rfl
@[simp] theorem State.modRing_transfers (r : Nat) (f : Ring → Ring) : (s.modRing r f).transfers = s.transfers := rfl
@[simp] theorem State.modRing_recent (r : Nat) (f : Ring → Ring) : (s.modRing r f).recent = s.recent := rfl
@[simp] theorem State.modRing_seqs (r : Nat) (f : Ring → Ring) : (s.modRing r f).seqs = s.seqs := rfl
@[simp] theorem State.modRing_nextSeq (r : Nat) (f : Ring → Ring) : (s.modRing r f).nextSeq = s.nextSeq := rfl
@[simp] theorem State.modRing_answers (r : Nat) (f : Ring → Ring) : (s.modRing r f).answers = s.answers := rfl
@[simp] theorem State.modRing_transit (r : Nat) (f : Ring → Ring) : (s.modRing r f).transit = s.transit := rfl
@[simp] theorem State.modRing_out (r : Nat) (f : Ring → Ring) : (s.modRing r f).out = s.out := rfl
@[simp] theorem State.modRing_counts (r : Nat) (f : Ring → Ring) : (s.modRing r f).counts = s.counts := rfl
@[simp] theorem State.modRing_clockHeld (r : Nat) (f : Ring → Ring) : (s.modRing r f).clockHeld = s.clockHeld := rfl
@[simp] theorem State.modRing_fresh (r : Nat) (f : Ring → Ring) : (s.modRing r f).fresh = s.fresh := rfl

/-! ### modVec -/

@[simp] theorem State.modVec_pending (v : Nat) (f : Vec → Vec) : (s.modVec v f).pending = s.pending := rfl
@[simp] theorem State.modVec_fuses (v : Nat) (f : Vec → Vec) : (s.modVec v f).fuses = s.fuses := rfl
@[simp] theorem State.modVec_flash (v : Nat) (f : Vec → Vec) : (s.modVec v f).flash = s.flash := rfl
@[simp] theorem State.modVec_gram (v : Nat) (f : Vec → Vec) : (s.modVec v f).gram = s.gram := rfl
@[simp] theorem State.modVec_pwr (v : Nat) (f : Vec → Vec) : (s.modVec v f).pwr = s.pwr := rfl
@[simp] theorem State.modVec_thm (v : Nat) (f : Vec → Vec) : (s.modVec v f).thm = s.thm := rfl
@[simp] theorem State.modVec_sec (v : Nat) (f : Vec → Vec) : (s.modVec v f).sec = s.sec := rfl
@[simp] theorem State.modVec_srv (v : Nat) (f : Vec → Vec) : (s.modVec v f).srv = s.srv := rfl
@[simp] theorem State.modVec_sched (v : Nat) (f : Vec → Vec) : (s.modVec v f).sched = s.sched := rfl
@[simp] theorem State.modVec_xl (v : Nat) (f : Vec → Vec) : (s.modVec v f).xl = s.xl := rfl
@[simp] theorem State.modVec_fab (v : Nat) (f : Vec → Vec) : (s.modVec v f).fab = s.fab := rfl
@[simp] theorem State.modVec_stk (v : Nat) (f : Vec → Vec) : (s.modVec v f).stk = s.stk := rfl
@[simp] theorem State.modVec_clusters (v : Nat) (f : Vec → Vec) : (s.modVec v f).clusters = s.clusters := rfl
@[simp] theorem State.modVec_cores (v : Nat) (f : Vec → Vec) : (s.modVec v f).cores = s.cores := rfl
@[simp] theorem State.modVec_sets (v : Nat) (f : Vec → Vec) : (s.modVec v f).sets = s.sets := rfl
@[simp] theorem State.modVec_mem (v : Nat) (f : Vec → Vec) : (s.modVec v f).mem = s.mem := rfl
@[simp] theorem State.modVec_poison (v : Nat) (f : Vec → Vec) : (s.modVec v f).poison = s.poison := rfl
@[simp] theorem State.modVec_upsets (v : Nat) (f : Vec → Vec) : (s.modVec v f).upsets = s.upsets := rfl
@[simp] theorem State.modVec_stuck (v : Nat) (f : Vec → Vec) : (s.modVec v f).stuck = s.stuck := rfl
@[simp] theorem State.modVec_transfers (v : Nat) (f : Vec → Vec) : (s.modVec v f).transfers = s.transfers := rfl
@[simp] theorem State.modVec_recent (v : Nat) (f : Vec → Vec) : (s.modVec v f).recent = s.recent := rfl
@[simp] theorem State.modVec_seqs (v : Nat) (f : Vec → Vec) : (s.modVec v f).seqs = s.seqs := rfl
@[simp] theorem State.modVec_nextSeq (v : Nat) (f : Vec → Vec) : (s.modVec v f).nextSeq = s.nextSeq := rfl
@[simp] theorem State.modVec_answers (v : Nat) (f : Vec → Vec) : (s.modVec v f).answers = s.answers := rfl
@[simp] theorem State.modVec_transit (v : Nat) (f : Vec → Vec) : (s.modVec v f).transit = s.transit := rfl
@[simp] theorem State.modVec_out (v : Nat) (f : Vec → Vec) : (s.modVec v f).out = s.out := rfl
@[simp] theorem State.modVec_counts (v : Nat) (f : Vec → Vec) : (s.modVec v f).counts = s.counts := rfl
@[simp] theorem State.modVec_clockHeld (v : Nat) (f : Vec → Vec) : (s.modVec v f).clockHeld = s.clockHeld := rfl
@[simp] theorem State.modVec_fresh (v : Nat) (f : Vec → Vec) : (s.modVec v f).fresh = s.fresh := rfl

/-! ### modMc -/

@[simp] theorem State.modMc_pending (e : Nat) (f : McEntry → McEntry) : (s.modMc e f).pending = s.pending := rfl
@[simp] theorem State.modMc_fuses (e : Nat) (f : McEntry → McEntry) : (s.modMc e f).fuses = s.fuses := rfl
@[simp] theorem State.modMc_flash (e : Nat) (f : McEntry → McEntry) : (s.modMc e f).flash = s.flash := rfl
@[simp] theorem State.modMc_mgmt (e : Nat) (f : McEntry → McEntry) : (s.modMc e f).mgmt = s.mgmt := rfl
@[simp] theorem State.modMc_gram (e : Nat) (f : McEntry → McEntry) : (s.modMc e f).gram = s.gram := rfl
@[simp] theorem State.modMc_pwr (e : Nat) (f : McEntry → McEntry) : (s.modMc e f).pwr = s.pwr := rfl
@[simp] theorem State.modMc_thm (e : Nat) (f : McEntry → McEntry) : (s.modMc e f).thm = s.thm := rfl
@[simp] theorem State.modMc_sec (e : Nat) (f : McEntry → McEntry) : (s.modMc e f).sec = s.sec := rfl
@[simp] theorem State.modMc_srv (e : Nat) (f : McEntry → McEntry) : (s.modMc e f).srv = s.srv := rfl
@[simp] theorem State.modMc_xl (e : Nat) (f : McEntry → McEntry) : (s.modMc e f).xl = s.xl := rfl
@[simp] theorem State.modMc_fab (e : Nat) (f : McEntry → McEntry) : (s.modMc e f).fab = s.fab := rfl
@[simp] theorem State.modMc_stk (e : Nat) (f : McEntry → McEntry) : (s.modMc e f).stk = s.stk := rfl
@[simp] theorem State.modMc_clusters (e : Nat) (f : McEntry → McEntry) : (s.modMc e f).clusters = s.clusters := rfl
@[simp] theorem State.modMc_cores (e : Nat) (f : McEntry → McEntry) : (s.modMc e f).cores = s.cores := rfl
@[simp] theorem State.modMc_sets (e : Nat) (f : McEntry → McEntry) : (s.modMc e f).sets = s.sets := rfl
@[simp] theorem State.modMc_mem (e : Nat) (f : McEntry → McEntry) : (s.modMc e f).mem = s.mem := rfl
@[simp] theorem State.modMc_poison (e : Nat) (f : McEntry → McEntry) : (s.modMc e f).poison = s.poison := rfl
@[simp] theorem State.modMc_upsets (e : Nat) (f : McEntry → McEntry) : (s.modMc e f).upsets = s.upsets := rfl
@[simp] theorem State.modMc_stuck (e : Nat) (f : McEntry → McEntry) : (s.modMc e f).stuck = s.stuck := rfl
@[simp] theorem State.modMc_transfers (e : Nat) (f : McEntry → McEntry) : (s.modMc e f).transfers = s.transfers := rfl
@[simp] theorem State.modMc_recent (e : Nat) (f : McEntry → McEntry) : (s.modMc e f).recent = s.recent := rfl
@[simp] theorem State.modMc_seqs (e : Nat) (f : McEntry → McEntry) : (s.modMc e f).seqs = s.seqs := rfl
@[simp] theorem State.modMc_nextSeq (e : Nat) (f : McEntry → McEntry) : (s.modMc e f).nextSeq = s.nextSeq := rfl
@[simp] theorem State.modMc_answers (e : Nat) (f : McEntry → McEntry) : (s.modMc e f).answers = s.answers := rfl
@[simp] theorem State.modMc_transit (e : Nat) (f : McEntry → McEntry) : (s.modMc e f).transit = s.transit := rfl
@[simp] theorem State.modMc_out (e : Nat) (f : McEntry → McEntry) : (s.modMc e f).out = s.out := rfl
@[simp] theorem State.modMc_counts (e : Nat) (f : McEntry → McEntry) : (s.modMc e f).counts = s.counts := rfl
@[simp] theorem State.modMc_clockHeld (e : Nat) (f : McEntry → McEntry) : (s.modMc e f).clockHeld = s.clockHeld := rfl
@[simp] theorem State.modMc_fresh (e : Nat) (f : McEntry → McEntry) : (s.modMc e f).fresh = s.fresh := rfl

/-! ### modSeq -/

@[simp] theorem State.modSeq_pending (i : Nat) (f : Machine.Seq → Machine.Seq) : (s.modSeq i f).pending = s.pending := rfl
@[simp] theorem State.modSeq_fuses (i : Nat) (f : Machine.Seq → Machine.Seq) : (s.modSeq i f).fuses = s.fuses := rfl
@[simp] theorem State.modSeq_flash (i : Nat) (f : Machine.Seq → Machine.Seq) : (s.modSeq i f).flash = s.flash := rfl
@[simp] theorem State.modSeq_mgmt (i : Nat) (f : Machine.Seq → Machine.Seq) : (s.modSeq i f).mgmt = s.mgmt := rfl
@[simp] theorem State.modSeq_gram (i : Nat) (f : Machine.Seq → Machine.Seq) : (s.modSeq i f).gram = s.gram := rfl
@[simp] theorem State.modSeq_pwr (i : Nat) (f : Machine.Seq → Machine.Seq) : (s.modSeq i f).pwr = s.pwr := rfl
@[simp] theorem State.modSeq_thm (i : Nat) (f : Machine.Seq → Machine.Seq) : (s.modSeq i f).thm = s.thm := rfl
@[simp] theorem State.modSeq_sec (i : Nat) (f : Machine.Seq → Machine.Seq) : (s.modSeq i f).sec = s.sec := rfl
@[simp] theorem State.modSeq_srv (i : Nat) (f : Machine.Seq → Machine.Seq) : (s.modSeq i f).srv = s.srv := rfl
@[simp] theorem State.modSeq_sched (i : Nat) (f : Machine.Seq → Machine.Seq) : (s.modSeq i f).sched = s.sched := rfl
@[simp] theorem State.modSeq_xl (i : Nat) (f : Machine.Seq → Machine.Seq) : (s.modSeq i f).xl = s.xl := rfl
@[simp] theorem State.modSeq_fab (i : Nat) (f : Machine.Seq → Machine.Seq) : (s.modSeq i f).fab = s.fab := rfl
@[simp] theorem State.modSeq_stk (i : Nat) (f : Machine.Seq → Machine.Seq) : (s.modSeq i f).stk = s.stk := rfl
@[simp] theorem State.modSeq_clusters (i : Nat) (f : Machine.Seq → Machine.Seq) : (s.modSeq i f).clusters = s.clusters := rfl
@[simp] theorem State.modSeq_cores (i : Nat) (f : Machine.Seq → Machine.Seq) : (s.modSeq i f).cores = s.cores := rfl
@[simp] theorem State.modSeq_sets (i : Nat) (f : Machine.Seq → Machine.Seq) : (s.modSeq i f).sets = s.sets := rfl
@[simp] theorem State.modSeq_mem (i : Nat) (f : Machine.Seq → Machine.Seq) : (s.modSeq i f).mem = s.mem := rfl
@[simp] theorem State.modSeq_poison (i : Nat) (f : Machine.Seq → Machine.Seq) : (s.modSeq i f).poison = s.poison := rfl
@[simp] theorem State.modSeq_upsets (i : Nat) (f : Machine.Seq → Machine.Seq) : (s.modSeq i f).upsets = s.upsets := rfl
@[simp] theorem State.modSeq_stuck (i : Nat) (f : Machine.Seq → Machine.Seq) : (s.modSeq i f).stuck = s.stuck := rfl
@[simp] theorem State.modSeq_transfers (i : Nat) (f : Machine.Seq → Machine.Seq) : (s.modSeq i f).transfers = s.transfers := rfl
@[simp] theorem State.modSeq_recent (i : Nat) (f : Machine.Seq → Machine.Seq) : (s.modSeq i f).recent = s.recent := rfl
@[simp] theorem State.modSeq_nextSeq (i : Nat) (f : Machine.Seq → Machine.Seq) : (s.modSeq i f).nextSeq = s.nextSeq := rfl
@[simp] theorem State.modSeq_answers (i : Nat) (f : Machine.Seq → Machine.Seq) : (s.modSeq i f).answers = s.answers := rfl
@[simp] theorem State.modSeq_transit (i : Nat) (f : Machine.Seq → Machine.Seq) : (s.modSeq i f).transit = s.transit := rfl
@[simp] theorem State.modSeq_out (i : Nat) (f : Machine.Seq → Machine.Seq) : (s.modSeq i f).out = s.out := rfl
@[simp] theorem State.modSeq_counts (i : Nat) (f : Machine.Seq → Machine.Seq) : (s.modSeq i f).counts = s.counts := rfl
@[simp] theorem State.modSeq_clockHeld (i : Nat) (f : Machine.Seq → Machine.Seq) : (s.modSeq i f).clockHeld = s.clockHeld := rfl
@[simp] theorem State.modSeq_fresh (i : Nat) (f : Machine.Seq → Machine.Seq) : (s.modSeq i f).fresh = s.fresh := rfl

/-! ### modMgmt -/

@[simp] theorem State.modMgmt_pending (f : Mgmt → Mgmt) : (s.modMgmt f).pending = s.pending := rfl
@[simp] theorem State.modMgmt_fuses (f : Mgmt → Mgmt) : (s.modMgmt f).fuses = s.fuses := rfl
@[simp] theorem State.modMgmt_flash (f : Mgmt → Mgmt) : (s.modMgmt f).flash = s.flash := rfl
@[simp] theorem State.modMgmt_mgmt (f : Mgmt → Mgmt) : (s.modMgmt f).mgmt = f s.mgmt := rfl
@[simp] theorem State.modMgmt_gram (f : Mgmt → Mgmt) : (s.modMgmt f).gram = s.gram := rfl
@[simp] theorem State.modMgmt_pwr (f : Mgmt → Mgmt) : (s.modMgmt f).pwr = s.pwr := rfl
@[simp] theorem State.modMgmt_thm (f : Mgmt → Mgmt) : (s.modMgmt f).thm = s.thm := rfl
@[simp] theorem State.modMgmt_sec (f : Mgmt → Mgmt) : (s.modMgmt f).sec = s.sec := rfl
@[simp] theorem State.modMgmt_srv (f : Mgmt → Mgmt) : (s.modMgmt f).srv = s.srv := rfl
@[simp] theorem State.modMgmt_sched (f : Mgmt → Mgmt) : (s.modMgmt f).sched = s.sched := rfl
@[simp] theorem State.modMgmt_xl (f : Mgmt → Mgmt) : (s.modMgmt f).xl = s.xl := rfl
@[simp] theorem State.modMgmt_fab (f : Mgmt → Mgmt) : (s.modMgmt f).fab = s.fab := rfl
@[simp] theorem State.modMgmt_stk (f : Mgmt → Mgmt) : (s.modMgmt f).stk = s.stk := rfl
@[simp] theorem State.modMgmt_clusters (f : Mgmt → Mgmt) : (s.modMgmt f).clusters = s.clusters := rfl
@[simp] theorem State.modMgmt_cores (f : Mgmt → Mgmt) : (s.modMgmt f).cores = s.cores := rfl
@[simp] theorem State.modMgmt_sets (f : Mgmt → Mgmt) : (s.modMgmt f).sets = s.sets := rfl
@[simp] theorem State.modMgmt_mem (f : Mgmt → Mgmt) : (s.modMgmt f).mem = s.mem := rfl
@[simp] theorem State.modMgmt_poison (f : Mgmt → Mgmt) : (s.modMgmt f).poison = s.poison := rfl
@[simp] theorem State.modMgmt_upsets (f : Mgmt → Mgmt) : (s.modMgmt f).upsets = s.upsets := rfl
@[simp] theorem State.modMgmt_stuck (f : Mgmt → Mgmt) : (s.modMgmt f).stuck = s.stuck := rfl
@[simp] theorem State.modMgmt_transfers (f : Mgmt → Mgmt) : (s.modMgmt f).transfers = s.transfers := rfl
@[simp] theorem State.modMgmt_recent (f : Mgmt → Mgmt) : (s.modMgmt f).recent = s.recent := rfl
@[simp] theorem State.modMgmt_seqs (f : Mgmt → Mgmt) : (s.modMgmt f).seqs = s.seqs := rfl
@[simp] theorem State.modMgmt_nextSeq (f : Mgmt → Mgmt) : (s.modMgmt f).nextSeq = s.nextSeq := rfl
@[simp] theorem State.modMgmt_answers (f : Mgmt → Mgmt) : (s.modMgmt f).answers = s.answers := rfl
@[simp] theorem State.modMgmt_transit (f : Mgmt → Mgmt) : (s.modMgmt f).transit = s.transit := rfl
@[simp] theorem State.modMgmt_out (f : Mgmt → Mgmt) : (s.modMgmt f).out = s.out := rfl
@[simp] theorem State.modMgmt_counts (f : Mgmt → Mgmt) : (s.modMgmt f).counts = s.counts := rfl
@[simp] theorem State.modMgmt_clockHeld (f : Mgmt → Mgmt) : (s.modMgmt f).clockHeld = s.clockHeld := rfl
@[simp] theorem State.modMgmt_fresh (f : Mgmt → Mgmt) : (s.modMgmt f).fresh = s.fresh := rfl

/-! ### modXl -/

@[simp] theorem State.modXl_pending (f : Xl → Xl) : (s.modXl f).pending = s.pending := rfl
@[simp] theorem State.modXl_fuses (f : Xl → Xl) : (s.modXl f).fuses = s.fuses := rfl
@[simp] theorem State.modXl_flash (f : Xl → Xl) : (s.modXl f).flash = s.flash := rfl
@[simp] theorem State.modXl_mgmt (f : Xl → Xl) : (s.modXl f).mgmt = s.mgmt := rfl
@[simp] theorem State.modXl_gram (f : Xl → Xl) : (s.modXl f).gram = s.gram := rfl
@[simp] theorem State.modXl_pwr (f : Xl → Xl) : (s.modXl f).pwr = s.pwr := rfl
@[simp] theorem State.modXl_thm (f : Xl → Xl) : (s.modXl f).thm = s.thm := rfl
@[simp] theorem State.modXl_sec (f : Xl → Xl) : (s.modXl f).sec = s.sec := rfl
@[simp] theorem State.modXl_srv (f : Xl → Xl) : (s.modXl f).srv = s.srv := rfl
@[simp] theorem State.modXl_sched (f : Xl → Xl) : (s.modXl f).sched = s.sched := rfl
@[simp] theorem State.modXl_xl (f : Xl → Xl) : (s.modXl f).xl = f s.xl := rfl
@[simp] theorem State.modXl_fab (f : Xl → Xl) : (s.modXl f).fab = s.fab := rfl
@[simp] theorem State.modXl_stk (f : Xl → Xl) : (s.modXl f).stk = s.stk := rfl
@[simp] theorem State.modXl_clusters (f : Xl → Xl) : (s.modXl f).clusters = s.clusters := rfl
@[simp] theorem State.modXl_cores (f : Xl → Xl) : (s.modXl f).cores = s.cores := rfl
@[simp] theorem State.modXl_sets (f : Xl → Xl) : (s.modXl f).sets = s.sets := rfl
@[simp] theorem State.modXl_mem (f : Xl → Xl) : (s.modXl f).mem = s.mem := rfl
@[simp] theorem State.modXl_poison (f : Xl → Xl) : (s.modXl f).poison = s.poison := rfl
@[simp] theorem State.modXl_upsets (f : Xl → Xl) : (s.modXl f).upsets = s.upsets := rfl
@[simp] theorem State.modXl_stuck (f : Xl → Xl) : (s.modXl f).stuck = s.stuck := rfl
@[simp] theorem State.modXl_transfers (f : Xl → Xl) : (s.modXl f).transfers = s.transfers := rfl
@[simp] theorem State.modXl_recent (f : Xl → Xl) : (s.modXl f).recent = s.recent := rfl
@[simp] theorem State.modXl_seqs (f : Xl → Xl) : (s.modXl f).seqs = s.seqs := rfl
@[simp] theorem State.modXl_nextSeq (f : Xl → Xl) : (s.modXl f).nextSeq = s.nextSeq := rfl
@[simp] theorem State.modXl_answers (f : Xl → Xl) : (s.modXl f).answers = s.answers := rfl
@[simp] theorem State.modXl_transit (f : Xl → Xl) : (s.modXl f).transit = s.transit := rfl
@[simp] theorem State.modXl_out (f : Xl → Xl) : (s.modXl f).out = s.out := rfl
@[simp] theorem State.modXl_counts (f : Xl → Xl) : (s.modXl f).counts = s.counts := rfl
@[simp] theorem State.modXl_clockHeld (f : Xl → Xl) : (s.modXl f).clockHeld = s.clockHeld := rfl
@[simp] theorem State.modXl_fresh (f : Xl → Xl) : (s.modXl f).fresh = s.fresh := rfl

/-! ### modGram -/

@[simp] theorem State.modGram_pending (f : Gram → Gram) : (s.modGram f).pending = s.pending := rfl
@[simp] theorem State.modGram_fuses (f : Gram → Gram) : (s.modGram f).fuses = s.fuses := rfl
@[simp] theorem State.modGram_flash (f : Gram → Gram) : (s.modGram f).flash = s.flash := rfl
@[simp] theorem State.modGram_mgmt (f : Gram → Gram) : (s.modGram f).mgmt = s.mgmt := rfl
@[simp] theorem State.modGram_gram (f : Gram → Gram) : (s.modGram f).gram = f s.gram := rfl
@[simp] theorem State.modGram_pwr (f : Gram → Gram) : (s.modGram f).pwr = s.pwr := rfl
@[simp] theorem State.modGram_thm (f : Gram → Gram) : (s.modGram f).thm = s.thm := rfl
@[simp] theorem State.modGram_sec (f : Gram → Gram) : (s.modGram f).sec = s.sec := rfl
@[simp] theorem State.modGram_srv (f : Gram → Gram) : (s.modGram f).srv = s.srv := rfl
@[simp] theorem State.modGram_sched (f : Gram → Gram) : (s.modGram f).sched = s.sched := rfl
@[simp] theorem State.modGram_xl (f : Gram → Gram) : (s.modGram f).xl = s.xl := rfl
@[simp] theorem State.modGram_fab (f : Gram → Gram) : (s.modGram f).fab = s.fab := rfl
@[simp] theorem State.modGram_stk (f : Gram → Gram) : (s.modGram f).stk = s.stk := rfl
@[simp] theorem State.modGram_clusters (f : Gram → Gram) : (s.modGram f).clusters = s.clusters := rfl
@[simp] theorem State.modGram_cores (f : Gram → Gram) : (s.modGram f).cores = s.cores := rfl
@[simp] theorem State.modGram_sets (f : Gram → Gram) : (s.modGram f).sets = s.sets := rfl
@[simp] theorem State.modGram_mem (f : Gram → Gram) : (s.modGram f).mem = s.mem := rfl
@[simp] theorem State.modGram_poison (f : Gram → Gram) : (s.modGram f).poison = s.poison := rfl
@[simp] theorem State.modGram_upsets (f : Gram → Gram) : (s.modGram f).upsets = s.upsets := rfl
@[simp] theorem State.modGram_stuck (f : Gram → Gram) : (s.modGram f).stuck = s.stuck := rfl
@[simp] theorem State.modGram_transfers (f : Gram → Gram) : (s.modGram f).transfers = s.transfers := rfl
@[simp] theorem State.modGram_recent (f : Gram → Gram) : (s.modGram f).recent = s.recent := rfl
@[simp] theorem State.modGram_seqs (f : Gram → Gram) : (s.modGram f).seqs = s.seqs := rfl
@[simp] theorem State.modGram_nextSeq (f : Gram → Gram) : (s.modGram f).nextSeq = s.nextSeq := rfl
@[simp] theorem State.modGram_answers (f : Gram → Gram) : (s.modGram f).answers = s.answers := rfl
@[simp] theorem State.modGram_transit (f : Gram → Gram) : (s.modGram f).transit = s.transit := rfl
@[simp] theorem State.modGram_out (f : Gram → Gram) : (s.modGram f).out = s.out := rfl
@[simp] theorem State.modGram_counts (f : Gram → Gram) : (s.modGram f).counts = s.counts := rfl
@[simp] theorem State.modGram_clockHeld (f : Gram → Gram) : (s.modGram f).clockHeld = s.clockHeld := rfl
@[simp] theorem State.modGram_fresh (f : Gram → Gram) : (s.modGram f).fresh = s.fresh := rfl

/-! ### modSched -/

@[simp] theorem State.modSched_pending (f : Sched → Sched) : (s.modSched f).pending = s.pending := rfl
@[simp] theorem State.modSched_fuses (f : Sched → Sched) : (s.modSched f).fuses = s.fuses := rfl
@[simp] theorem State.modSched_flash (f : Sched → Sched) : (s.modSched f).flash = s.flash := rfl
@[simp] theorem State.modSched_mgmt (f : Sched → Sched) : (s.modSched f).mgmt = s.mgmt := rfl
@[simp] theorem State.modSched_gram (f : Sched → Sched) : (s.modSched f).gram = s.gram := rfl
@[simp] theorem State.modSched_pwr (f : Sched → Sched) : (s.modSched f).pwr = s.pwr := rfl
@[simp] theorem State.modSched_thm (f : Sched → Sched) : (s.modSched f).thm = s.thm := rfl
@[simp] theorem State.modSched_sec (f : Sched → Sched) : (s.modSched f).sec = s.sec := rfl
@[simp] theorem State.modSched_srv (f : Sched → Sched) : (s.modSched f).srv = s.srv := rfl
@[simp] theorem State.modSched_sched (f : Sched → Sched) : (s.modSched f).sched = f s.sched := rfl
@[simp] theorem State.modSched_xl (f : Sched → Sched) : (s.modSched f).xl = s.xl := rfl
@[simp] theorem State.modSched_fab (f : Sched → Sched) : (s.modSched f).fab = s.fab := rfl
@[simp] theorem State.modSched_stk (f : Sched → Sched) : (s.modSched f).stk = s.stk := rfl
@[simp] theorem State.modSched_clusters (f : Sched → Sched) : (s.modSched f).clusters = s.clusters := rfl
@[simp] theorem State.modSched_cores (f : Sched → Sched) : (s.modSched f).cores = s.cores := rfl
@[simp] theorem State.modSched_sets (f : Sched → Sched) : (s.modSched f).sets = s.sets := rfl
@[simp] theorem State.modSched_mem (f : Sched → Sched) : (s.modSched f).mem = s.mem := rfl
@[simp] theorem State.modSched_poison (f : Sched → Sched) : (s.modSched f).poison = s.poison := rfl
@[simp] theorem State.modSched_upsets (f : Sched → Sched) : (s.modSched f).upsets = s.upsets := rfl
@[simp] theorem State.modSched_stuck (f : Sched → Sched) : (s.modSched f).stuck = s.stuck := rfl
@[simp] theorem State.modSched_transfers (f : Sched → Sched) : (s.modSched f).transfers = s.transfers := rfl
@[simp] theorem State.modSched_recent (f : Sched → Sched) : (s.modSched f).recent = s.recent := rfl
@[simp] theorem State.modSched_seqs (f : Sched → Sched) : (s.modSched f).seqs = s.seqs := rfl
@[simp] theorem State.modSched_nextSeq (f : Sched → Sched) : (s.modSched f).nextSeq = s.nextSeq := rfl
@[simp] theorem State.modSched_answers (f : Sched → Sched) : (s.modSched f).answers = s.answers := rfl
@[simp] theorem State.modSched_transit (f : Sched → Sched) : (s.modSched f).transit = s.transit := rfl
@[simp] theorem State.modSched_out (f : Sched → Sched) : (s.modSched f).out = s.out := rfl
@[simp] theorem State.modSched_counts (f : Sched → Sched) : (s.modSched f).counts = s.counts := rfl
@[simp] theorem State.modSched_clockHeld (f : Sched → Sched) : (s.modSched f).clockHeld = s.clockHeld := rfl
@[simp] theorem State.modSched_fresh (f : Sched → Sched) : (s.modSched f).fresh = s.fresh := rfl

/-! ### modPwr -/

@[simp] theorem State.modPwr_pending (f : Pwr → Pwr) : (s.modPwr f).pending = s.pending := rfl
@[simp] theorem State.modPwr_fuses (f : Pwr → Pwr) : (s.modPwr f).fuses = s.fuses := rfl
@[simp] theorem State.modPwr_flash (f : Pwr → Pwr) : (s.modPwr f).flash = s.flash := rfl
@[simp] theorem State.modPwr_mgmt (f : Pwr → Pwr) : (s.modPwr f).mgmt = s.mgmt := rfl
@[simp] theorem State.modPwr_gram (f : Pwr → Pwr) : (s.modPwr f).gram = s.gram := rfl
@[simp] theorem State.modPwr_pwr (f : Pwr → Pwr) : (s.modPwr f).pwr = f s.pwr := rfl
@[simp] theorem State.modPwr_thm (f : Pwr → Pwr) : (s.modPwr f).thm = s.thm := rfl
@[simp] theorem State.modPwr_sec (f : Pwr → Pwr) : (s.modPwr f).sec = s.sec := rfl
@[simp] theorem State.modPwr_srv (f : Pwr → Pwr) : (s.modPwr f).srv = s.srv := rfl
@[simp] theorem State.modPwr_sched (f : Pwr → Pwr) : (s.modPwr f).sched = s.sched := rfl
@[simp] theorem State.modPwr_xl (f : Pwr → Pwr) : (s.modPwr f).xl = s.xl := rfl
@[simp] theorem State.modPwr_fab (f : Pwr → Pwr) : (s.modPwr f).fab = s.fab := rfl
@[simp] theorem State.modPwr_stk (f : Pwr → Pwr) : (s.modPwr f).stk = s.stk := rfl
@[simp] theorem State.modPwr_clusters (f : Pwr → Pwr) : (s.modPwr f).clusters = s.clusters := rfl
@[simp] theorem State.modPwr_cores (f : Pwr → Pwr) : (s.modPwr f).cores = s.cores := rfl
@[simp] theorem State.modPwr_sets (f : Pwr → Pwr) : (s.modPwr f).sets = s.sets := rfl
@[simp] theorem State.modPwr_mem (f : Pwr → Pwr) : (s.modPwr f).mem = s.mem := rfl
@[simp] theorem State.modPwr_poison (f : Pwr → Pwr) : (s.modPwr f).poison = s.poison := rfl
@[simp] theorem State.modPwr_upsets (f : Pwr → Pwr) : (s.modPwr f).upsets = s.upsets := rfl
@[simp] theorem State.modPwr_stuck (f : Pwr → Pwr) : (s.modPwr f).stuck = s.stuck := rfl
@[simp] theorem State.modPwr_transfers (f : Pwr → Pwr) : (s.modPwr f).transfers = s.transfers := rfl
@[simp] theorem State.modPwr_recent (f : Pwr → Pwr) : (s.modPwr f).recent = s.recent := rfl
@[simp] theorem State.modPwr_seqs (f : Pwr → Pwr) : (s.modPwr f).seqs = s.seqs := rfl
@[simp] theorem State.modPwr_nextSeq (f : Pwr → Pwr) : (s.modPwr f).nextSeq = s.nextSeq := rfl
@[simp] theorem State.modPwr_answers (f : Pwr → Pwr) : (s.modPwr f).answers = s.answers := rfl
@[simp] theorem State.modPwr_transit (f : Pwr → Pwr) : (s.modPwr f).transit = s.transit := rfl
@[simp] theorem State.modPwr_out (f : Pwr → Pwr) : (s.modPwr f).out = s.out := rfl
@[simp] theorem State.modPwr_counts (f : Pwr → Pwr) : (s.modPwr f).counts = s.counts := rfl
@[simp] theorem State.modPwr_clockHeld (f : Pwr → Pwr) : (s.modPwr f).clockHeld = s.clockHeld := rfl
@[simp] theorem State.modPwr_fresh (f : Pwr → Pwr) : (s.modPwr f).fresh = s.fresh := rfl

/-! ### modThm -/

@[simp] theorem State.modThm_pending (f : Thm → Thm) : (s.modThm f).pending = s.pending := rfl
@[simp] theorem State.modThm_fuses (f : Thm → Thm) : (s.modThm f).fuses = s.fuses := rfl
@[simp] theorem State.modThm_flash (f : Thm → Thm) : (s.modThm f).flash = s.flash := rfl
@[simp] theorem State.modThm_mgmt (f : Thm → Thm) : (s.modThm f).mgmt = s.mgmt := rfl
@[simp] theorem State.modThm_gram (f : Thm → Thm) : (s.modThm f).gram = s.gram := rfl
@[simp] theorem State.modThm_pwr (f : Thm → Thm) : (s.modThm f).pwr = s.pwr := rfl
@[simp] theorem State.modThm_thm (f : Thm → Thm) : (s.modThm f).thm = f s.thm := rfl
@[simp] theorem State.modThm_sec (f : Thm → Thm) : (s.modThm f).sec = s.sec := rfl
@[simp] theorem State.modThm_srv (f : Thm → Thm) : (s.modThm f).srv = s.srv := rfl
@[simp] theorem State.modThm_sched (f : Thm → Thm) : (s.modThm f).sched = s.sched := rfl
@[simp] theorem State.modThm_xl (f : Thm → Thm) : (s.modThm f).xl = s.xl := rfl
@[simp] theorem State.modThm_fab (f : Thm → Thm) : (s.modThm f).fab = s.fab := rfl
@[simp] theorem State.modThm_stk (f : Thm → Thm) : (s.modThm f).stk = s.stk := rfl
@[simp] theorem State.modThm_clusters (f : Thm → Thm) : (s.modThm f).clusters = s.clusters := rfl
@[simp] theorem State.modThm_cores (f : Thm → Thm) : (s.modThm f).cores = s.cores := rfl
@[simp] theorem State.modThm_sets (f : Thm → Thm) : (s.modThm f).sets = s.sets := rfl
@[simp] theorem State.modThm_mem (f : Thm → Thm) : (s.modThm f).mem = s.mem := rfl
@[simp] theorem State.modThm_poison (f : Thm → Thm) : (s.modThm f).poison = s.poison := rfl
@[simp] theorem State.modThm_upsets (f : Thm → Thm) : (s.modThm f).upsets = s.upsets := rfl
@[simp] theorem State.modThm_stuck (f : Thm → Thm) : (s.modThm f).stuck = s.stuck := rfl
@[simp] theorem State.modThm_transfers (f : Thm → Thm) : (s.modThm f).transfers = s.transfers := rfl
@[simp] theorem State.modThm_recent (f : Thm → Thm) : (s.modThm f).recent = s.recent := rfl
@[simp] theorem State.modThm_seqs (f : Thm → Thm) : (s.modThm f).seqs = s.seqs := rfl
@[simp] theorem State.modThm_nextSeq (f : Thm → Thm) : (s.modThm f).nextSeq = s.nextSeq := rfl
@[simp] theorem State.modThm_answers (f : Thm → Thm) : (s.modThm f).answers = s.answers := rfl
@[simp] theorem State.modThm_transit (f : Thm → Thm) : (s.modThm f).transit = s.transit := rfl
@[simp] theorem State.modThm_out (f : Thm → Thm) : (s.modThm f).out = s.out := rfl
@[simp] theorem State.modThm_counts (f : Thm → Thm) : (s.modThm f).counts = s.counts := rfl
@[simp] theorem State.modThm_clockHeld (f : Thm → Thm) : (s.modThm f).clockHeld = s.clockHeld := rfl
@[simp] theorem State.modThm_fresh (f : Thm → Thm) : (s.modThm f).fresh = s.fresh := rfl

/-! ### modSec -/

@[simp] theorem State.modSec_pending (f : Sec → Sec) : (s.modSec f).pending = s.pending := rfl
@[simp] theorem State.modSec_fuses (f : Sec → Sec) : (s.modSec f).fuses = s.fuses := rfl
@[simp] theorem State.modSec_flash (f : Sec → Sec) : (s.modSec f).flash = s.flash := rfl
@[simp] theorem State.modSec_mgmt (f : Sec → Sec) : (s.modSec f).mgmt = s.mgmt := rfl
@[simp] theorem State.modSec_gram (f : Sec → Sec) : (s.modSec f).gram = s.gram := rfl
@[simp] theorem State.modSec_pwr (f : Sec → Sec) : (s.modSec f).pwr = s.pwr := rfl
@[simp] theorem State.modSec_thm (f : Sec → Sec) : (s.modSec f).thm = s.thm := rfl
@[simp] theorem State.modSec_sec (f : Sec → Sec) : (s.modSec f).sec = f s.sec := rfl
@[simp] theorem State.modSec_srv (f : Sec → Sec) : (s.modSec f).srv = s.srv := rfl
@[simp] theorem State.modSec_sched (f : Sec → Sec) : (s.modSec f).sched = s.sched := rfl
@[simp] theorem State.modSec_xl (f : Sec → Sec) : (s.modSec f).xl = s.xl := rfl
@[simp] theorem State.modSec_fab (f : Sec → Sec) : (s.modSec f).fab = s.fab := rfl
@[simp] theorem State.modSec_stk (f : Sec → Sec) : (s.modSec f).stk = s.stk := rfl
@[simp] theorem State.modSec_clusters (f : Sec → Sec) : (s.modSec f).clusters = s.clusters := rfl
@[simp] theorem State.modSec_cores (f : Sec → Sec) : (s.modSec f).cores = s.cores := rfl
@[simp] theorem State.modSec_sets (f : Sec → Sec) : (s.modSec f).sets = s.sets := rfl
@[simp] theorem State.modSec_mem (f : Sec → Sec) : (s.modSec f).mem = s.mem := rfl
@[simp] theorem State.modSec_poison (f : Sec → Sec) : (s.modSec f).poison = s.poison := rfl
@[simp] theorem State.modSec_upsets (f : Sec → Sec) : (s.modSec f).upsets = s.upsets := rfl
@[simp] theorem State.modSec_stuck (f : Sec → Sec) : (s.modSec f).stuck = s.stuck := rfl
@[simp] theorem State.modSec_transfers (f : Sec → Sec) : (s.modSec f).transfers = s.transfers := rfl
@[simp] theorem State.modSec_recent (f : Sec → Sec) : (s.modSec f).recent = s.recent := rfl
@[simp] theorem State.modSec_seqs (f : Sec → Sec) : (s.modSec f).seqs = s.seqs := rfl
@[simp] theorem State.modSec_nextSeq (f : Sec → Sec) : (s.modSec f).nextSeq = s.nextSeq := rfl
@[simp] theorem State.modSec_answers (f : Sec → Sec) : (s.modSec f).answers = s.answers := rfl
@[simp] theorem State.modSec_transit (f : Sec → Sec) : (s.modSec f).transit = s.transit := rfl
@[simp] theorem State.modSec_out (f : Sec → Sec) : (s.modSec f).out = s.out := rfl
@[simp] theorem State.modSec_counts (f : Sec → Sec) : (s.modSec f).counts = s.counts := rfl
@[simp] theorem State.modSec_clockHeld (f : Sec → Sec) : (s.modSec f).clockHeld = s.clockHeld := rfl
@[simp] theorem State.modSec_fresh (f : Sec → Sec) : (s.modSec f).fresh = s.fresh := rfl

/-! ### modFlash -/

@[simp] theorem State.modFlash_pending (f : Flash → Flash) : (s.modFlash f).pending = s.pending := rfl
@[simp] theorem State.modFlash_fuses (f : Flash → Flash) : (s.modFlash f).fuses = s.fuses := rfl
@[simp] theorem State.modFlash_flash (f : Flash → Flash) : (s.modFlash f).flash = f s.flash := rfl
@[simp] theorem State.modFlash_mgmt (f : Flash → Flash) : (s.modFlash f).mgmt = s.mgmt := rfl
@[simp] theorem State.modFlash_gram (f : Flash → Flash) : (s.modFlash f).gram = s.gram := rfl
@[simp] theorem State.modFlash_pwr (f : Flash → Flash) : (s.modFlash f).pwr = s.pwr := rfl
@[simp] theorem State.modFlash_thm (f : Flash → Flash) : (s.modFlash f).thm = s.thm := rfl
@[simp] theorem State.modFlash_sec (f : Flash → Flash) : (s.modFlash f).sec = s.sec := rfl
@[simp] theorem State.modFlash_srv (f : Flash → Flash) : (s.modFlash f).srv = s.srv := rfl
@[simp] theorem State.modFlash_sched (f : Flash → Flash) : (s.modFlash f).sched = s.sched := rfl
@[simp] theorem State.modFlash_xl (f : Flash → Flash) : (s.modFlash f).xl = s.xl := rfl
@[simp] theorem State.modFlash_fab (f : Flash → Flash) : (s.modFlash f).fab = s.fab := rfl
@[simp] theorem State.modFlash_stk (f : Flash → Flash) : (s.modFlash f).stk = s.stk := rfl
@[simp] theorem State.modFlash_clusters (f : Flash → Flash) : (s.modFlash f).clusters = s.clusters := rfl
@[simp] theorem State.modFlash_cores (f : Flash → Flash) : (s.modFlash f).cores = s.cores := rfl
@[simp] theorem State.modFlash_sets (f : Flash → Flash) : (s.modFlash f).sets = s.sets := rfl
@[simp] theorem State.modFlash_mem (f : Flash → Flash) : (s.modFlash f).mem = s.mem := rfl
@[simp] theorem State.modFlash_poison (f : Flash → Flash) : (s.modFlash f).poison = s.poison := rfl
@[simp] theorem State.modFlash_upsets (f : Flash → Flash) : (s.modFlash f).upsets = s.upsets := rfl
@[simp] theorem State.modFlash_stuck (f : Flash → Flash) : (s.modFlash f).stuck = s.stuck := rfl
@[simp] theorem State.modFlash_transfers (f : Flash → Flash) : (s.modFlash f).transfers = s.transfers := rfl
@[simp] theorem State.modFlash_recent (f : Flash → Flash) : (s.modFlash f).recent = s.recent := rfl
@[simp] theorem State.modFlash_seqs (f : Flash → Flash) : (s.modFlash f).seqs = s.seqs := rfl
@[simp] theorem State.modFlash_nextSeq (f : Flash → Flash) : (s.modFlash f).nextSeq = s.nextSeq := rfl
@[simp] theorem State.modFlash_answers (f : Flash → Flash) : (s.modFlash f).answers = s.answers := rfl
@[simp] theorem State.modFlash_transit (f : Flash → Flash) : (s.modFlash f).transit = s.transit := rfl
@[simp] theorem State.modFlash_out (f : Flash → Flash) : (s.modFlash f).out = s.out := rfl
@[simp] theorem State.modFlash_counts (f : Flash → Flash) : (s.modFlash f).counts = s.counts := rfl
@[simp] theorem State.modFlash_clockHeld (f : Flash → Flash) : (s.modFlash f).clockHeld = s.clockHeld := rfl
@[simp] theorem State.modFlash_fresh (f : Flash → Flash) : (s.modFlash f).fresh = s.fresh := rfl

/-! ### modSrv -/

@[simp] theorem State.modSrv_pending (f : Srv → Srv) : (s.modSrv f).pending = s.pending := rfl
@[simp] theorem State.modSrv_fuses (f : Srv → Srv) : (s.modSrv f).fuses = s.fuses := rfl
@[simp] theorem State.modSrv_flash (f : Srv → Srv) : (s.modSrv f).flash = s.flash := rfl
@[simp] theorem State.modSrv_mgmt (f : Srv → Srv) : (s.modSrv f).mgmt = s.mgmt := rfl
@[simp] theorem State.modSrv_gram (f : Srv → Srv) : (s.modSrv f).gram = s.gram := rfl
@[simp] theorem State.modSrv_pwr (f : Srv → Srv) : (s.modSrv f).pwr = s.pwr := rfl
@[simp] theorem State.modSrv_thm (f : Srv → Srv) : (s.modSrv f).thm = s.thm := rfl
@[simp] theorem State.modSrv_sec (f : Srv → Srv) : (s.modSrv f).sec = s.sec := rfl
@[simp] theorem State.modSrv_srv (f : Srv → Srv) : (s.modSrv f).srv = f s.srv := rfl
@[simp] theorem State.modSrv_sched (f : Srv → Srv) : (s.modSrv f).sched = s.sched := rfl
@[simp] theorem State.modSrv_xl (f : Srv → Srv) : (s.modSrv f).xl = s.xl := rfl
@[simp] theorem State.modSrv_fab (f : Srv → Srv) : (s.modSrv f).fab = s.fab := rfl
@[simp] theorem State.modSrv_stk (f : Srv → Srv) : (s.modSrv f).stk = s.stk := rfl
@[simp] theorem State.modSrv_clusters (f : Srv → Srv) : (s.modSrv f).clusters = s.clusters := rfl
@[simp] theorem State.modSrv_cores (f : Srv → Srv) : (s.modSrv f).cores = s.cores := rfl
@[simp] theorem State.modSrv_sets (f : Srv → Srv) : (s.modSrv f).sets = s.sets := rfl
@[simp] theorem State.modSrv_mem (f : Srv → Srv) : (s.modSrv f).mem = s.mem := rfl
@[simp] theorem State.modSrv_poison (f : Srv → Srv) : (s.modSrv f).poison = s.poison := rfl
@[simp] theorem State.modSrv_upsets (f : Srv → Srv) : (s.modSrv f).upsets = s.upsets := rfl
@[simp] theorem State.modSrv_stuck (f : Srv → Srv) : (s.modSrv f).stuck = s.stuck := rfl
@[simp] theorem State.modSrv_transfers (f : Srv → Srv) : (s.modSrv f).transfers = s.transfers := rfl
@[simp] theorem State.modSrv_recent (f : Srv → Srv) : (s.modSrv f).recent = s.recent := rfl
@[simp] theorem State.modSrv_seqs (f : Srv → Srv) : (s.modSrv f).seqs = s.seqs := rfl
@[simp] theorem State.modSrv_nextSeq (f : Srv → Srv) : (s.modSrv f).nextSeq = s.nextSeq := rfl
@[simp] theorem State.modSrv_answers (f : Srv → Srv) : (s.modSrv f).answers = s.answers := rfl
@[simp] theorem State.modSrv_transit (f : Srv → Srv) : (s.modSrv f).transit = s.transit := rfl
@[simp] theorem State.modSrv_out (f : Srv → Srv) : (s.modSrv f).out = s.out := rfl
@[simp] theorem State.modSrv_counts (f : Srv → Srv) : (s.modSrv f).counts = s.counts := rfl
@[simp] theorem State.modSrv_clockHeld (f : Srv → Srv) : (s.modSrv f).clockHeld = s.clockHeld := rfl
@[simp] theorem State.modSrv_fresh (f : Srv → Srv) : (s.modSrv f).fresh = s.fresh := rfl

/-! ### modScrub -/

@[simp] theorem State.modScrub_pending (n : Nat) (f : RangeScrub → RangeScrub) : (s.modScrub n f).pending = s.pending := rfl
@[simp] theorem State.modScrub_fuses (n : Nat) (f : RangeScrub → RangeScrub) : (s.modScrub n f).fuses = s.fuses := rfl
@[simp] theorem State.modScrub_flash (n : Nat) (f : RangeScrub → RangeScrub) : (s.modScrub n f).flash = s.flash := rfl
@[simp] theorem State.modScrub_mgmt (n : Nat) (f : RangeScrub → RangeScrub) : (s.modScrub n f).mgmt = s.mgmt := rfl
@[simp] theorem State.modScrub_gram (n : Nat) (f : RangeScrub → RangeScrub) : (s.modScrub n f).gram = s.gram := rfl
@[simp] theorem State.modScrub_pwr (n : Nat) (f : RangeScrub → RangeScrub) : (s.modScrub n f).pwr = s.pwr := rfl
@[simp] theorem State.modScrub_thm (n : Nat) (f : RangeScrub → RangeScrub) : (s.modScrub n f).thm = s.thm := rfl
@[simp] theorem State.modScrub_sec (n : Nat) (f : RangeScrub → RangeScrub) : (s.modScrub n f).sec = s.sec := rfl
@[simp] theorem State.modScrub_srv (n : Nat) (f : RangeScrub → RangeScrub) : (s.modScrub n f).srv = s.srv := rfl
@[simp] theorem State.modScrub_sched (n : Nat) (f : RangeScrub → RangeScrub) : (s.modScrub n f).sched = s.sched := rfl
@[simp] theorem State.modScrub_xl (n : Nat) (f : RangeScrub → RangeScrub) : (s.modScrub n f).xl = s.xl := rfl
@[simp] theorem State.modScrub_fab (n : Nat) (f : RangeScrub → RangeScrub) : (s.modScrub n f).fab = s.fab := rfl
@[simp] theorem State.modScrub_clusters (n : Nat) (f : RangeScrub → RangeScrub) : (s.modScrub n f).clusters = s.clusters := rfl
@[simp] theorem State.modScrub_cores (n : Nat) (f : RangeScrub → RangeScrub) : (s.modScrub n f).cores = s.cores := rfl
@[simp] theorem State.modScrub_sets (n : Nat) (f : RangeScrub → RangeScrub) : (s.modScrub n f).sets = s.sets := rfl
@[simp] theorem State.modScrub_mem (n : Nat) (f : RangeScrub → RangeScrub) : (s.modScrub n f).mem = s.mem := rfl
@[simp] theorem State.modScrub_poison (n : Nat) (f : RangeScrub → RangeScrub) : (s.modScrub n f).poison = s.poison := rfl
@[simp] theorem State.modScrub_upsets (n : Nat) (f : RangeScrub → RangeScrub) : (s.modScrub n f).upsets = s.upsets := rfl
@[simp] theorem State.modScrub_stuck (n : Nat) (f : RangeScrub → RangeScrub) : (s.modScrub n f).stuck = s.stuck := rfl
@[simp] theorem State.modScrub_transfers (n : Nat) (f : RangeScrub → RangeScrub) : (s.modScrub n f).transfers = s.transfers := rfl
@[simp] theorem State.modScrub_recent (n : Nat) (f : RangeScrub → RangeScrub) : (s.modScrub n f).recent = s.recent := rfl
@[simp] theorem State.modScrub_seqs (n : Nat) (f : RangeScrub → RangeScrub) : (s.modScrub n f).seqs = s.seqs := rfl
@[simp] theorem State.modScrub_nextSeq (n : Nat) (f : RangeScrub → RangeScrub) : (s.modScrub n f).nextSeq = s.nextSeq := rfl
@[simp] theorem State.modScrub_answers (n : Nat) (f : RangeScrub → RangeScrub) : (s.modScrub n f).answers = s.answers := rfl
@[simp] theorem State.modScrub_transit (n : Nat) (f : RangeScrub → RangeScrub) : (s.modScrub n f).transit = s.transit := rfl
@[simp] theorem State.modScrub_out (n : Nat) (f : RangeScrub → RangeScrub) : (s.modScrub n f).out = s.out := rfl
@[simp] theorem State.modScrub_counts (n : Nat) (f : RangeScrub → RangeScrub) : (s.modScrub n f).counts = s.counts := rfl
@[simp] theorem State.modScrub_clockHeld (n : Nat) (f : RangeScrub → RangeScrub) : (s.modScrub n f).clockHeld = s.clockHeld := rfl
@[simp] theorem State.modScrub_fresh (n : Nat) (f : RangeScrub → RangeScrub) : (s.modScrub n f).fresh = s.fresh := rfl

/-! ### modTg -/

@[simp] theorem State.modTg_pending (n : Nat) (f : Checker → Checker) : (s.modTg n f).pending = s.pending := rfl
@[simp] theorem State.modTg_fuses (n : Nat) (f : Checker → Checker) : (s.modTg n f).fuses = s.fuses := rfl
@[simp] theorem State.modTg_flash (n : Nat) (f : Checker → Checker) : (s.modTg n f).flash = s.flash := rfl
@[simp] theorem State.modTg_mgmt (n : Nat) (f : Checker → Checker) : (s.modTg n f).mgmt = s.mgmt := rfl
@[simp] theorem State.modTg_gram (n : Nat) (f : Checker → Checker) : (s.modTg n f).gram = s.gram := rfl
@[simp] theorem State.modTg_pwr (n : Nat) (f : Checker → Checker) : (s.modTg n f).pwr = s.pwr := rfl
@[simp] theorem State.modTg_thm (n : Nat) (f : Checker → Checker) : (s.modTg n f).thm = s.thm := rfl
@[simp] theorem State.modTg_sec (n : Nat) (f : Checker → Checker) : (s.modTg n f).sec = s.sec := rfl
@[simp] theorem State.modTg_srv (n : Nat) (f : Checker → Checker) : (s.modTg n f).srv = s.srv := rfl
@[simp] theorem State.modTg_sched (n : Nat) (f : Checker → Checker) : (s.modTg n f).sched = s.sched := rfl
@[simp] theorem State.modTg_xl (n : Nat) (f : Checker → Checker) : (s.modTg n f).xl = s.xl := rfl
@[simp] theorem State.modTg_fab (n : Nat) (f : Checker → Checker) : (s.modTg n f).fab = s.fab := rfl
@[simp] theorem State.modTg_clusters (n : Nat) (f : Checker → Checker) : (s.modTg n f).clusters = s.clusters := rfl
@[simp] theorem State.modTg_cores (n : Nat) (f : Checker → Checker) : (s.modTg n f).cores = s.cores := rfl
@[simp] theorem State.modTg_sets (n : Nat) (f : Checker → Checker) : (s.modTg n f).sets = s.sets := rfl
@[simp] theorem State.modTg_mem (n : Nat) (f : Checker → Checker) : (s.modTg n f).mem = s.mem := rfl
@[simp] theorem State.modTg_poison (n : Nat) (f : Checker → Checker) : (s.modTg n f).poison = s.poison := rfl
@[simp] theorem State.modTg_upsets (n : Nat) (f : Checker → Checker) : (s.modTg n f).upsets = s.upsets := rfl
@[simp] theorem State.modTg_stuck (n : Nat) (f : Checker → Checker) : (s.modTg n f).stuck = s.stuck := rfl
@[simp] theorem State.modTg_transfers (n : Nat) (f : Checker → Checker) : (s.modTg n f).transfers = s.transfers := rfl
@[simp] theorem State.modTg_recent (n : Nat) (f : Checker → Checker) : (s.modTg n f).recent = s.recent := rfl
@[simp] theorem State.modTg_seqs (n : Nat) (f : Checker → Checker) : (s.modTg n f).seqs = s.seqs := rfl
@[simp] theorem State.modTg_nextSeq (n : Nat) (f : Checker → Checker) : (s.modTg n f).nextSeq = s.nextSeq := rfl
@[simp] theorem State.modTg_answers (n : Nat) (f : Checker → Checker) : (s.modTg n f).answers = s.answers := rfl
@[simp] theorem State.modTg_transit (n : Nat) (f : Checker → Checker) : (s.modTg n f).transit = s.transit := rfl
@[simp] theorem State.modTg_out (n : Nat) (f : Checker → Checker) : (s.modTg n f).out = s.out := rfl
@[simp] theorem State.modTg_counts (n : Nat) (f : Checker → Checker) : (s.modTg n f).counts = s.counts := rfl
@[simp] theorem State.modTg_clockHeld (n : Nat) (f : Checker → Checker) : (s.modTg n f).clockHeld = s.clockHeld := rfl
@[simp] theorem State.modTg_fresh (n : Nat) (f : Checker → Checker) : (s.modTg n f).fresh = s.fresh := rfl

/-! ### modReq -/

@[simp] theorem State.modReq_pending (i : Nat) (f : Request → Request) : (s.modReq i f).pending = s.pending := rfl
@[simp] theorem State.modReq_fuses (i : Nat) (f : Request → Request) : (s.modReq i f).fuses = s.fuses := rfl
@[simp] theorem State.modReq_flash (i : Nat) (f : Request → Request) : (s.modReq i f).flash = s.flash := rfl
@[simp] theorem State.modReq_mgmt (i : Nat) (f : Request → Request) : (s.modReq i f).mgmt = s.mgmt := rfl
@[simp] theorem State.modReq_gram (i : Nat) (f : Request → Request) : (s.modReq i f).gram = s.gram := rfl
@[simp] theorem State.modReq_pwr (i : Nat) (f : Request → Request) : (s.modReq i f).pwr = s.pwr := rfl
@[simp] theorem State.modReq_thm (i : Nat) (f : Request → Request) : (s.modReq i f).thm = s.thm := rfl
@[simp] theorem State.modReq_sec (i : Nat) (f : Request → Request) : (s.modReq i f).sec = s.sec := rfl
@[simp] theorem State.modReq_sched (i : Nat) (f : Request → Request) : (s.modReq i f).sched = s.sched := rfl
@[simp] theorem State.modReq_xl (i : Nat) (f : Request → Request) : (s.modReq i f).xl = s.xl := rfl
@[simp] theorem State.modReq_fab (i : Nat) (f : Request → Request) : (s.modReq i f).fab = s.fab := rfl
@[simp] theorem State.modReq_stk (i : Nat) (f : Request → Request) : (s.modReq i f).stk = s.stk := rfl
@[simp] theorem State.modReq_clusters (i : Nat) (f : Request → Request) : (s.modReq i f).clusters = s.clusters := rfl
@[simp] theorem State.modReq_cores (i : Nat) (f : Request → Request) : (s.modReq i f).cores = s.cores := rfl
@[simp] theorem State.modReq_sets (i : Nat) (f : Request → Request) : (s.modReq i f).sets = s.sets := rfl
@[simp] theorem State.modReq_mem (i : Nat) (f : Request → Request) : (s.modReq i f).mem = s.mem := rfl
@[simp] theorem State.modReq_poison (i : Nat) (f : Request → Request) : (s.modReq i f).poison = s.poison := rfl
@[simp] theorem State.modReq_upsets (i : Nat) (f : Request → Request) : (s.modReq i f).upsets = s.upsets := rfl
@[simp] theorem State.modReq_stuck (i : Nat) (f : Request → Request) : (s.modReq i f).stuck = s.stuck := rfl
@[simp] theorem State.modReq_transfers (i : Nat) (f : Request → Request) : (s.modReq i f).transfers = s.transfers := rfl
@[simp] theorem State.modReq_recent (i : Nat) (f : Request → Request) : (s.modReq i f).recent = s.recent := rfl
@[simp] theorem State.modReq_seqs (i : Nat) (f : Request → Request) : (s.modReq i f).seqs = s.seqs := rfl
@[simp] theorem State.modReq_nextSeq (i : Nat) (f : Request → Request) : (s.modReq i f).nextSeq = s.nextSeq := rfl
@[simp] theorem State.modReq_answers (i : Nat) (f : Request → Request) : (s.modReq i f).answers = s.answers := rfl
@[simp] theorem State.modReq_transit (i : Nat) (f : Request → Request) : (s.modReq i f).transit = s.transit := rfl
@[simp] theorem State.modReq_out (i : Nat) (f : Request → Request) : (s.modReq i f).out = s.out := rfl
@[simp] theorem State.modReq_counts (i : Nat) (f : Request → Request) : (s.modReq i f).counts = s.counts := rfl
@[simp] theorem State.modReq_clockHeld (i : Nat) (f : Request → Request) : (s.modReq i f).clockHeld = s.clockHeld := rfl
@[simp] theorem State.modReq_fresh (i : Nat) (f : Request → Request) : (s.modReq i f).fresh = s.fresh := rfl

/-! ### modPfx -/

@[simp] theorem State.modPfx_pending (i : Nat) (f : Prefix → Prefix) : (s.modPfx i f).pending = s.pending := rfl
@[simp] theorem State.modPfx_fuses (i : Nat) (f : Prefix → Prefix) : (s.modPfx i f).fuses = s.fuses := rfl
@[simp] theorem State.modPfx_flash (i : Nat) (f : Prefix → Prefix) : (s.modPfx i f).flash = s.flash := rfl
@[simp] theorem State.modPfx_mgmt (i : Nat) (f : Prefix → Prefix) : (s.modPfx i f).mgmt = s.mgmt := rfl
@[simp] theorem State.modPfx_gram (i : Nat) (f : Prefix → Prefix) : (s.modPfx i f).gram = s.gram := rfl
@[simp] theorem State.modPfx_pwr (i : Nat) (f : Prefix → Prefix) : (s.modPfx i f).pwr = s.pwr := rfl
@[simp] theorem State.modPfx_thm (i : Nat) (f : Prefix → Prefix) : (s.modPfx i f).thm = s.thm := rfl
@[simp] theorem State.modPfx_sec (i : Nat) (f : Prefix → Prefix) : (s.modPfx i f).sec = s.sec := rfl
@[simp] theorem State.modPfx_sched (i : Nat) (f : Prefix → Prefix) : (s.modPfx i f).sched = s.sched := rfl
@[simp] theorem State.modPfx_xl (i : Nat) (f : Prefix → Prefix) : (s.modPfx i f).xl = s.xl := rfl
@[simp] theorem State.modPfx_fab (i : Nat) (f : Prefix → Prefix) : (s.modPfx i f).fab = s.fab := rfl
@[simp] theorem State.modPfx_stk (i : Nat) (f : Prefix → Prefix) : (s.modPfx i f).stk = s.stk := rfl
@[simp] theorem State.modPfx_clusters (i : Nat) (f : Prefix → Prefix) : (s.modPfx i f).clusters = s.clusters := rfl
@[simp] theorem State.modPfx_cores (i : Nat) (f : Prefix → Prefix) : (s.modPfx i f).cores = s.cores := rfl
@[simp] theorem State.modPfx_sets (i : Nat) (f : Prefix → Prefix) : (s.modPfx i f).sets = s.sets := rfl
@[simp] theorem State.modPfx_mem (i : Nat) (f : Prefix → Prefix) : (s.modPfx i f).mem = s.mem := rfl
@[simp] theorem State.modPfx_poison (i : Nat) (f : Prefix → Prefix) : (s.modPfx i f).poison = s.poison := rfl
@[simp] theorem State.modPfx_upsets (i : Nat) (f : Prefix → Prefix) : (s.modPfx i f).upsets = s.upsets := rfl
@[simp] theorem State.modPfx_stuck (i : Nat) (f : Prefix → Prefix) : (s.modPfx i f).stuck = s.stuck := rfl
@[simp] theorem State.modPfx_transfers (i : Nat) (f : Prefix → Prefix) : (s.modPfx i f).transfers = s.transfers := rfl
@[simp] theorem State.modPfx_recent (i : Nat) (f : Prefix → Prefix) : (s.modPfx i f).recent = s.recent := rfl
@[simp] theorem State.modPfx_seqs (i : Nat) (f : Prefix → Prefix) : (s.modPfx i f).seqs = s.seqs := rfl
@[simp] theorem State.modPfx_nextSeq (i : Nat) (f : Prefix → Prefix) : (s.modPfx i f).nextSeq = s.nextSeq := rfl
@[simp] theorem State.modPfx_answers (i : Nat) (f : Prefix → Prefix) : (s.modPfx i f).answers = s.answers := rfl
@[simp] theorem State.modPfx_transit (i : Nat) (f : Prefix → Prefix) : (s.modPfx i f).transit = s.transit := rfl
@[simp] theorem State.modPfx_out (i : Nat) (f : Prefix → Prefix) : (s.modPfx i f).out = s.out := rfl
@[simp] theorem State.modPfx_counts (i : Nat) (f : Prefix → Prefix) : (s.modPfx i f).counts = s.counts := rfl
@[simp] theorem State.modPfx_clockHeld (i : Nat) (f : Prefix → Prefix) : (s.modPfx i f).clockHeld = s.clockHeld := rfl
@[simp] theorem State.modPfx_fresh (i : Nat) (f : Prefix → Prefix) : (s.modPfx i f).fresh = s.fresh := rfl

/-! ### modGroup -/

@[simp] theorem State.modGroup_pending (g : Nat) (f : Group → Group) : (s.modGroup g f).pending = s.pending := rfl
@[simp] theorem State.modGroup_fuses (g : Nat) (f : Group → Group) : (s.modGroup g f).fuses = s.fuses := rfl
@[simp] theorem State.modGroup_flash (g : Nat) (f : Group → Group) : (s.modGroup g f).flash = s.flash := rfl
@[simp] theorem State.modGroup_mgmt (g : Nat) (f : Group → Group) : (s.modGroup g f).mgmt = s.mgmt := rfl
@[simp] theorem State.modGroup_gram (g : Nat) (f : Group → Group) : (s.modGroup g f).gram = s.gram := rfl
@[simp] theorem State.modGroup_pwr (g : Nat) (f : Group → Group) : (s.modGroup g f).pwr = s.pwr := rfl
@[simp] theorem State.modGroup_thm (g : Nat) (f : Group → Group) : (s.modGroup g f).thm = s.thm := rfl
@[simp] theorem State.modGroup_sec (g : Nat) (f : Group → Group) : (s.modGroup g f).sec = s.sec := rfl
@[simp] theorem State.modGroup_sched (g : Nat) (f : Group → Group) : (s.modGroup g f).sched = s.sched := rfl
@[simp] theorem State.modGroup_xl (g : Nat) (f : Group → Group) : (s.modGroup g f).xl = s.xl := rfl
@[simp] theorem State.modGroup_fab (g : Nat) (f : Group → Group) : (s.modGroup g f).fab = s.fab := rfl
@[simp] theorem State.modGroup_stk (g : Nat) (f : Group → Group) : (s.modGroup g f).stk = s.stk := rfl
@[simp] theorem State.modGroup_clusters (g : Nat) (f : Group → Group) : (s.modGroup g f).clusters = s.clusters := rfl
@[simp] theorem State.modGroup_cores (g : Nat) (f : Group → Group) : (s.modGroup g f).cores = s.cores := rfl
@[simp] theorem State.modGroup_sets (g : Nat) (f : Group → Group) : (s.modGroup g f).sets = s.sets := rfl
@[simp] theorem State.modGroup_mem (g : Nat) (f : Group → Group) : (s.modGroup g f).mem = s.mem := rfl
@[simp] theorem State.modGroup_poison (g : Nat) (f : Group → Group) : (s.modGroup g f).poison = s.poison := rfl
@[simp] theorem State.modGroup_upsets (g : Nat) (f : Group → Group) : (s.modGroup g f).upsets = s.upsets := rfl
@[simp] theorem State.modGroup_stuck (g : Nat) (f : Group → Group) : (s.modGroup g f).stuck = s.stuck := rfl
@[simp] theorem State.modGroup_transfers (g : Nat) (f : Group → Group) : (s.modGroup g f).transfers = s.transfers := rfl
@[simp] theorem State.modGroup_recent (g : Nat) (f : Group → Group) : (s.modGroup g f).recent = s.recent := rfl
@[simp] theorem State.modGroup_seqs (g : Nat) (f : Group → Group) : (s.modGroup g f).seqs = s.seqs := rfl
@[simp] theorem State.modGroup_nextSeq (g : Nat) (f : Group → Group) : (s.modGroup g f).nextSeq = s.nextSeq := rfl
@[simp] theorem State.modGroup_answers (g : Nat) (f : Group → Group) : (s.modGroup g f).answers = s.answers := rfl
@[simp] theorem State.modGroup_transit (g : Nat) (f : Group → Group) : (s.modGroup g f).transit = s.transit := rfl
@[simp] theorem State.modGroup_out (g : Nat) (f : Group → Group) : (s.modGroup g f).out = s.out := rfl
@[simp] theorem State.modGroup_counts (g : Nat) (f : Group → Group) : (s.modGroup g f).counts = s.counts := rfl
@[simp] theorem State.modGroup_clockHeld (g : Nat) (f : Group → Group) : (s.modGroup g f).clockHeld = s.clockHeld := rfl
@[simp] theorem State.modGroup_fresh (g : Nat) (f : Group → Group) : (s.modGroup g f).fresh = s.fresh := rfl

/-! ### emit -/

@[simp] theorem State.emit_pending (o : Out) : (s.emit o).pending = s.pending := rfl
@[simp] theorem State.emit_fuses (o : Out) : (s.emit o).fuses = s.fuses := rfl
@[simp] theorem State.emit_flash (o : Out) : (s.emit o).flash = s.flash := rfl
@[simp] theorem State.emit_mgmt (o : Out) : (s.emit o).mgmt = s.mgmt := rfl
@[simp] theorem State.emit_gram (o : Out) : (s.emit o).gram = s.gram := rfl
@[simp] theorem State.emit_pwr (o : Out) : (s.emit o).pwr = s.pwr := rfl
@[simp] theorem State.emit_thm (o : Out) : (s.emit o).thm = s.thm := rfl
@[simp] theorem State.emit_sec (o : Out) : (s.emit o).sec = s.sec := rfl
@[simp] theorem State.emit_srv (o : Out) : (s.emit o).srv = s.srv := rfl
@[simp] theorem State.emit_sched (o : Out) : (s.emit o).sched = s.sched := rfl
@[simp] theorem State.emit_xl (o : Out) : (s.emit o).xl = s.xl := rfl
@[simp] theorem State.emit_fab (o : Out) : (s.emit o).fab = s.fab := rfl
@[simp] theorem State.emit_stk (o : Out) : (s.emit o).stk = s.stk := rfl
@[simp] theorem State.emit_clusters (o : Out) : (s.emit o).clusters = s.clusters := rfl
@[simp] theorem State.emit_cores (o : Out) : (s.emit o).cores = s.cores := rfl
@[simp] theorem State.emit_sets (o : Out) : (s.emit o).sets = s.sets := rfl
@[simp] theorem State.emit_mem (o : Out) : (s.emit o).mem = s.mem := rfl
@[simp] theorem State.emit_poison (o : Out) : (s.emit o).poison = s.poison := rfl
@[simp] theorem State.emit_upsets (o : Out) : (s.emit o).upsets = s.upsets := rfl
@[simp] theorem State.emit_stuck (o : Out) : (s.emit o).stuck = s.stuck := rfl
@[simp] theorem State.emit_transfers (o : Out) : (s.emit o).transfers = s.transfers := rfl
@[simp] theorem State.emit_recent (o : Out) : (s.emit o).recent = s.recent := rfl
@[simp] theorem State.emit_seqs (o : Out) : (s.emit o).seqs = s.seqs := rfl
@[simp] theorem State.emit_nextSeq (o : Out) : (s.emit o).nextSeq = s.nextSeq := rfl
@[simp] theorem State.emit_answers (o : Out) : (s.emit o).answers = s.answers := rfl
@[simp] theorem State.emit_transit (o : Out) : (s.emit o).transit = s.transit := rfl
@[simp] theorem State.emit_out (o : Out) : (s.emit o).out = s.out ++ [o] := rfl
@[simp] theorem State.emit_counts (o : Out) : (s.emit o).counts = s.counts := rfl
@[simp] theorem State.emit_clockHeld (o : Out) : (s.emit o).clockHeld = s.clockHeld := rfl
@[simp] theorem State.emit_fresh (o : Out) : (s.emit o).fresh = s.fresh := rfl

/-! ### recordAccess -/

@[simp] theorem State.recordAccess_pending (st : Status) (off : Nat) : (s.recordAccess st off).pending = s.pending := rfl
@[simp] theorem State.recordAccess_fuses (st : Status) (off : Nat) : (s.recordAccess st off).fuses = s.fuses := rfl
@[simp] theorem State.recordAccess_flash (st : Status) (off : Nat) : (s.recordAccess st off).flash = s.flash := rfl
@[simp] theorem State.recordAccess_gram (st : Status) (off : Nat) : (s.recordAccess st off).gram = s.gram := rfl
@[simp] theorem State.recordAccess_pwr (st : Status) (off : Nat) : (s.recordAccess st off).pwr = s.pwr := rfl
@[simp] theorem State.recordAccess_thm (st : Status) (off : Nat) : (s.recordAccess st off).thm = s.thm := rfl
@[simp] theorem State.recordAccess_sec (st : Status) (off : Nat) : (s.recordAccess st off).sec = s.sec := rfl
@[simp] theorem State.recordAccess_srv (st : Status) (off : Nat) : (s.recordAccess st off).srv = s.srv := rfl
@[simp] theorem State.recordAccess_sched (st : Status) (off : Nat) : (s.recordAccess st off).sched = s.sched := rfl
@[simp] theorem State.recordAccess_xl (st : Status) (off : Nat) : (s.recordAccess st off).xl = s.xl := rfl
@[simp] theorem State.recordAccess_fab (st : Status) (off : Nat) : (s.recordAccess st off).fab = s.fab := rfl
@[simp] theorem State.recordAccess_stk (st : Status) (off : Nat) : (s.recordAccess st off).stk = s.stk := rfl
@[simp] theorem State.recordAccess_clusters (st : Status) (off : Nat) : (s.recordAccess st off).clusters = s.clusters := rfl
@[simp] theorem State.recordAccess_cores (st : Status) (off : Nat) : (s.recordAccess st off).cores = s.cores := rfl
@[simp] theorem State.recordAccess_sets (st : Status) (off : Nat) : (s.recordAccess st off).sets = s.sets := rfl
@[simp] theorem State.recordAccess_mem (st : Status) (off : Nat) : (s.recordAccess st off).mem = s.mem := rfl
@[simp] theorem State.recordAccess_poison (st : Status) (off : Nat) : (s.recordAccess st off).poison = s.poison := rfl
@[simp] theorem State.recordAccess_upsets (st : Status) (off : Nat) : (s.recordAccess st off).upsets = s.upsets := rfl
@[simp] theorem State.recordAccess_stuck (st : Status) (off : Nat) : (s.recordAccess st off).stuck = s.stuck := rfl
@[simp] theorem State.recordAccess_transfers (st : Status) (off : Nat) : (s.recordAccess st off).transfers = s.transfers := rfl
@[simp] theorem State.recordAccess_recent (st : Status) (off : Nat) : (s.recordAccess st off).recent = s.recent := rfl
@[simp] theorem State.recordAccess_seqs (st : Status) (off : Nat) : (s.recordAccess st off).seqs = s.seqs := rfl
@[simp] theorem State.recordAccess_nextSeq (st : Status) (off : Nat) : (s.recordAccess st off).nextSeq = s.nextSeq := rfl
@[simp] theorem State.recordAccess_answers (st : Status) (off : Nat) : (s.recordAccess st off).answers = s.answers := rfl
@[simp] theorem State.recordAccess_transit (st : Status) (off : Nat) : (s.recordAccess st off).transit = s.transit := rfl
@[simp] theorem State.recordAccess_out (st : Status) (off : Nat) : (s.recordAccess st off).out = s.out := rfl
@[simp] theorem State.recordAccess_counts (st : Status) (off : Nat) : (s.recordAccess st off).counts = s.counts := rfl
@[simp] theorem State.recordAccess_clockHeld (st : Status) (off : Nat) : (s.recordAccess st off).clockHeld = s.clockHeld := rfl
@[simp] theorem State.recordAccess_fresh (st : Status) (off : Nat) : (s.recordAccess st off).fresh = s.fresh := rfl

/-! ### wakeDomain -/

@[simp] theorem State.wakeDomain_pending (d : Nat) : (s.wakeDomain d).pending = s.pending := by
  unfold State.wakeDomain
  split <;> rfl
@[simp] theorem State.wakeDomain_fuses (d : Nat) : (s.wakeDomain d).fuses = s.fuses := by
  unfold State.wakeDomain
  split <;> rfl
@[simp] theorem State.wakeDomain_flash (d : Nat) : (s.wakeDomain d).flash = s.flash := by
  unfold State.wakeDomain
  split <;> rfl
@[simp] theorem State.wakeDomain_mgmt (d : Nat) : (s.wakeDomain d).mgmt = s.mgmt := by
  unfold State.wakeDomain
  split <;> rfl
@[simp] theorem State.wakeDomain_gram (d : Nat) : (s.wakeDomain d).gram = s.gram := by
  unfold State.wakeDomain
  split <;> rfl
@[simp] theorem State.wakeDomain_thm (d : Nat) : (s.wakeDomain d).thm = s.thm := by
  unfold State.wakeDomain
  split <;> rfl
@[simp] theorem State.wakeDomain_sec (d : Nat) : (s.wakeDomain d).sec = s.sec := by
  unfold State.wakeDomain
  split <;> rfl
@[simp] theorem State.wakeDomain_srv (d : Nat) : (s.wakeDomain d).srv = s.srv := by
  unfold State.wakeDomain
  split <;> rfl
@[simp] theorem State.wakeDomain_sched (d : Nat) : (s.wakeDomain d).sched = s.sched := by
  unfold State.wakeDomain
  split <;> rfl
@[simp] theorem State.wakeDomain_xl (d : Nat) : (s.wakeDomain d).xl = s.xl := by
  unfold State.wakeDomain
  split <;> rfl
@[simp] theorem State.wakeDomain_fab (d : Nat) : (s.wakeDomain d).fab = s.fab := by
  unfold State.wakeDomain
  split <;> rfl
@[simp] theorem State.wakeDomain_stk (d : Nat) : (s.wakeDomain d).stk = s.stk := by
  unfold State.wakeDomain
  split <;> rfl
@[simp] theorem State.wakeDomain_clusters (d : Nat) : (s.wakeDomain d).clusters = s.clusters := by
  unfold State.wakeDomain
  split <;> rfl
@[simp] theorem State.wakeDomain_cores (d : Nat) : (s.wakeDomain d).cores = s.cores := by
  unfold State.wakeDomain
  split <;> rfl
@[simp] theorem State.wakeDomain_sets (d : Nat) : (s.wakeDomain d).sets = s.sets := by
  unfold State.wakeDomain
  split <;> rfl
@[simp] theorem State.wakeDomain_mem (d : Nat) : (s.wakeDomain d).mem = s.mem := by
  unfold State.wakeDomain
  split <;> rfl
@[simp] theorem State.wakeDomain_poison (d : Nat) : (s.wakeDomain d).poison = s.poison := by
  unfold State.wakeDomain
  split <;> rfl
@[simp] theorem State.wakeDomain_upsets (d : Nat) : (s.wakeDomain d).upsets = s.upsets := by
  unfold State.wakeDomain
  split <;> rfl
@[simp] theorem State.wakeDomain_stuck (d : Nat) : (s.wakeDomain d).stuck = s.stuck := by
  unfold State.wakeDomain
  split <;> rfl
@[simp] theorem State.wakeDomain_transfers (d : Nat) : (s.wakeDomain d).transfers = s.transfers := by
  unfold State.wakeDomain
  split <;> rfl
@[simp] theorem State.wakeDomain_recent (d : Nat) : (s.wakeDomain d).recent = s.recent := by
  unfold State.wakeDomain
  split <;> rfl
@[simp] theorem State.wakeDomain_seqs (d : Nat) : (s.wakeDomain d).seqs = s.seqs := by
  unfold State.wakeDomain
  split <;> rfl
@[simp] theorem State.wakeDomain_nextSeq (d : Nat) : (s.wakeDomain d).nextSeq = s.nextSeq := by
  unfold State.wakeDomain
  split <;> rfl
@[simp] theorem State.wakeDomain_answers (d : Nat) : (s.wakeDomain d).answers = s.answers := by
  unfold State.wakeDomain
  split <;> rfl
@[simp] theorem State.wakeDomain_transit (d : Nat) : (s.wakeDomain d).transit = s.transit := by
  unfold State.wakeDomain
  split <;> rfl
@[simp] theorem State.wakeDomain_out (d : Nat) : (s.wakeDomain d).out = s.out := by
  unfold State.wakeDomain
  split <;> rfl
@[simp] theorem State.wakeDomain_counts (d : Nat) : (s.wakeDomain d).counts = s.counts := by
  unfold State.wakeDomain
  split <;> rfl
@[simp] theorem State.wakeDomain_clockHeld (d : Nat) : (s.wakeDomain d).clockHeld = s.clockHeld := by
  unfold State.wakeDomain
  split <;> rfl
@[simp] theorem State.wakeDomain_fresh (d : Nat) : (s.wakeDomain d).fresh = s.fresh := by
  unfold State.wakeDomain
  split <;> rfl

/-! ### islandCount -/

/-- A record's count moves the island's count, the hold of its clock, and the free values alone. -/
theorem State.islandCount_eq (island : Nat) : (s.islandCount island).2 =
    { s with counts := (s.islandCount island).2.counts, clockHeld := (s.islandCount island).2.clockHeld,
             fresh := (s.islandCount island).2.fresh } := by
  unfold State.islandCount
  split
  · rfl
  · dsimp only
    by_cases h : (s.drawBelow (2 ^ 64 - s.counts.look 0 island)).2.coreAtRest island = true
    · simp only [h, if_true]
      rfl
    · simp only [h]
      rfl

@[simp] theorem State.islandCount_pending (island : Nat) : (s.islandCount island).2.pending = s.pending := by rw [State.islandCount_eq]
@[simp] theorem State.islandCount_fuses (island : Nat) : (s.islandCount island).2.fuses = s.fuses := by rw [State.islandCount_eq]
@[simp] theorem State.islandCount_flash (island : Nat) : (s.islandCount island).2.flash = s.flash := by rw [State.islandCount_eq]
@[simp] theorem State.islandCount_mgmt (island : Nat) : (s.islandCount island).2.mgmt = s.mgmt := by rw [State.islandCount_eq]
@[simp] theorem State.islandCount_gram (island : Nat) : (s.islandCount island).2.gram = s.gram := by rw [State.islandCount_eq]
@[simp] theorem State.islandCount_pwr (island : Nat) : (s.islandCount island).2.pwr = s.pwr := by rw [State.islandCount_eq]
@[simp] theorem State.islandCount_thm (island : Nat) : (s.islandCount island).2.thm = s.thm := by rw [State.islandCount_eq]
@[simp] theorem State.islandCount_sec (island : Nat) : (s.islandCount island).2.sec = s.sec := by rw [State.islandCount_eq]
@[simp] theorem State.islandCount_srv (island : Nat) : (s.islandCount island).2.srv = s.srv := by rw [State.islandCount_eq]
@[simp] theorem State.islandCount_sched (island : Nat) : (s.islandCount island).2.sched = s.sched := by rw [State.islandCount_eq]
@[simp] theorem State.islandCount_xl (island : Nat) : (s.islandCount island).2.xl = s.xl := by rw [State.islandCount_eq]
@[simp] theorem State.islandCount_fab (island : Nat) : (s.islandCount island).2.fab = s.fab := by rw [State.islandCount_eq]
@[simp] theorem State.islandCount_stk (island : Nat) : (s.islandCount island).2.stk = s.stk := by rw [State.islandCount_eq]
@[simp] theorem State.islandCount_clusters (island : Nat) : (s.islandCount island).2.clusters = s.clusters := by rw [State.islandCount_eq]
@[simp] theorem State.islandCount_cores (island : Nat) : (s.islandCount island).2.cores = s.cores := by rw [State.islandCount_eq]
@[simp] theorem State.islandCount_sets (island : Nat) : (s.islandCount island).2.sets = s.sets := by rw [State.islandCount_eq]
@[simp] theorem State.islandCount_mem (island : Nat) : (s.islandCount island).2.mem = s.mem := by rw [State.islandCount_eq]
@[simp] theorem State.islandCount_poison (island : Nat) : (s.islandCount island).2.poison = s.poison := by rw [State.islandCount_eq]
@[simp] theorem State.islandCount_upsets (island : Nat) : (s.islandCount island).2.upsets = s.upsets := by rw [State.islandCount_eq]
@[simp] theorem State.islandCount_stuck (island : Nat) : (s.islandCount island).2.stuck = s.stuck := by rw [State.islandCount_eq]
@[simp] theorem State.islandCount_transfers (island : Nat) : (s.islandCount island).2.transfers = s.transfers := by rw [State.islandCount_eq]
@[simp] theorem State.islandCount_recent (island : Nat) : (s.islandCount island).2.recent = s.recent := by rw [State.islandCount_eq]
@[simp] theorem State.islandCount_seqs (island : Nat) : (s.islandCount island).2.seqs = s.seqs := by rw [State.islandCount_eq]
@[simp] theorem State.islandCount_nextSeq (island : Nat) : (s.islandCount island).2.nextSeq = s.nextSeq := by rw [State.islandCount_eq]
@[simp] theorem State.islandCount_answers (island : Nat) : (s.islandCount island).2.answers = s.answers := by rw [State.islandCount_eq]
@[simp] theorem State.islandCount_transit (island : Nat) : (s.islandCount island).2.transit = s.transit := by rw [State.islandCount_eq]
@[simp] theorem State.islandCount_out (island : Nat) : (s.islandCount island).2.out = s.out := by rw [State.islandCount_eq]

/-! ### event -/

@[simp] theorem State.event_pending (cls : Nat) (code : Status) (o : Obs) (pid d0 d1 : Nat) : (s.event cls code o pid d0 d1).pending = s.pending := by
  unfold State.event
  split
  · exact State.islandCount_pending s o.island
  · rfl
@[simp] theorem State.event_fuses (cls : Nat) (code : Status) (o : Obs) (pid d0 d1 : Nat) : (s.event cls code o pid d0 d1).fuses = s.fuses := by
  unfold State.event
  split
  · exact State.islandCount_fuses s o.island
  · rfl
@[simp] theorem State.event_flash (cls : Nat) (code : Status) (o : Obs) (pid d0 d1 : Nat) : (s.event cls code o pid d0 d1).flash = s.flash := by
  unfold State.event
  split
  · exact State.islandCount_flash s o.island
  · rfl
@[simp] theorem State.event_gram (cls : Nat) (code : Status) (o : Obs) (pid d0 d1 : Nat) : (s.event cls code o pid d0 d1).gram = s.gram := by
  unfold State.event
  split
  · exact State.islandCount_gram s o.island
  · rfl
@[simp] theorem State.event_pwr (cls : Nat) (code : Status) (o : Obs) (pid d0 d1 : Nat) : (s.event cls code o pid d0 d1).pwr = s.pwr := by
  unfold State.event
  split
  · exact State.islandCount_pwr s o.island
  · rfl
@[simp] theorem State.event_thm (cls : Nat) (code : Status) (o : Obs) (pid d0 d1 : Nat) : (s.event cls code o pid d0 d1).thm = s.thm := by
  unfold State.event
  split
  · exact State.islandCount_thm s o.island
  · rfl
@[simp] theorem State.event_sec (cls : Nat) (code : Status) (o : Obs) (pid d0 d1 : Nat) : (s.event cls code o pid d0 d1).sec = s.sec := by
  unfold State.event
  split
  · exact State.islandCount_sec s o.island
  · rfl
@[simp] theorem State.event_srv (cls : Nat) (code : Status) (o : Obs) (pid d0 d1 : Nat) : (s.event cls code o pid d0 d1).srv = s.srv := by
  unfold State.event
  split
  · exact State.islandCount_srv s o.island
  · rfl
@[simp] theorem State.event_sched (cls : Nat) (code : Status) (o : Obs) (pid d0 d1 : Nat) : (s.event cls code o pid d0 d1).sched = s.sched := by
  unfold State.event
  split
  · exact State.islandCount_sched s o.island
  · rfl
@[simp] theorem State.event_xl (cls : Nat) (code : Status) (o : Obs) (pid d0 d1 : Nat) : (s.event cls code o pid d0 d1).xl = s.xl := by
  unfold State.event
  split
  · exact State.islandCount_xl s o.island
  · rfl
@[simp] theorem State.event_fab (cls : Nat) (code : Status) (o : Obs) (pid d0 d1 : Nat) : (s.event cls code o pid d0 d1).fab = s.fab := by
  unfold State.event
  split
  · exact State.islandCount_fab s o.island
  · rfl
@[simp] theorem State.event_stk (cls : Nat) (code : Status) (o : Obs) (pid d0 d1 : Nat) : (s.event cls code o pid d0 d1).stk = s.stk := by
  unfold State.event
  split
  · exact State.islandCount_stk s o.island
  · rfl
@[simp] theorem State.event_clusters (cls : Nat) (code : Status) (o : Obs) (pid d0 d1 : Nat) : (s.event cls code o pid d0 d1).clusters = s.clusters := by
  unfold State.event
  split
  · exact State.islandCount_clusters s o.island
  · rfl
@[simp] theorem State.event_cores (cls : Nat) (code : Status) (o : Obs) (pid d0 d1 : Nat) : (s.event cls code o pid d0 d1).cores = s.cores := by
  unfold State.event
  split
  · exact State.islandCount_cores s o.island
  · rfl
@[simp] theorem State.event_sets (cls : Nat) (code : Status) (o : Obs) (pid d0 d1 : Nat) : (s.event cls code o pid d0 d1).sets = s.sets := by
  unfold State.event
  split
  · exact State.islandCount_sets s o.island
  · rfl
@[simp] theorem State.event_mem (cls : Nat) (code : Status) (o : Obs) (pid d0 d1 : Nat) : (s.event cls code o pid d0 d1).mem = s.mem := by
  unfold State.event
  split
  · exact State.islandCount_mem s o.island
  · rfl
@[simp] theorem State.event_poison (cls : Nat) (code : Status) (o : Obs) (pid d0 d1 : Nat) : (s.event cls code o pid d0 d1).poison = s.poison := by
  unfold State.event
  split
  · exact State.islandCount_poison s o.island
  · rfl
@[simp] theorem State.event_upsets (cls : Nat) (code : Status) (o : Obs) (pid d0 d1 : Nat) : (s.event cls code o pid d0 d1).upsets = s.upsets := by
  unfold State.event
  split
  · exact State.islandCount_upsets s o.island
  · rfl
@[simp] theorem State.event_stuck (cls : Nat) (code : Status) (o : Obs) (pid d0 d1 : Nat) : (s.event cls code o pid d0 d1).stuck = s.stuck := by
  unfold State.event
  split
  · exact State.islandCount_stuck s o.island
  · rfl
@[simp] theorem State.event_transfers (cls : Nat) (code : Status) (o : Obs) (pid d0 d1 : Nat) : (s.event cls code o pid d0 d1).transfers = s.transfers := by
  unfold State.event
  split
  · exact State.islandCount_transfers s o.island
  · rfl
@[simp] theorem State.event_recent (cls : Nat) (code : Status) (o : Obs) (pid d0 d1 : Nat) : (s.event cls code o pid d0 d1).recent = s.recent := by
  unfold State.event
  split
  · exact State.islandCount_recent s o.island
  · rfl
@[simp] theorem State.event_seqs (cls : Nat) (code : Status) (o : Obs) (pid d0 d1 : Nat) : (s.event cls code o pid d0 d1).seqs = s.seqs := by
  unfold State.event
  split
  · exact State.islandCount_seqs s o.island
  · rfl
@[simp] theorem State.event_nextSeq (cls : Nat) (code : Status) (o : Obs) (pid d0 d1 : Nat) : (s.event cls code o pid d0 d1).nextSeq = s.nextSeq := by
  unfold State.event
  split
  · exact State.islandCount_nextSeq s o.island
  · rfl
@[simp] theorem State.event_answers (cls : Nat) (code : Status) (o : Obs) (pid d0 d1 : Nat) : (s.event cls code o pid d0 d1).answers = s.answers := by
  unfold State.event
  split
  · exact State.islandCount_answers s o.island
  · rfl
@[simp] theorem State.event_transit (cls : Nat) (code : Status) (o : Obs) (pid d0 d1 : Nat) : (s.event cls code o pid d0 d1).transit = s.transit := by
  unfold State.event
  split
  · exact State.islandCount_transit s o.island
  · rfl
@[simp] theorem State.event_out (cls : Nat) (code : Status) (o : Obs) (pid d0 d1 : Nat) : (s.event cls code o pid d0 d1).out = s.out := by
  unfold State.event
  split
  · exact State.islandCount_out s o.island
  · rfl

/-! ### idle -/

@[simp] theorem State.idle_pending : (s.idle).pending = s.pending := by
  unfold State.idle
  split <;> rfl
@[simp] theorem State.idle_fuses : (s.idle).fuses = s.fuses := by
  unfold State.idle
  split <;> rfl
@[simp] theorem State.idle_flash : (s.idle).flash = s.flash := by
  unfold State.idle
  split <;> rfl
@[simp] theorem State.idle_mgmt : (s.idle).mgmt = s.mgmt := by
  unfold State.idle
  split <;> rfl
@[simp] theorem State.idle_gram : (s.idle).gram = s.gram := by
  unfold State.idle
  split <;> rfl
@[simp] theorem State.idle_pwr : (s.idle).pwr = s.pwr := by
  unfold State.idle
  split <;> rfl
@[simp] theorem State.idle_thm : (s.idle).thm = s.thm := by
  unfold State.idle
  split <;> rfl
@[simp] theorem State.idle_sec : (s.idle).sec = s.sec := by
  unfold State.idle
  split <;> rfl
@[simp] theorem State.idle_sched : (s.idle).sched = s.sched := by
  unfold State.idle
  split <;> rfl
@[simp] theorem State.idle_xl : (s.idle).xl = s.xl := by
  unfold State.idle
  split <;> rfl
@[simp] theorem State.idle_fab : (s.idle).fab = s.fab := by
  unfold State.idle
  split <;> rfl
@[simp] theorem State.idle_stk : (s.idle).stk = s.stk := by
  unfold State.idle
  split <;> rfl
@[simp] theorem State.idle_clusters : (s.idle).clusters = s.clusters := by
  unfold State.idle
  split <;> rfl
@[simp] theorem State.idle_cores : (s.idle).cores = s.cores := by
  unfold State.idle
  split <;> rfl
@[simp] theorem State.idle_sets : (s.idle).sets = s.sets := by
  unfold State.idle
  split <;> rfl
@[simp] theorem State.idle_mem : (s.idle).mem = s.mem := by
  unfold State.idle
  split <;> rfl
@[simp] theorem State.idle_poison : (s.idle).poison = s.poison := by
  unfold State.idle
  split <;> rfl
@[simp] theorem State.idle_upsets : (s.idle).upsets = s.upsets := by
  unfold State.idle
  split <;> rfl
@[simp] theorem State.idle_stuck : (s.idle).stuck = s.stuck := by
  unfold State.idle
  split <;> rfl
@[simp] theorem State.idle_transfers : (s.idle).transfers = s.transfers := by
  unfold State.idle
  split <;> rfl
@[simp] theorem State.idle_recent : (s.idle).recent = s.recent := by
  unfold State.idle
  split <;> rfl
@[simp] theorem State.idle_seqs : (s.idle).seqs = s.seqs := by
  unfold State.idle
  split <;> rfl
@[simp] theorem State.idle_nextSeq : (s.idle).nextSeq = s.nextSeq := by
  unfold State.idle
  split <;> rfl
@[simp] theorem State.idle_answers : (s.idle).answers = s.answers := by
  unfold State.idle
  split <;> rfl
@[simp] theorem State.idle_transit : (s.idle).transit = s.transit := by
  unfold State.idle
  split <;> rfl
@[simp] theorem State.idle_out : (s.idle).out = s.out := by
  unfold State.idle
  split <;> rfl
@[simp] theorem State.idle_counts : (s.idle).counts = s.counts := by
  unfold State.idle
  split <;> rfl
@[simp] theorem State.idle_clockHeld : (s.idle).clockHeld = s.clockHeld := by
  unfold State.idle
  split <;> rfl
@[simp] theorem State.idle_fresh : (s.idle).fresh = s.fresh := by
  unfold State.idle
  split <;> rfl

/-! ### Units read after a named update -/

@[simp] theorem State.modCore_core_self (c k : Nat) (f : CoreSt → CoreSt) : (s.modCore c k f).core c k = f (s.core c k) := by
  simp [State.modCore, State.core]

theorem State.modCore_core_other {c k c' k' : Nat} (f : CoreSt → CoreSt) (h : 12 * c' + k' ≠ 12 * c + k) :
    (s.modCore c k f).core c' k' = s.core c' k' := by
  exact Tbl.look_upd_other {} f _ h

@[simp] theorem State.modCluster_cluster_self (c : Nat) (f : Cluster → Cluster) :
    (s.modCluster c f).cluster c = f (s.cluster c) := by
  simp [State.modCluster, State.cluster]

theorem State.modCluster_cluster_other {c d : Nat} (f : Cluster → Cluster) (h : d ≠ c) :
    (s.modCluster c f).cluster d = s.cluster d := by
  exact Tbl.look_upd_other {} f _ h

@[simp] theorem State.modStack_stack_self (n : Nat) (f : Stack → Stack) : (s.modStack n f).stack n = f (s.stack n) := by
  simp [State.modStack, State.stack]

theorem State.modStack_stack_other {n m : Nat} (f : Stack → Stack) (h : m ≠ n) : (s.modStack n f).stack m = s.stack m := by
  exact Tbl.look_upd_other {} f _ h

@[simp] theorem State.modChan_chan_self (n ch : Nat) (f : Channel → Channel) :
    (s.modChan n ch f).chan n ch = f (s.chan n ch) := by
  simp [State.modChan, State.chan]

@[simp] theorem State.modPort_port_self (p : Nat) (f : FabPort → FabPort) : (s.modPort p f).port p = f (s.port p) := by
  simp [State.modPort, State.port]

theorem State.modPort_port_other {p q : Nat} (f : FabPort → FabPort) (h : q ≠ p) : (s.modPort p f).port q = s.port q := by
  exact Tbl.look_upd_other {} f _ h

@[simp] theorem State.modFlow_flow_self (p n : Nat) (f : Flow → Flow) : (s.modFlow p n f).flow p n = f (s.flow p n) := by
  simp [State.modFlow, State.flow]

@[simp] theorem State.modPsrv_psrv_self (p : Nat) (f : PartSrv → PartSrv) : (s.modPsrv p f).psrv p = f (s.psrv p) := by
  simp [State.modPsrv, State.psrv]

@[simp] theorem State.modPsched_psched_self (p : Nat) (f : PartSched → PartSched) :
    (s.modPsched p f).psched p = f (s.psched p) := by
  simp [State.modPsched, State.psched]

@[simp] theorem State.modMc_mcEntry_self (e : Nat) (f : McEntry → McEntry) : (s.modMc e f).mcEntry e = f (s.mcEntry e) := by
  simp [State.modMc, State.mcEntry]

@[simp] theorem State.modRing_ring_self (r : Nat) (f : Ring → Ring) : (s.modRing r f).ring r = f (s.ring r) := by
  simp [State.modRing, State.ring]

@[simp] theorem State.modVec_vec_self (v : Nat) (f : Vec → Vec) : (s.modVec v f).vec v = f (s.vec v) := by
  simp [State.modVec, State.vec]

end Sys2Proof.Machine
end

