-- ==== Sys2Proof/Laws/Verbs.lean ====
section
/-!
SUPPORT. What the command of a verb does, said once: it runs the verb's body and marks the verb by the body's answer.
-/

namespace Sys2Proof.Machine

/-- What a verb's command leaves where its body ends: with the verb finished or gone on, waiting, or at fault. -/
def ended (a : Issuer) (e : QEntry) : Except Halt Bool × State → State
  | (.ok done, t) => t.settleVerb a done
  | (.error .wait, t) => t.modEntry a fun x =>
      if x.asked.isEmpty && x.loaded.isEmpty && x.taken ≤ 1 then x else { x with phase := .started }
  | (.error (.fault st), t) => t.verbFault a.c a.k a.q e.id (t.core a.c a.k).trapAddr st

/-- The work of a verb with nothing written yet is its body. -/
theorem work_runs {s : State} {a : Issuer} {e : QEntry} {body : Ctx → VM Bool} (h : e.worked = false) :
    s.work a e body = ended a e ((body { a := a, v := e.verb }).run s) := by
  unfold State.work
  simp only [h]
  generalize (body { a := a, v := e.verb }) = m
  show (match m.run s with
    | (.ok done, s) => _
    | (.error .wait, s) => _
    | (.error (.fault st), s) => _) = _
  rcases m.run s with ⟨(_ | _) | _, t⟩ <;> rfl

/-- Everything the command of a verb that begins can do. -/
theorem issue_runs {s : State} {c k : Nat} {q : Queue} {op : Nat} {u : Upset} {e : QEntry} {starts : Bool}
    {body : Ctx → VM Bool} (h : Begins s c k q op u e starts) :
    s.issue c k q op u body = ended (issuerOf s c k q u e) e ((body (ctxOf s c k q u e)).run (begun s c k q u e starts)) := by
  obtain ⟨h1, h2, h3, h4, h5, h6, h7, h8, h9, h10⟩ := h
  have held (f : CoreSt → CoreSt) : (s.modCore c k f).clusterStopped c = s.clusterStopped c := rfl
  have hw : s.issue c k q op u body = (begun s c k q u e starts).work (issuerOf s c k q u e) e body := by
    unfold struck at h7
    unfold State.issue
    cases starts
    · simp [h1, h2, h3, h4, h7, h8, h9, begun, struck, issuerOf]
    · simp [h1, h2, h3, h4, held, h5 rfl, h6 rfl, h7, h8, h9, begun, struck, issuerOf]
  rw [hw, work_runs h10]
  rfl

/-- A verb whose body answers that it has finished is done, once nothing of it is left. -/
theorem issue_done {s t : State} {c k : Nat} {q : Queue} {op : Nat} {u : Upset} {e : QEntry} {starts : Bool}
    {body : Ctx → VM Bool} (h : Begins s c k q op u e starts)
    (hb : Runs (body (ctxOf s c k q u e)) (begun s c k q u e starts) true t) :
    s.issue c k q op u body = t.done (issuerOf s c k q u e) := by
  unfold Runs at hb
  rw [issue_runs h, hb]
  rfl

/-- A verb whose body answers that it goes on has started. -/
theorem issue_started {s t : State} {c k : Nat} {q : Queue} {op : Nat} {u : Upset} {e : QEntry} {starts : Bool}
    {body : Ctx → VM Bool} (h : Begins s c k q op u e starts)
    (hb : Runs (body (ctxOf s c k q u e)) (begun s c k q u e starts) false t) :
    s.issue c k q op u body = t.modEntry (issuerOf s c k q u e) fun x => { x with phase := .started, worked := false } := by
  unfold Runs at hb
  rw [issue_runs h, hb]
  simp [ended, State.settleVerb]

/-- A verb that starts with its predicate not holding is done at once. -/
theorem issue_skipped {s : State} {c k : Nat} {q : Queue} {op : Nat} {u : Upset} {e : QEntry} {body : Ctx → VM Bool}
    (present : s.corePresent c k = true) (online : (s.core c k).run ≠ .offline) (sound : (s.core c k).halted.get q = false)
    (first : pickVerb q op u.nth ((s.core c k).queues.get q) = some (e, true)) (free : s.clusterStopped c = false)
    (off : e.verb.holds (e.sees (s.core c k)).2 = false) :
    s.issue c k q op u body = (s.modCore c k fun y => { y with trapAddr := 0 }).modEntry (issuerOf s c k q u e) fun x =>
      { x with phase := .done } := by
  have held (f : CoreSt → CoreSt) : (s.modCore c k f).clusterStopped c = s.clusterStopped c := rfl
  unfold State.issue
  simp [present, online, sound, first, held, free, off, issuerOf]

end Sys2Proof.Machine
end

