-- ==== Sys2Proof/Tests/Slice0.lean ====
section
/-!
SUPPORT. Small tests of the model on concrete states: commands that are not well formed, and states and operands that meet the
hypotheses of the statements, clause by clause (`hyp_<obligation>`). Expected values are the manual's.
-/

namespace Sys2Proof.Tests

open Sys2Proof Sys2Proof.Machine

/-! ### Well-formedness: an ill-formed command for each check, which the check refuses -/

theorem test_ill_formed_masters :
    [Instr.registerWrite (.controlCore 16) 0 4 0, .registerWrite (.peer 8 0) 0 4 0, .registerWrite (.peer 0 1024) 0 4 0,
     .registerWrite .companion (2 ^ 24) 4 0, .registerWrite .companion 0 3 0, .registerWrite .companion 0 4 (2 ^ 32),
     .afifoPush .companion 0 0 (2 ^ 64), .phaseCommand (.peer 0 1024) 0, .shutdownOrder (.controlCore 16),
     .pwrOrderWrite .companion 4096, .pwrRecAck .companion (2 ^ 32), .ownerSet (.peer 8 0), .factoryReset .companion (2 ^ 32)].all
      (fun i => !i.wf) = true := by decide

theorem test_ill_formed_units :
    [Instr.resetRelease 64 {} none none, .stackRailsUp 12, .stackRailFault 2, .coreTestDone 16 0 true, .coreTestDone 0 12 true,
     .stackTrainDone 12 (List.replicate 64 0) [], .stackTrainDone 0 (List.replicate 63 0) [], .channelMapout 12 0,
     .channelReturn 0 32, .stackTempSample 12 0, .tgStart 12, .tgRunEnd 0 [(32, 0, [])], .patrolLine 0 32 {}, .rscrubStart 12 0, .rscrubStart 0 (2 ^ 32),
     .rscrubStop 12, .intClrCounts 0 (2 ^ 32), .intClrLog 12, .erasureSet 0 0 32, .erasureSet 0 32 0, .stackTmaxTimeout 12,
     .domainIdleOff 67, .hwTrip 16, .flashSectorErase 32, .ageingMonitorRead 2 true].all (fun i => !i.wf) = true := by decide

theorem test_ill_formed_cores :
    [Instr.nop ⟨16, 0⟩ .m {}, .mma 0 12 {}, .sset ⟨16, 0⟩ {}, .mma 0 0 { corrected := [3] }, .dcopy 0 12 {}, .verbDispatch 16 0 .none, .verbComplete 0 12 .v,
     .coreStart 16 0 0 0, .coreStart 0 12 0 0, .coreStart 0 0 2 0, .coreStart 0 0 0 4096, .coreStop 16 0, .ibLoad 0 0 2,
     .clauseLoadDone 0 0 2 {}, .strapPendClear 0 12, .afifoPush (.controlCore 16) 0 0 0, .afifoPush .companion 16 0 0,
     .tileSend (2 ^ 16), .tileArrival (2 ^ 16) {}, .creditArrival (2 ^ 16), .coreOffline 16 0, .clusterSwitch 16 0,
     .clusterSwitch 0 16, .switchDrainDone 16, .controlCoreAccess 16 (.fence true) {}].all (fun i => !i.wf) = true := by decide

theorem test_ill_formed_memory :
    [Instr.baseDieWrite (.verb 16 0 .m) 0 [], .baseDieWrite (.verb 0 12 .m) 0 [], .baseDieWrite (.cache 16) 0 [],
     .baseDieWrite (.peer 8 0) 0 [], .baseDieWrite (.peer 0 1024) 0 [], .baseDieWrite .device (2 ^ 40) [],
     .wcbEvictTimeout 12 0 0 {}, .wcbEvictTimeout 0 32 0 {}, .baseDieRead (.port 0) (2 ^ 40) {} 0, .baseDieRead (.port (2 ^ 16)) 0 {} 0, .cacheEviction 16 0, .stackPortWake 12,
     .refreshDue 0 32 true, .rowdot 12 0 {}, .combine 0 32 {}, .cancel 12 0, .bsuCancel 0 16 0, .bsuCancel 0 0 (2 ^ 32),
     .sliceBoundary 0 32 0 {}, .refetchBlockDone 64 none {}].all (fun i => !i.wf) = true := by decide

theorem test_ill_formed_serving :
    [Instr.watchedLineInvalidate (.command 16 0) (List.replicate 64 0), .watchedLineInvalidate (.command 0 4096) (List.replicate 64 0),
     .watchedLineInvalidate (.cplHead 16) (List.replicate 64 0), .watchedLineInvalidate (.ringHead 16) (List.replicate 64 0),
     .watchedLineInvalidate (.ringHead 0) [], .nopRecord 16, .submit 16, .promptReadDone 16 none, .srvPeek 4096 0, .srvPeek 0 1024,
     .poolPush 16 0, .poolPush 0 (2 ^ 40), .cmdRingConfig 16 true 0, .cplRingConfig 0 true (2 ^ 64), .acctClr 16 0, .acctClr 0 16,
     .mcLoad 64, .mcEvict 64, .mcTouch 64].all (fun i => !i.wf) = true := by decide

theorem test_ill_formed_links :
    [Instr.linkL0 (2 ^ 16), .configAccess true 4096 4 0, .linkLaneFail 16, .companionRead 3 0 4 {}, .companionWrite 3 0 .relaxed false [],
     .interruptHoldoffEnd 32, .ivUnmask 32, .eventRingConfig 16 true 0, .eventRingConfig 0 true (2 ^ 64), .portLinkUp 8 0 255,
     .portLinkUp 0 4 255, .portLinkUp 0 0 256, .portDownTimeout 8, .flowOpen 8 0, .flowOpen 0 1024, .helloSendTimer 8 0, .frameReceive 8 {},
     .neighborSolicitation 0 (2 ^ 128), .hello 8, .ackTimer 0 1024, .retransmitTimeout 8 0, .portBringupFailure 8 true].all
      (fun i => !i.wf) = true := by decide

theorem test_ill_formed_management :
    [Instr.pmbusAlert 128 0, .pmbusAlert 0 (2 ^ 16), .mctpRead (2 ^ 24), .mctpWrite (2 ^ 24) 0, .mctpWrite 0 (2 ^ 64), .mctpAttest [],
     .mctpReportChunk 8, .telemetryConfig true (2 ^ 64)].all (fun i => !i.wf) = true := by decide

theorem test_well_formed :
    [Instr.registerWrite .companion 0 4 0, .coreStart 15 11 1 4095, .channelMapout 11 31, .flowOpen 7 1023, .resetRelease 63 { lost := [.mapout 11 31] } none none,
     .companionWrite 2 0 .relaxed false [], .hwTrip 15].all Instr.wf = true := by decide

/-! ### States of the tests -/

/-- A state in which firmware runs. -/
def booted (b : BootPhase) : State := { State.reset with mgmt := { State.reset.mgmt with boot := b } }

/-- One partition, number 0, with every core of cluster 0. -/
def image0 : Image :=
  { parts := [{ pid := 0, share := 1000, cores := 4095, quota := 1024 }], served := 1, requests := 16, prefixes := 8, srvModels := 2 }

/-- The device with an image in force and the link up. -/
def live : State :=
  { booted .ready with
    gram := { State.reset.gram with image := some image0, state := .inForce }
    xl := { State.reset.xl with state := .up }
    sched := { State.reset.sched with parts := [(0, { cores := 4095, share := 1000 })] } }

/-- `live` with core 0 of cluster 0 as given. -/
def liveCore (x : CoreSt) : State := { live with cores := [(0, x)] }


/-- A run that answers, and what holds of its answer. -/
def runsTo {α : Type} (m : VM α) (s : State) (p : α → State → Bool) : Bool :=
  match m.run s with
  | (.ok v, t) => p v t
  | _ => false

/-- A run that ends in a fault of status `st`. -/
def faultsWith {α : Type} (m : VM α) (s : State) (st : Status) : Bool :=
  match m.run s with
  | (.error (.fault x), _) => x == st
  | _ => false

theorem runs_of_runsTo {α : Type} {m : VM α} {s : State} {p : α → State → Bool} (h : runsTo m s p = true) :
    ∃ v t, Runs m s v t ∧ p v t = true := by
  unfold runsTo at h
  split at h
  · exact ⟨_, _, ‹_›, h⟩
  · cases h

/-- A 64-byte noun descriptor. -/
def nounBytes (n : Noun) : List Byte :=
  leBytes 8 n.base ++ leBytes 1 n.format ++ leBytes 1 n.rank ++ leBytes 1 n.layout ++ leBytes 1 n.compress ++ leBytes 1 n.scope
    ++ leBytes 1 (b2n n.valid + 2 * b2n n.material + 4 * b2n n.readonly + 8 * n.space) ++ leBytes 1 n.padval ++ leBytes 1 n.planes
    ++ n.extents.flatMap (leBytes 3) ++ n.pads.flatMap (leBytes 1)
    ++ n.strides.flatMap fun x => leBytes 4 (unsigned 32 x)

/-- Descriptors as partition 0's noun table, in memory. -/
def table (ns : List Noun) : List Host.Cell := Memory.writeList [] (nounTablePa 0) (ns.flatMap nounBytes)

/-- `liveCore` with one channel of stack 0 in service, every domain on, and the nouns of partition 0. -/
def liveNouns (x : CoreSt) (ns : List Noun) : State :=
  { liveCore x with
    sets := [[0]]
    stk := [(0, { state := .inService, trained := true, asleep := false })]
    pwr := { (liveCore x).pwr with domOn := 2 ^ 67 - 1 }
    mem := table ns }

/-- A core with one verb waiting in a queue. -/
def coreVerb (q : Queue) (v : Verb) : CoreSt := { ({} : CoreSt) with run := .running, queues := (⟨[], [], [], []⟩ : Quad _).set [{ verb := v }] q }

/-- Whether a verb begins, as `Begins` says it. -/
def begins (s : State) (q : Queue) (op : Nat) (e : QEntry) (starts : Bool) : Bool :=
  s.corePresent 0 0 && decide ((s.core 0 0).run ≠ .offline) && !((s.core 0 0).halted.get q)
    && decide (pickVerb q op 0 ((s.core 0 0).queues.get q) = some (e, starts)) && (!starts || !(s.clusterStopped 0))
    && (!starts || e.verb.holds (e.sees (s.core 0 0)).2) && decide (((struck s 0 0 {}).core 0 0).run ≠ .offline) && !e.worked

theorem begins_of {s : State} {q : Queue} {op : Nat} {e : QEntry} {starts : Bool} (h : begins s q op e starts = true) :
    Begins s 0 0 q op {} e starts := by
  simp only [begins, Bool.and_eq_true, decide_eq_true_eq, Bool.not_eq_true', Bool.or_eq_true] at h
  obtain ⟨⟨⟨⟨⟨⟨⟨h1, h2⟩, h3⟩, h4⟩, h5⟩, h6⟩, h7⟩, h8⟩ := h
  exact ⟨h1, h2, h3, h4, fun e => by simpa [e] using h5, fun e => by simpa [e] using h6, h7, rfl, rfl, h8⟩
/-! ### Hypotheses met: steps, reset, boot, presence, firmware -/

theorem hyp_StepTakesTheFrontCommand :
    ({ State.reset with pending := [.powerLoss, .fwUpdate] } : State).pending = .powerLoss :: [.fwUpdate] := by decide

theorem hyp_IdleBlockOnlyTicks : State.reset.pending = [] := by decide

theorem hyp_ResetsPowerLossAndClocks :
    State.reset.stackPresent 11 = true ∧ (1 < 2) ∧ (booted .firmware).mgmt.boot = .firmware ∧ (booted .ready).mgmt.boot = .ready := by
  decide

theorem hyp_RomBootsAndRestarts :
    State.reset.mgmt.boot = .reset ∧ (booted .firmware).mgmt.boot = .firmware ∧ (booted .ready).mgmt.boot ≠ .reset
    ∧ (booted .ready).mgmt.boot ≠ .firmware ∧ ({ (booted .firmware).xl with perst := false } : Xl).perst = false
    ∧ (booted .firmware).xl.state = .down
    ∧ (0x40 ≤ 0x4F) ∧ (∀ n < 12, (State.reset.stack n).asleep = true) := by decide

/-- The device with physical presence counted. -/
def present : State := { live with sec := { live.sec with presence := true, sampling := true, lowRun := 20 } }

theorem hyp_PresenceAndSealSampled :
    present.sec.sampling = true ∧ present.sec.presence = true ∧ State.reset.sec.sampling = false ∧ State.reset.sec.presence = false
    ∧ (19 ≤ ({ present.sec with lowRun := 19 } : Sec).lowRun) ∧ (({ present.sec with highRun := 18 } : Sec).highRun < 19)
    ∧ (({ present.sec with openRun := 1 } : Sec).openRun ≥ 1) := by decide

theorem hyp_OwnerOperationsNeedPresence :
    present.sec.presence = true ∧ present.flash.sealBroken = false ∧ present.flash.ownerKey = none
    ∧ ({ present with flash := { present.flash with ownerKey := some (List.replicate 57 0) } } : State).flash.ownerKey ≠ none
    ∧ live.sec.presence = false ∧ ({ present with flash := { present.flash with sealBroken := true } } : State).flash.sealBroken = true
    ∧ Master.bmc ≠ .companion ∧ live.sec.fwState ≠ 1
    ∧ ({ live with sec := { live.sec with fwState := 1 } } : State).sec.fwState = 1
    ∧ present.slotStatus present.otherSlot = some Code.fwFormat := by decide

theorem hyp_FusesOnlyRiseByCommit : present.sec.fwState ≠ 1 ∧ present.sec.presence = true ∧ present.flash.sealBroken = false
    ∧ present.fuses.floor ≤ leAt present.mgmt.firmware 0x0C 1 ∧ exec .fwCommit live = .next (match exec .fwCommit live with
      | .next t => t
      | _ => live) := by
  refine ⟨by decide, by decide, by decide, by decide, rfl⟩

/-! ### Hypotheses met: the grammar image -/

/-- A load in progress, with the image's bytes as read. -/
def loading (st : GramState) (j : LoadJob) (s : State) : State := { s with gram := { s.gram with state := st, job := some j } }

/-- A job whose image has passed its checks. -/
def judged (img : Image) : LoadJob := { cmd := 1, image := some img }

theorem hyp_ImageLoadsBegin :
    live.gram.busy = false ∧ (loading .fetch {} live).gram.busy = true ∧ gramLenOk 0x30000 = true ∧ gramLenOk 0x30001 = false
    ∧ (loading .fetch {} live).gram.job = some {} ∧ (loading .fetch {} live).gram.state = .fetch ∧ live.gram.state ≠ .fetch := by decide

theorem hyp_ImageSignersAccepted :
    (loading .verify { bytes := List.replicate 256 0 } live).gram.state = .verify
    ∧ (loading .verify { keyBad := true } live).gram.job = some { keyBad := true } := by decide

theorem hyp_ImageVerifiedAndPartitionMade :
    (loading .verify {} live).gram.job = some {} ∧ (loading .verify {} live).gram.state = .verify
    ∧ signatureGood live.mgmt.firmware none true 0 [] = false ∧ (live.judgeImage []).isSome = true
    ∧ live.defined 0 = true ∧ live.defined 15 = false ∧ live.returning { partial_ := true, target := 1 } = []
    ∧ ({ loading .apply (judged image0) live with gram := { (loading .apply (judged image0) live).gram with testing := [0, 191] } } :
        State).gram.testing.erase (12 * 0 + 0) ≠ [] := by decide

/-- A full image that waits for its stacks. -/
def applying (mapped : Bool) : State :=
  { loading .apply (judged image0) (booted .ready) with
    gram := { (loading .apply (judged image0) (booted .ready)).gram with mapped := mapped } }

theorem hyp_ImagePutInForce :
    (applying true).gram.job.bind (·.image) = some image0 ∧ (applying true).gram.state = .apply ∧ image0.partial_ = false
    ∧ (applying true).gram.mapped = true ∧ (applying true).gram.groupWait = [] ∧ (applying true).stk = []
    ∧ (applying false).gram.mapped = false ∧ live.gram.image ≠ none
    ∧ ({ live with srv := { live.srv with state := 1, ticking := true, tick := 10000 } } : State).srv.tick % live.srvImage.quantum = 0
    ∧ ({ live with srv := { live.srv with state := 1 } } : State).srv.state = 1 ∧ live.srv.state ≠ 1
    ∧ carveFits image0 (quotaSum image0.parts) [] = false
    ∧ ({ live with srv := { live.srv with ticking := true, tick := 1 } } : State).srv.tick % live.srvImage.quantum ≠ 0 := by decide
/-! ### Hypotheses met: cores, dispatch, completion, common and scalar verbs -/

theorem hyp_CoreControlRegisters :
    live.coreRefused 0 0 4 = none ∧ live.coreRefused 15 11 4 = none ∧ live.coreRefused 0 0 0x34 = none
    ∧ live.coreRefused 0 0 0x44 = none ∧ live.coreRefused 0 0 0x24 = none ∧ live.coreRefused 0 0 0x50 = none
    ∧ (live.coreRefused 0 12 4).isSome = true ∧ ((booted .ready).coreRefused 0 0 4).isSome = true
    ∧ Master.companion ≠ .controlCore 0 := by decide

/-- A core whose bank 0 is being loaded from address 0 of its partition, 0 bytes. -/
def loadingBank : State := liveCore { ({} : CoreSt) with ib0 := { ({} : IBank) with state := .loading } }

/-- A core that fetches from bank 0, which holds some verb words. -/
def fetching (words pos : Nat) (es : List QEntry) : State :=
  { liveCore { ({} : CoreSt) with
      run := .running, queues := ⟨es, [], [], []⟩
      ib0 := { ({} : IBank) with state := .ready, words := List.replicate words (List.replicate 16 0) }
      disp := { ({} : Dispatcher) with fetching := true, pos := pos } } with
    pwr := { live.pwr with domOn := 2 ^ 67 - 1 } }

theorem hyp_ClauseBanksDispatch :
    loadingBank.corePresent 0 0 = true ∧ ((loadingBank.core 0 0).bankOf 0).state = .loading
    ∧ (match (loadingBank.strike {}).readClause 0 0 0 0 with
        | (.ok bytes, s1) => decide (s1.judgeClause 0 0 bytes = (.failed Code.clauseInvalid 0, none))
            && decide ((s1.core 0 0).disp.stall = .none)
        | _ => false) = true
    ∧ (fetching 1 0 []).corePresent 0 0 = true ∧ ((fetching 1 0 []).core 0 0).disp.fetching = true
    ∧ ((fetching 1 0 []).core 0 0).disp.stall = .none ∧ (fetching 1 0 []).clusterStopped 0 = false
    ∧ (fetching 1 0 []).domainReady 0 = true ∧ (fetching 1 0 []).domainReady 16 = true
    ∧ (((fetching 1 0 []).core 0 0).bankOf 0).placeable 0 = true
    ∧ (((fetching 1 1 []).core 0 0).bankOf 0).placeable 1 = false
    ∧ ((fetching 1 0 (List.replicate 31 {})).core 0 0).queues.m.length < 32
    ∧ 32 ≤ ((fetching 1 0 (List.replicate 32 {})).core 0 0).queues.m.length := by decide

/-- A core whose queue V holds a JOIN that waits. -/
def joining : State :=
  liveCore { ({} : CoreSt) with
    run := .running, joinLimit := 1, queues := ⟨[], [{ verb := { opcode := 0x41, imm := 1 }, phase := .started }], [], []⟩ }

theorem hyp_QueuesFault :
    Queue.v ≠ .m ∧ joining.corePresent 0 0 = true ∧ (joining.core 0 0).halted.get .v = false ∧ (joining.core 0 0).joinLimit ≠ 0
    ∧ (joining.core 0 0).queues.get .v = { verb := { opcode := 0x41, imm := 1 }, phase := .started } :: []
    ∧ ({ opcode := 0x41, imm := 1 } : Verb).isJoin = true ∧ (live.core 0 0).joinLimit = 0
    ∧ (live.core 0 0).event = false ∧ ((liveCore { ({} : CoreSt) with event := true }).core 0 0).event = true := by decide

/-- A core with one finished verb at the front of a queue. -/
def finished (q : Queue) (v : Verb) (taken : Nat) (f : CoreSt → CoreSt) : State :=
  liveCore (f { ({} : CoreSt) with
    run := .running, queues := (⟨[], [], [], []⟩ : Quad _).set [{ verb := v, phase := .done, taken := taken }] q })

theorem hyp_VerbsComplete :
    let s := finished .v { opcode := 0x48, signal := 15 - 2 } 1 id
    let b := finished .s { opcode := 0x8D } 1 fun x => { x with disp := { x.disp with fetching := true } }
    let n := finished .s { opcode := 0x8F } 1 fun x =>
      { x with disp := { x.disp with fetching := true }, nextValid := true, ib0 := { x.ib0 with state := .ready } }
    s.corePresent 0 0 = true ∧ (s.core 0 0).run ≠ .offline ∧ (s.core 0 0).halted.get .v = false
    ∧ s.outstanding (issuerOf s 0 0 .v {} {}) = false ∧ s.answers = []
    ∧ (((s.core 0 0).queues.get .v).all fun e => e.releases.isEmpty) = true
    ∧ (∀ p < 4, (s.core 0 0).signals.look 0 (4 * queueNum .v + p) ≠ 255)
    ∧ ((finished .v {} 0 fun x => { x with signals := [(4, 254)] }).core 0 0).signals.look 0 4 ≠ 255
    ∧ (s.core 0 0).disp.fetching = false ∧ (s.core 0 0).run = .running
    ∧ ((joining.core 0 0).queues.get .v).head?.map (·.phase) = some .started
    ∧ (b.core 0 0).run = .running ∧ (b.core 0 0).halted.s = false ∧ (b.core 0 0).disp.fetching = true
    ∧ b.outstanding (issuerOf b 0 0 .s {} {}) = false ∧ (n.core 0 0).disp.stop = false ∧ (n.core 0 0).disp.swap = none
    ∧ (n.core 0 0).nextValid = true ∧ ((n.core 0 0).bankOf (n.core 0 0).nextBank).state = .ready := by decide

/-- The one verb of a queue of core 0, as it waits. -/
def waitsIn (q : Queue) (v : Verb) : Bool := begins (liveCore (coreVerb q v)) q v.opcode { verb := v } true

theorem hyp_PredicatesJoinsAndFences :
    waitsIn .m { opcode := 0 } = true ∧ ({} : Form).ok .m { opcode := 0 } = true
    ∧ ({ opcode := 0, predEn := true } : Verb).holds
        (({ verb := { opcode := 0, predEn := true } } : QEntry).sees ((liveCore (coreVerb .m { opcode := 0, predEn := true })).core 0 0)).2
        = false ∧ (liveCore (coreVerb .m { opcode := 0, predEn := true })).clusterStopped 0 = false
    ∧ (live.core 0 0).signals.look 0 (4 * 0 + 1) < ({ opcode := 0x41, imm := 0xFF0000FF } : Verb).waits.getD 0 0
    ∧ pickVerb .d 0xC8 0 [{ verb := { opcode := 0xC8, predEn := true } }] = some ({ verb := { opcode := 0xC8, predEn := true } }, true)
    ∧ waitsIn .v { opcode := 0x41, imm := 0xFF0000FF } = true
    ∧ ({ ext := .no, imm := 0xFFFFFFFF } : Form).ok .v { opcode := 0x41, imm := 0xFF0000FF } = true
    ∧ ({ opcode := 0x41, imm := 0xFF0000FF } : Verb).waits.getD 1 0 = 0
    ∧ waitsIn .d { opcode := 0xC4, scope := 3 } = true ∧ waitsIn .d { opcode := 0xC4, scope := 4 } = true
    ∧ ({ ext := .no, scope := true } : Form).ok .d { opcode := 0xC4, scope := 4 } = true
    ∧ live.sentFailed (live.core 0 0).sent = none ∧ live.sentDone (live.core 0 0).sent = true := by decide

/-- A local-store vector of UINT32. -/
def words (n base : Nat) : Noun :=
  { base := base, format := fmtUINT32, rank := 1, valid := true, space := 1, extents := [n, 0, 0, 0, 0, 0], strides := [1, 0, 0, 0, 0, 0] }

/-- An SLOAD of the second of two words. -/
def sloadVerb : Verb := { opcode := 0x8B, dst := 0xC00F, srca := 0, imm := 1 }

/-- The state an SLOAD starts in, and the verb as an issuer. -/
def sloadState : State := liveNouns (coreVerb .s sloadVerb) [words 2 64]

theorem hyp_ScalarQueueVerbs :
    waitsIn .s { opcode := 0x88, dst := 0xC000, imm := 0xFFFFFFFF } = true
    ∧ parseOperand 0xC000 = .counter 0 ∧ parseOperand 0xC00F = .counter 15
    ∧ (counterForm 0xFFFFFFFF).ok .s { opcode := 0x88, dst := 0xC000, imm := 0xFFFFFFFF } = true
    ∧ waitsIn .s { opcode := 0x8A, dst := 0xC00F, imm := 1 } = true
    ∧ waitsIn .s { opcode := 0x89, dst := 0xC00F } = true ∧ (counterForm 0).ok .s { opcode := 0x89, dst := 0xC00F } = true
    ∧ waitsIn .s { opcode := 0x8C, srca := 0xC000, mode := 0x7D } = true
    ∧ ({ srca := kCounter, srcb := kCounter + kNone, mode := 0x7F, imm := 0xFFFFFFFF, ext := .no } : Form).ok .s
        { opcode := 0x8C, srca := 0xC000, mode := 0x7D } = true ∧ bits 0x7D 0 3 ≤ 5
    ∧ waitsIn .s { opcode := 0x8D } = true ∧ waitsIn .s { opcode := 0x8E } = true ∧ jumpForm.ok .s { opcode := 0x8D, imm := 4095 } = true
    ∧ waitsIn .s { opcode := 0x8F } = true ∧ ({ ext := .no } : Form).ok .s { opcode := 0x8F } = true
    ∧ waitsIn .s { opcode := 0x90, imm := 7 } = true ∧ (live.core 0 0).strapPend = false
    ∧ ((liveCore { ({} : CoreSt) with strapPend := true }).core 0 0).strapPend = true := by decide

theorem hyp_ScalarLoad :
    begins sloadState .s 0x8B { verb := sloadVerb } true = true
    ∧ ({ dst := kCounter, srca := kNoun, imm := 0xFFFFFFFF } : Form).ok .s sloadVerb = true
    ∧ runsTo (flatNoun (ctxOf sloadState 0 0 .s {} { verb := sloadVerb }) 0 0 {})
        (begun sloadState 0 0 .s {} { verb := sloadVerb } true) (fun v s1 =>
          decide (v.noun.layout = 0) && decide (v.noun.format = fmtUINT32) && decide (1 < v.noun.count)
          && runsTo (readElems (ctxOf sloadState 0 0 .s {} { verb := sloadVerb }).a v v.noun.path [unlinear v.noun.exts 1]) s1
              (fun raws _ => decide (raws = [0]))) = true := by decide +kernel
/-! ### Hypotheses met: the verbs of the four queues

A verb waits alone on its queue; its operands are small nouns of the local store, described in partition 0's table. `start` is the
state in which the verb's work is done and `ctx` the verb with its issuer, as the statements name them. -/

/-- The state, before its command, in which a verb waits and some nouns are described. -/
def waiting (q : Queue) (v : Verb) (ns : List Noun) : State := liveNouns (coreVerb q v) ns

def start (q : Queue) (v : Verb) (ns : List Noun) : State := begun (waiting q v ns) 0 0 q {} { verb := v } true

def ctx (q : Queue) (v : Verb) (ns : List Noun) : Ctx := ctxOf (waiting q v ns) 0 0 q {} { verb := v }

def starts (q : Queue) (v : Verb) (ns : List Noun) : Bool := begins (waiting q v ns) q v.opcode { verb := v } true

/-- The verb's command leaves it done. -/
def isDone (i : Instr) (q : Queue) (v : Verb) (ns : List Noun) : Bool :=
  match exec i (waiting q v ns) with
  | .next t => decide (((t.core 0 0).queues.get q).map (·.phase) = [.done])
  | _ => false

/-- A vector of the local store. -/
def vec (fmt n base : Nat) : Noun :=
  { base := base, format := fmt, rank := 1, valid := true, space := 1, extents := [n, 0, 0, 0, 0, 0], strides := [1, 0, 0, 0, 0, 0] }

/-- A matrix of the local store, dense in layout 0. -/
def mat (fmt n m base : Nat) : Noun :=
  { base := base, format := fmt, rank := 2, valid := true, space := 1, extents := [n, m, 0, 0, 0, 0], strides := [1, n, 0, 0, 0, 0] }

/-- One INT8 element in layout 4. -/
def plane (base : Nat) : Noun :=
  { base := base, format := fmtINT8, rank := 2, layout := 4, valid := true, space := 1, extents := [1, 1, 0, 0, 0, 0],
    strides := [1, 512, 0, 0, 0, 0] }

/-- A BIND of port 3 as a consumer of the serving controller, four slots of 256 bytes. -/
def bindVerb (mode : Nat) : Verb := { opcode := 0xC2, dst := 0x4003, srca := 0, mode := mode, imm := 0xC000 }

theorem hyp_StreamPortsBound_bind :
    starts .d (bindVerb 1) [mat fmtUINT32 64 4 0] = true ∧ parseOperand 0x4003 = .port 3 false ∧ parseOperand 0 = .noun 0
    ∧ ({ dst := kPort, srca := kNoun, mode := 3, imm := 0xFFFF, ext := .no } : Form).ok .d (bindVerb 1) = true
    ∧ ((start .d (bindVerb 1) [mat fmtUINT32 64 4 0]).entry (ctx .d (bindVerb 1) []).a).badName = false
    ∧ runsTo (useNoun (ctx .d (bindVerb 1) []) 0 0 { written := true }) (start .d (bindVerb 1) [mat fmtUINT32 64 4 0]) (fun v s1 =>
        bindShapeOk true 0xC000 v.noun && !((s1.core 0 0).port 3).producer && !((s1.core 0 0).port 3).consumer
        && decide (s1.reach 0 0xC000 = none) && decide (station 0xC000 = .serving 0)) = true
    ∧ runsTo (useNoun (ctx .d (bindVerb 0) []) 0 0 {}) (start .d (bindVerb 0) [mat fmtUINT32 64 4 0]) (fun v s1 =>
        bindShapeOk false 0xC000 v.noun && decide (s1.reach 0 0xC000 = none)) = true := by decide +kernel

/-- A core with an UNBIND of port 3 and that port as given. -/
def unbinding (p : Port) (ph : VerbPhase) : State :=
  liveCore { ({} : CoreSt) with
    run := .running, ports := [(3, p)]
    queues := ⟨[], [], [], [{ verb := { opcode := 0xC3, dst := 0x4003 }, phase := ph }]⟩ }

theorem hyp_StreamPortsBound_unbind :
    begins (unbinding {} .waiting) .d 0xC3 { verb := { opcode := 0xC3, dst := 0x4003 } } true = true
    ∧ ({ dst := kPort, ext := .no } : Form).ok .d { opcode := 0xC3, dst := 0x4003 } = true
    ∧ begins (unbinding { consumer := true, peer := 0xC000 } .started) .d 0xC3
        { verb := { opcode := 0xC3, dst := 0x4003 }, phase := .started } false = true
    ∧ (let u := unbinding { producer := true, queue := .d } .waiting
       begins u .d 0xC3 { verb := { opcode := 0xC3, dst := 0x4003 } } true = true ∧ ((u.core 0 0).port 3).producer = true
       ∧ ((u.core 0 0).port 3).queue = .d ∧ ((u.core 0 0).port 3).staged = [] ∧ ((u.core 0 0).port 3).unacked = [])
    ∧ (((unbinding { producer := true } .waiting).core 0 0).port 3).queue ≠ .d
    ∧ (((unbinding { producer := true, queue := .d, staged := [(0, [])] } .waiting).core 0 0).port 3).staged ≠ []
    ∧ (((unbinding { producer := true, queue := .d, unacked := [0] } .waiting).core 0 0).port 3).unacked ≠ []
    ∧ (let u := unbinding { consumer := true, peer := 0xC000, queue := .d, revoking := true } .started
       begins u .d 0xC3 { verb := { opcode := 0xC3, dst := 0x4003 }, phase := .started } false = true
       ∧ ((u.core 0 0).port 3).consumer = true ∧ ((u.core 0 0).port 3).queue = .d ∧ ((u.core 0 0).port 3).revoking = true)
    ∧ (match station 0xBC00 with | .xomon _ => true | _ => false) = true
    ∧ station 0xC000 = .serving 0 ∧ (match station 0x9000 with | .flow _ _ => true | _ => false) = true := by decide +kernel

def mmaVerb (mode : Nat) : Verb := { opcode := 0x08, dst := 0x8000, srca := 0, srcb := 1, mode := mode }

theorem hyp_MatrixVerbs_multiply :
    starts .m (mmaVerb 0) [plane 0, plane 4096] = true ∧ mmaForm.ok .m (mmaVerb 0) = true
    ∧ runsTo (do
        let a ← given (← useSource (ctx .m (mmaVerb 0) []) 0 0 {})
        let b ← given (← useSource (ctx .m (mmaVerb 0) []) 1 0 {})
        pure (a, b, ← useScale (ctx .m (mmaVerb 0) []) 0xFFFF, ← useScale (ctx .m (mmaVerb 0) []) 0xFFFF))
        (start .m (mmaVerb 0) [plane 0, plane 4096]) (fun (a, b, xa, xb) s1 =>
          decide (mmaClass a.fmt b.fmt = some (.int32, false, false)) && loadable a.view.noun && loadable b.view.noun
          && decide (a.mext 0 = b.mext 1) && scaleFits a xa true && scaleFits b xb false && decide ((banksOf 0x8000).length = 1)
          && runsTo (do pure (← load (ctx .m (mmaVerb 0) []) a xa true, ← load (ctx .m (mmaVerb 0) []) b xb false)) s1
              fun _ _ => true) = true
    ∧ (((start .m (mmaVerb 0) []).aheadOf (ctx .m (mmaVerb 0) []).a).any fun e => e.mmaInFlight) = false
    ∧ ({ consumer := true, arrived := 1 } : Port).arrived ≠ 0
    ∧ bit 2 1 = true ∧ banksOf 0x803F = [] ∧ banksOf 0x8038 = [0, 1, 2, 3, 4, 5, 6, 7] := by decide +kernel

/-- A core that drains bank 0, of kind INT32, into a noun. -/
def drainVerb : Verb := { opcode := 0x09, dst := 0, srca := 0x8000 }
def draining : State :=
  liveNouns { coreVerb .m drainVerb with banks := [(0, { kind := .int32 })] } [mat fmtINT32 1 1 0]

theorem hyp_MatrixVerbs_drain :
    begins draining .m 0x09 { verb := drainVerb } true = true ∧ mdrainForm.ok .m drainVerb = true
    ∧ runsTo (do given (← useDest (ctxOf draining 0 0 .m {} { verb := drainVerb }) 0 0 {}))
        (begun draining 0 0 .m {} { verb := drainVerb } true) (fun d s1 =>
          decide (d.view.noun.rank = 2) && decide (d.view.noun.layout ≠ 4) && drainOk .int32 d.fmt 0
          && decide (((s1.core 0 0).banks.look {} 0).kind = .int32)
          && runsTo (writeTensor (ctxOf draining 0 0 .m {} { verb := drainVerb }) d [([0, 0], 0)] true)
              (s1.drainAll 0 0 .int32 d.fmt .ne [placeOf 0 1 0 0]).2 fun _ s2 =>
                let a := (ctxOf draining 0 0 .m {} { verb := drainVerb }).a
                ((s2.modEntry a fun y => { y with clear := [0] }).entry a).clear == [0] && (s2.entry a).todo.isEmpty
                && !(s2.entry a).unanswered && (s2.entry a).clear.isEmpty) = true := by decide +kernel

theorem hyp_MatrixVerbs_zero :
    starts .m { opcode := 0x0A, dst := 0x8038 } [] = true
    ∧ ({ dst := kAcc, ext := .no } : Form).ok .m { opcode := 0x0A, dst := 0x8038 } = true ∧ 7 ∈ banksOf 0x8038 ∧ 8 ∉ banksOf 0x8038 := by
  decide +kernel

/-- A VMAP of FUNC over FP32 vectors of two elements; handles 1, 2 and 3 name the sources. -/
def vmapVerb (func a b c : Nat) : Verb := { opcode := 0x48, mode := func, dst := 0, srca := a, srcb := b, srcc := c }
def vmapNouns : List Noun := [vec fmtFP32 2 0, vec fmtFP32 2 64, vec fmtFP32 2 128, vec fmtFP32 2 192]
def intNouns : List Noun := [vec fmtINT32 2 0, vec fmtINT32 2 64, vec fmtINT32 2 128]

theorem hyp_VectorMapsAndReductions_map :
    starts .v (vmapVerb 2 1 2 0xFFFF) vmapNouns = true ∧ vmapForm.ok .v (vmapVerb 2 1 2 0xFFFF) = true
    ∧ funcSources 2 = some (2, true) ∧ funcSources 5 = some (3, true)
    ∧ isDone (.vmap 0 0 {}) .v (vmapVerb 2 1 2 0xFFFF) vmapNouns = true
    ∧ isDone (.vmap 0 0 {}) .v (vmapVerb 5 1 2 3) vmapNouns = true
    ∧ isDone (.vmap 0 0 {}) .v (vmapVerb 0x30 1 2 0xFFFF) intNouns = true
    ∧ isDone (.vmap 0 0 {}) .v (vmapVerb 0x40 0xFFFF 0xFFFF 0xFFFF) vmapNouns = true := by decide +kernel

/-- MX elements of FP4 in a block of 32, and their scale. -/
def mxNouns : List Noun := [vec 7 32 0, vec fmtFP32 32 1024, vec fmtE8M0 1 512]

theorem hyp_VectorMapsAndReductions_blocks :
    isDone (.vmap 0 0 {}) .v (vmapVerb 0x39 1 2 0xFFFF) mxNouns = true
    ∧ isDone (.vmap 0 0 {}) .v { vmapVerb 0x3A 0 2 0xFFFF with dst := 1 } mxNouns = true := by decide +kernel

def vredVerb (mode : Nat) : Verb := { opcode := 0x49, mode := mode, dst := 0, srca := 1 }

theorem hyp_VectorMapsAndReductions_reduce :
    starts .v (vredVerb 0) [vec fmtFP32 1 0, vec fmtFP32 3 64] = true ∧ vredForm.ok .v (vredVerb 5) = true
    ∧ isDone (.vred 0 0 {}) .v (vredVerb 1) [vec fmtFP32 1 0, vec fmtFP32 3 64] = true
    ∧ isDone (.vred 0 0 {}) .v (vredVerb 3) [vec fmtUINT32 1 0, vec fmtFP32 3 64] = true := by decide +kernel

/-- The operands of a row verb decode, and its source reads. What it then writes are values within bounds, which nothing here fixes. -/
def rowReads (q : Queue) (v : Verb) (ns : List Noun) : Bool :=
  starts q v ns && runsTo (do
    let x := ctx q v []
    let d ← given (← useDest x v.dst v.offsDst {})
    let a ← given (← useSource x v.srca v.offsA {})
    let b ← useSource x v.srcb v.offsB {}
    let c ← useSource x v.srcc v.offsC { written := v.opcode == 0x4A }
    let raws ← readTensor x a (indices a.exts)
    pure (d, a, b, c, raws)) (start q v ns) fun (d, a, b, c, raws) _ =>
      vectorLayouts (d :: a :: [b, c].filterMap id) && vectorFormat a.fmt && vectorFormat d.fmt && decide (a.fmt ≠ fmtFP64)
      && decide (raws.length = a.count)

theorem hyp_VectorRowVerbs :
    rowReads .v { opcode := 0x4A, dst := 0, srca := 1 } [mat fmtFP32 2 1 0, mat fmtFP32 2 1 64] = true
    ∧ rowReads .v { opcode := 0x4A, mode := 1, dst := 0, srca := 1, srcc := 2 }
        [mat fmtFP32 2 1 0, mat fmtFP32 2 1 64, mat fmtFP32 2 1 128] = true
    ∧ vsmaxForm.ok .v { opcode := 0x4A, mode := 1, dst := 0, srca := 1, srcc := 2, imm := 0xFFFFFFFF } = true
    ∧ rowReads .v { opcode := 0x4B, mode := 1, dst := 0, srca := 1, srcb := 2, srcc := 2 }
        [vec fmtFP32 2 0, vec fmtFP32 2 64, vec fmtFP32 2 128] = true
    ∧ vnormForm.ok .v { opcode := 0x4B, mode := 1, dst := 0, srca := 1, srcb := 2, srcc := 2 } = true
    ∧ isDone (.vsample 0 0 {}) .v { opcode := 0x4C, mode := 1, dst := 0, srca := 1 } [vec fmtUINT32 1 0, mat fmtFP32 2 1 64] = true
    ∧ rowReads .v { opcode := 0x4C, dst := 0, srca := 1, srcb := 2, imm := 1 }
        [vec fmtUINT32 1 0, mat fmtFP32 2 1 64, vec fmtFP32 1 128] = true
    ∧ vsampleForm.ok .v { opcode := 0x4C, dst := 0, srca := 1, srcb := 2, imm := 1 } = true := by decide +kernel

theorem hyp_CopiesAndFlushes :
    isDone (.dcopy 0 0 {}) .d { opcode := 0xC8, dst := 0, srca := 1 } [vec fmtFP32 2 0, vec fmtFP32 2 64] = true
    ∧ (dcopyForm { opcode := 0xC8, dst := 0, srca := 1 }).ok .d { opcode := 0xC8, dst := 0, srca := 1 } = true
    ∧ isDone (.dflush 0 0 {}) .d { opcode := 0xCC, srca := 0, mode := 1 } [vec fmtFP32 2 0] = true
    ∧ ({ srca := kNoun, mode := 1 } : Form).ok .d { opcode := 0xCC, srca := 0, mode := 1 } = true
    ∧ (let v : Verb := { opcode := 0xCC, srca := 0 }
       let n : Noun := { vec fmtFP32 2 0 with space := 0 }
       runsTo (flatNoun (ctx .d v []) 0 0 {}) (start .d v [n]) fun w _ => decide (w.noun.space = 0)) = true
    ∧ ({ srca := kNoun, mode := 0x1F, imm := 0xFFFF, ext := .no } : Form).ok .d { opcode := 0xCB, srca := 0, mode := 6, imm := 1 } = true
    ∧ starts .d { opcode := 0xCB, srca := 0, mode := 6, imm := 1 } [vec fmtUINT32 16 0] = true ∧ bits 6 0 4 ≤ 6 := by decide +kernel

/-- A DSCATTER of one word into a table of one, with the index 1, which lies beyond it. -/
def beyond (mode : Nat) : State :=
  let v : Verb := { opcode := 0xCA, dst := 0, srca := 1, srcb := 2, mode := mode }
  liveNouns { coreVerb .d v with localStore := [(128, 1)] } [vec fmtUINT32 1 0, vec fmtUINT32 1 64, vec fmtUINT32 1 128]

theorem hyp_GathersAndScatters :
    isDone (.dgather 0 0 {}) .d { opcode := 0xC9, dst := 0, srca := 1, srcb := 2 }
      [vec fmtFP32 1 0, vec fmtFP32 4 64, vec fmtUINT32 1 128] = true
    ∧ isDone (.dgather 0 0 {}) .d { opcode := 0xC9, dst := 0, srca := 1, srcb := 2, mode := 8 }
      [vec fmtFP32 1 0, vec fmtFP32 4 64, vec fmtINT32 1 128] = true
    ∧ (match exec (.dscatter 0 0 {}) (beyond 8) with
        | .next t => decide ((t.core 0 0).queues.d.map (·.phase) = [.done])
        | _ => false) = true
    ∧ (match exec (.dscatter 0 0 {}) (beyond 0) with
        | .next t => decide ((t.core 0 0).qfault.d.status = Code.indexRange)
        | _ => false) = true
    ∧ (dscatterForm { opcode := 0xCA, dst := 0, srca := 1, srcb := 2, mode := 0x18 }).ok .d
        { opcode := 0xCA, dst := 0, srca := 1, srcb := 2, mode := 0x18 } = true := by decide +kernel

theorem hyp_AtomicsAndCheckValueUnit :
    isDone (.datom 0 0 {}) .d { opcode := 0xCD, dst := 0xC000, srca := 0, imm := 5, mode := 1 } [vec fmtUINT32 1 0] = true
    ∧ datomForm.ok .d { opcode := 0xCD, dst := 0xC000, srca := 0, imm := 5, mode := 1 } = true
    ∧ (let v : Verb := { opcode := 0xCE, srca := 0 }
       starts .d v [vec fmtUINT32 8 0] && ({ srca := kNoun, ext := .no } : Form).ok .d v
       && runsTo (flatNoun (ctx .d v []) 0 0 {}) (start .d v [vec fmtUINT32 8 0]) fun w s1 =>
         decide (w.noun.count * w.noun.w = 256)
         && runsTo (readElems (ctx .d v []).a w w.noun.path (indices w.noun.exts)) s1 fun raws _ => decide (raws.length = 8)) = true
    ∧ (parseCv (leBytes 32 0)).isNone = true ∧ (parseCv (leBytes 24 0 ++ [64, 3, 0, 0, 0, 0, 0, 0])).isSome = true := by decide +kernel

/-- A DATOM of core 0, its entry as given, on one local-store word. -/
def atomVerb : Verb := { opcode := 0xCD, dst := 0xC000, srca := 0, imm := 5, mode := 1 }
def datomWith (e : QEntry) : State :=
  liveNouns { ({} : CoreSt) with run := .running, queues := ⟨[], [], [], [e]⟩ } [vec fmtUINT32 1 0]

theorem hyp_AtomicsAndCheckValueUnit_answers :
    (let e : QEntry := { verb := atomVerb, phase := .started, old := some 3, asked := [7] }
     begins (datomWith e) .d 0xCD e false = true
     ∧ runsTo (takeOld (ctxOf (datomWith e) 0 0 .d {} e) 3) (begun (datomWith e) 0 0 .d {} e false) (fun _ _ => true) = true)
    ∧ (let e : QEntry := { verb := atomVerb, phase := .started, asked := [7] }
       begins (datomWith e) .d 0xCD e false = true
       ∧ ((begun (datomWith e) 0 0 .d {} e false).entry (ctxOf (datomWith e) 0 0 .d {} e).a).asked ≠ [])
    ∧ runsTo (datomStart (ctxOf (datomWith { verb := atomVerb }) 0 0 .d {} { verb := atomVerb }))
        (begun (datomWith { verb := atomVerb }) 0 0 .d {} { verb := atomVerb } true) (fun r s1 => r == some 0
          && runsTo (takeOld (ctxOf (datomWith { verb := atomVerb }) 0 0 .d {} { verb := atomVerb }) 0) s1 fun _ _ => true) = true
    ∧ (let a : Issuer := { c := 0, k := 0, q := .d, id := 0, pid := 0 }
       let r : Recent := { spot := .localStore 0 0, writer := .verb 1 0 .d, scope := 0, tag := 0, before := 9 }
       runsTo (localRead a 0 0 0 4) { live with recent := [r] } (fun _ s1 =>
         s1.recent.find? (fun r => r.spot == .localStore 0 0 && !(mutuallyAtomic a.writer 1 r.writer r.scope)) == some r) = true
       ∧ mutuallyAtomic a.writer 1 (.verb 0 1 .d) 1 = true) := by decide +kernel

/-- A DAK2 of one block, its entry as given. -/
def streaming (taken : Nat) (fifo : List Nat) : QEntry × State :=
  let e : QEntry := { verb := { opcode := 0xCB, srca := 0, mode := 6, imm := 1 }, phase := .started, taken := taken }
  (e, liveNouns { ({} : CoreSt) with run := .running, afifo := fifo, queues := ⟨[], [], [], [e]⟩ } [vec fmtUINT32 1024 0])

theorem hyp_CopiesAndFlushes_streams :
    (let (e, s) := streaming 2 []
     begins s .d 0xCB e false = true
     ∧ runsTo (flatNoun (ctxOf s 0 0 .d {} e) 0 0 { written := true }) (begun s 0 0 .d {} e false) (fun v s1 =>
         decide ((v.footprint none).1 + 1 * 4096 ≤ (v.footprint none).2 + 1) && (s1.core 0 0).afifo.isEmpty
         && decide (1 ≤ (s1.entry (issuerOf s 0 0 .d {} e)).taken - 1)) = true)
    ∧ (let (e, s) := streaming 1 []
       (begun s 0 0 .d {} e false).entry (issuerOf s 0 0 .d {} e) |>.taken - 1 |> (· < 1))
    ∧ (let s : State := { live with clusters := [(0, { cache := [(9, { dirty := 1, back := 1 })] })] }
       s.writingBack 0 9 = true ∧ s.writingBack 0 8 = false) := by decide +kernel
/-! ### Hypotheses met: tiles, lines, stacks -/

/-- Core 0's port 0 as a producer for the serving controller's port 0. -/
def producing (p : Port) : State := liveCore { ({} : CoreSt) with run := .running, ports := [(0, p)] }

/-- A consumer port of core 0 with one slot of a 128-byte tile, bound to core 1 of cluster 0. -/
def consuming (transit : List Transit) : State :=
  { liveNouns { ({} : CoreSt) with
      run := .running
      ports := [(0, { consumer := true, peer := coreStation 0 1, noun := mat fmtUINT32 32 1 0 })] } [] with transit := transit }

def zeroTile : List Byte := List.replicate 128 0

theorem hyp_TilesAndCreditsTravel_leave :
    (producing { producer := true, peer := 0xC000, staged := [(0, zeroTile)] }).stationPort (coreStation 0 0)
      = some { producer := true, peer := 0xC000, staged := [(0, zeroTile)] }
    ∧ ((producing { producer := true, peer := 0xC000 }).stationPid (coreStation 0 0) 0).bind
        (fun pid => (producing {}).reach pid 0xC000) = none
    ∧ ((producing { producer := true, peer := 0x4000 }).stationPid (coreStation 0 0) 0).bind
        (fun pid => (producing {}).reach pid 0x4000) = some Code.stationForeign
    ∧ ({ credits := [(0xC000, 1)] } : Port).credits.look 0 0xC000 ≠ 0 ∧ station 0xC000 = .serving 0
    ∧ station 0x9411 = .flow 5 17 := by decide +kernel

theorem hyp_TilesAndCreditsTravel_arrive :
    takeTile 0 (consuming [.tile (coreStation 0 1) 0 zeroTile]).transit = some ((coreStation 0 1, zeroTile), [])
    ∧ station 0 = .core 0 0 0 ∧ ((consuming []).core 0 0).run ≠ .offline ∧ (((consuming []).core 0 0).port 0).consumer = true
    ∧ (((consuming []).core 0 0).port 0).peer = coreStation 0 1 ∧ zeroTile.length = (((consuming []).core 0 0).port 0).tileBytes
    ∧ (let p := ((consuming []).core 0 0).port 0
       let a : Issuer := { c := 0, k := 0, q := p.queue, id := 0, pid := 0, direct := true }
       let landed (p : Port) : VM Bool := do
         writeLines a p.noun.path (p.tileLines zeroTile)
         change fun s => s.modCore 0 0 fun y =>
           { y.modPort 0 fun p => { p with landing := some 0 } with disp := { y.disp with nextId := 1 } }
         tileLanded a p.noun.path
       let from_ := ((consuming []).strike {}).modCore 0 0 fun y => { y with trapAddr := 0 }
       p.landing = none ∧ runsTo (landed p) from_ (fun done _ => done) = true
       ∧ faultsWith (landed { p with noun := { p.noun with space := 0 } }) from_ Code.transFault = true)
    ∧ ((liveCore { ({} : CoreSt) with run := .offline }).core 0 0).run = .offline
    ∧ station 0x4000 = .unit 0 0 0 ∧ bits (coreStation 0 1) 6 10 = 1 := by decide +kernel

theorem hyp_TilesAndCreditsTravel_result :
    let g : Group := { pid := 0 }
    let s : State := { live with srv := { live.srv with groups := [(0, g)], ports := [(0, { producer := true, peer := 64 })] } }
    station 0xC000 = .serving 0 ∧ bits (s.srv.ports.look {} 0).peer 6 10 = bits 64 6 10
    ∧ ((({ s with transit := [] } : State).ackTile 64).sendCredit (pidField (s.stationPid 64 0)) (0xC000 + 0) 64).srv.groups.seek (leAt zeroTile 0 4) = some g
    ∧ g.port = 0 := by decide +kernel

theorem hyp_TilesAndCreditsTravel_credits :
    takeCredit 0 [.credit 0xC000 0] = some (0xC000, []) ∧ station (coreStation 0 0 + 47) = .core 0 0 47
    ∧ takeRevoke (coreStation 0 0) [.credit 1 0, .revoke 64 0] = some (64, [.credit 1 0]) ∧ takeTile 0 [] = none
    ∧ ((live.core 0 0).port 0).staged = [] := by decide +kernel

/-- The channel of stack 0 in service, with nothing else. -/
def serving : State := liveNouns {} []

theorem hyp_LinesWrittenAndRead :
    serving.locate (64 * 63) = .cell 0 4032 ∧ (serving.stack 0).asleep = false ∧ serving.claimant .device 0 = none
    ∧ serving.companionHolds .device 63 = false ∧ ((serving.chan 0 0).wcb.find? (·.line == 63)) = none
    ∧ (serving.chan 0 0).wcb.length < 64 ∧ 63 % 64 + 1 ≤ 64 ∧ (serving.stack 0).lost = false
    ∧ (serving.deviation 0).isEmpty = true
    ∧ (match ({ serving with poison := [5] } : State).deviation 5 with
        | d => decide (d.isEmpty = false) && (match decodeWord none d with | .poisoned => true | _ => false)) = true
    ∧ (match ({ serving with upsets := [(5, [(0, 1), (1, 7), (2, 9)])] } : State).deviation 5 with
        | d => decide (d.isEmpty = false) && (match decodeWord none d with | .uncorrectable => true | _ => false)) = true
    ∧ [({ line := 5 } : WcbEntry)].find? (·.line == 5) = some { line := 5 } := by decide +kernel

theorem hyp_CachesStacksAndChannels :
    ({ live with clusters := [(0, { cache := [(9, { dirty := 1 })] })] } : State).cluster 0 |>.cache.seek 9 |>.isSome := by decide

theorem hyp_CachesStacksAndChannels_stacks :
    (live.cluster 0).cache.seek 9 = none
    ∧ (let s : State := { serving with stk := [(0, { asleep := true, trained := true })] }
       (s.stack 0).asleep = true ∧ (s.stack 0).trained = true ∧ s.domainReady 32 = true)
    ∧ (serving.stack 0).asleep = false ∧ serving.stackRefused 11 0x1C = none ∧ serving.chanPresent 11 31 = true
    ∧ (serving.chan 0 0).state ≠ .out ∧ (serving.chan 0 0).state ≠ .testing ∧ serving.flash.mapouts.seek 0 = none
    ∧ serving.chanPresent 0 32 = false := by decide

theorem hyp_RefreshAndStackTemperature :
    serving.chanPresent 0 0 = true ∧ (serving.stack 0).asleep = false ∧ (live.stack 0).asleep = true
    ∧ serving.stackPresent 11 = true ∧ serving.stackPresent 12 = false ∧ (-80 : Int) ≤ 600 ∧ (601 : Int) > 600 ∧ (-81 : Int) < -80
    ∧ ({ admitMax := 16, samples := List.replicate 10 400 } : Stack).allAbove 95 = true := by decide

/-- A stack whose channels are all out, with a pattern set. -/
def checking (run : Option (Nat × Nat × Nat × Nat × Bool)) : State :=
  { live with stk := [(0, { channels := [(0, { state := .out })], tg := { mask := 1, hi := 1, pattern := 1, run := run } })] }

/-- A descriptor whose fields are all zero but VERSION and CHECK. -/
def plainDescriptor : List Byte := [1, 0] ++ List.replicate 58 0 ++ leBytes 4 (crc32 ([1, 0] ++ List.replicate 58 0))

/-- A stack in training in a first load. -/
def training (x : Stack) : State :=
  { live with gram := { live.gram with image := none, state := .apply }, stk := [(0, { x with state := .training, initialised := true })] }

theorem hyp_CheckersAndStackTraining :
    (checking none).stackRefused 0 0x418 = none ∧ ((checking none).stack 0).tg.run = none
    ∧ (∀ ch ∈ bitsSet 32 1, ((checking none).chan 0 ch).state = .out ∧ ((checking none).stack 0).descAbsent ch = false)
    ∧ ((checking none).stack 0).state ≠ .failed
    ∧ ((checking (some (1, 0, 1, 1, false))).stack 0).tg.run = some (1, 0, 1, 1, false)
    ∧ (training {}).stackPresent 0 = true ∧ ((training {}).stack 0).initialised = true ∧ ((training {}).stack 0).state = .training
    ∧ ((training {}).stack 0).trained = false ∧ descriptorGood plainDescriptor = true ∧ descriptorGood [] = false
    ∧ ((training { descFailed := true }).stack 0).descFailed = true
    ∧ ((List.range 32).filter fun ch => (training {}).chanPresent 0 ch
        && decide (2 ≤ lanesFailed ((List.range 5).flatMap fun c => [(c, 0, 0), (c, 0, 1)]) ch 0)).length = 5 := by decide +kernel

theorem hyp_TilesAndCreditsTravel_halted :
    (producing {}).producerHalted (coreStation 0 0) = false
    ∧ (liveCore { ({} : CoreSt) with halted := ⟨true, false, false, false⟩, ports := [(0, { producer := true, staged := [(0, [])] })] }
        ).producerHalted (coreStation 0 0) = true
    ∧ (match station 0xC000, station 0xBC01 with | .xomon _, _ => false | _, .xomon _ => true | _, _ => false) = true
    ∧ ((producing { producer := true, peer := 0xBC01, staged := [(0, [])] }).stationPid (coreStation 0 0) 0).bind
        (fun pid => (producing { producer := true }).reach pid 0xBC01) = none ∧ (producing {}).linkUp = true := by decide +kernel

theorem hyp_TilesAndCreditsTravel_xomon :
    (let p : Port := { consumer := true, peer := 0xBC01, noun := mat fmtUINT32 32 1 0 }
     let s : State := producing p
     s.stationPort (coreStation 0 0) = some p ∧ p.arrived < p.slots ∧ s.tileTo (coreStation 0 0) = false ∧ s.linkUp = true
     ∧ takeTile (coreStation 0 0) s.transit = none)
    ∧ takeTile 0 live.transit = none ∧ live.xomonArrival 0 = live ∧ takeCredit 0 live.transit = none ∧ takeRevoke 0 live.transit = none
    ∧ takeRevoke 0 [.credit 64 0, .credit 64 0, .revoke 64 0] = some (64, []) := by decide +kernel

theorem hyp_LinesWrittenAndRead_transfers :
    serving.transfers.look 0 63 = 0 ∧ serving.stuck.seek 63 = none ∧ serving.cellAt 4033 = some (0, 4033)
    ∧ (serving.chan 0 0).owed < 8 ∧ 8 ≤ ({ owed := 8 } : Channel).owed ∧ readerCode (.port 0) = 0 ∧ Reader.patrol ≠ .checker
    ∧ (serving.gchan 0).state ≠ .testing ∧ writerCluster (.verb 3 0 .d) = some 3 ∧ writerCluster .device = none
    ∧ (nounTablePa 16 ≤ 2 ^ 40) := by decide +kernel

theorem hyp_CachesStacksAndChannels_evictions :
    (({} : CacheLine).writeBack 9 (.cache 0) 0 = [] ∧ ({} : CacheLine).back = 0)
    ∧ (({ dirty := 1 } : CacheLine).writeBack 9 (.cache 0) 0).map (·.line) = [18] ∧ ({ back := 1 } : CacheLine).back ≠ 0
    ∧ (({ dirty := 2 ^ 64 } : CacheLine).writeBack 9 (.cache 0) 0).map (·.line) = [19]
    ∧ serving.flash.mapouts.seek (32 * 0 + 0) ≠ some 5 ∧ (serving.chan 0 0).left = [] ∧ (serving.stack 0).tg.bringup = false
    ∧ (checking (some (1, 0, 1, 1, false))).gram.groupWait = [] ∧ (checking none).stuck = [] := by decide +kernel
/-! ### Hypotheses met: bank-side units -/

/-- A table walk of partition 0 for its first 2 MiB, which lie at 32 MiB and may be written. -/
def walked (m : List Host.Cell) : List Host.Cell :=
  Memory.writeList (Memory.writeList (Memory.writeList m 0 (leBytes 8 0x200003)) 0x200000 (leBytes 8 0x210003)) 0x210000
    (leBytes 8 (0x2000000 + 5))

/-- `liveNouns` with a right to the units of stack 0 and a translation. -/
def banked (ns : List Noun) : State :=
  let s := liveNouns ({} : CoreSt) ns
  { s with
    gram := { s.gram with image := some { image0 with reserve := 16, bsu := [{ pid := 0, stk := 1, inflight := 4 }] } }
    sched := { s.sched with parts := [(0, { cores := 4095, share := 1000 })] }
    mem := walked (table ns) }

/-- A row of 16 FP32 values and the one sum of it. -/
def sumNouns : List Noun := [{ mat fmtFP32 16 1 0 with space := 0 }, { vec fmtFP32 1 4096 with space := 0 }]

/-- A REDUCE of noun 0 into noun 1, its summary at 8192; `tag` and `op` as given. -/
def descriptor (tag op : Nat) : List Byte :=
  leBytes 4 tag ++ leBytes 12 op ++ [0, 0, 0xFF, 0xFF, 1, 0] ++ List.replicate 10 0xFF ++ leBytes 8 8192 ++ List.replicate 88 0

/-- The sequence of that descriptor, taken by channel 0 of stack 0. -/
def summing : Machine.Seq :=
  { desc := parseSeq (descriptor 9 3), pid := 0, leadStack := 0, leadChannel := 0, issuer := coreStation 0 0, stks := [0]
    nouns := [some (sumNouns.getD 0 {}), none, some (sumNouns.getD 1 {}), none, none, none, none, none] }

/-- A run of a sequence that answers, and one that ends in a fault. -/
def seqRuns {α : Type} (m : SM α) (s : State) (p : α → State → Bool) : Bool :=
  match m.run s with
  | (.ok v, t) => p v t
  | _ => false
def seqFaults {α : Type} (m : SM α) (s : State) (st : Status) : Bool :=
  match m.run s with
  | (.error (.fault x _), _) => x == st
  | _ => false

/-- The descriptor waits in the intake of channel 0 of stack 0. -/
def posted (raw : List Byte) : State :=
  let s := banked sumNouns
  { s with stk := [(0, { s.stack 0 with channels := [(0, { intake := [(coreStation 0 0, raw)] })] })] }

/-- The sequence is in flight, at the phase given. -/
def inFlight (q : Machine.Seq) : State := { banked sumNouns with seqs := [(5, q)], nextSeq := 6 }

theorem hyp_SequencesTakenAndAdmitted_taken :
    let s := posted (descriptor 9 3)
    (s.chan 0 0).intake = [(coreStation 0 0, descriptor 9 3)] ∧ (parseSeq (descriptor 9 3)).op = 3 ∧ s.domainReady 44 = true
    ∧ s.senderPid (coreStation 0 0) = some 0
    ∧ seqRuns (do let ns ← seqCheck summing.lead summing.desc (descriptor 9 3); let t ← summaryTarget summing; pure (ns, t))
        ((s.domainTold 44).strike {}) (fun (ns, t) _ => ns == summing.nouns && t == some 33562624) = true
    ∧ seqFaults (seqCheck summing.lead (parseSeq (descriptor 9 0x103)) (descriptor 9 0x103)) (posted (descriptor 9 0x103)) Code.seqInvalid
        = false
    ∧ seqFaults (seqCheck summing.lead (parseSeq (descriptor 9 0x403)) (descriptor 9 0x403)) (posted (descriptor 9 0x403)) Code.seqInvalid
        = true := by decide +kernel

theorem hyp_SequencesTakenAndAdmitted_cancel :
    (banked []).stackRefused 0 0x1010 = none ∧ (parseSeq (descriptor 9 0xF)).op = 0x0F
    ∧ ((leBytes 4 9 ++ [0x0F] ++ List.replicate 123 0).drop 5).all (· == (0 : Byte)) = true
    ∧ (inFlight summing).seqs = [(5, summing)] ∧ summing.phase = .waiting ∧ summing.pid = 0 ∧ summing.desc.tag = 9
    ∧ summing.stks.contains 0 = true ∧ (∀ x ∈ (inFlight { summing with phase := .sending }).seqs, x.2.phase ≠ .waiting)
    ∧ (inFlight { summing with phase := .reading }).seqs.Pairwise (fun a b => a.1 < b.1) := by decide +kernel

theorem hyp_SequencesTakenAndAdmitted_admitted :
    let s := inFlight summing
    let walk (s : State) (p : Footprints → State → Bool) : Bool :=
      seqRuns (walkNouns summing.lead summing 256 (List.range 8) {}) (s.strike {}) p
    let ready (f : Footprints) (s : State) : Bool := !(s.conflicts f) && s.hasRoom summing [0] [0] && f.stks == [0]
      && !(s.stack 0).asleep && s.domainReady 44 && !(s.domainFailed 44)
    s.seqs.seek 5 = some summing ∧ summing.failure = none ∧ s.nextAtLead 5 summing = true ∧ s.workingUnits summing = [0]
    ∧ min 0x10000 (2 ^ s.granule) = 256
    ∧ walk s (fun f s1 => ready f s1 && seqRuns (walkRecords summing.lead summing 256 [0] f) s1 fun g s2 => ready g s2
        && seqRuns (seqBegin 5 summing g [0]) (s2.modSeq 5 fun q => { q with phase := .reading })
            (fun _ w => (w.seq 5).work == [(0, [0])])) = true
    ∧ walk { s with seqs := s.seqs ++ [(7, { summing with phase := .reading, order := 1, readBlocks := [0x200] })] }
        (fun f s1 => s1.conflicts f) = true
    ∧ walk { s with seqs := s.seqs ++ (List.range 4).map fun i => (i + 7, { summing with phase := .reading, order := 1 }) }
        (fun f s1 => !(s1.conflicts f) && !(s1.hasRoom summing [0] [0])) = true
    ∧ seqFaults (walkNouns summing.lead { summing with nouns := [some { vec fmtFP32 1 (2 ^ 21) with space := 0 }] } 256 (List.range 8) {})
        s Code.transFault = true := by decide +kernel

theorem hyp_SequencesRunInSlices :
    let q : Machine.Seq := { summing with phase := .reading, work := [(0, [0])] }
    (live.unitSeq 0) = none ∧ (inFlight q).unitSeq (32 * 0 + 0) = some 5 ∧ ((inFlight q).chan 0 0).owed < 8
    ∧ ((inFlight q).seq 5).failure = none ∧ ((inFlight q).seq 5).vectorsHere = true
    ∧ ((inFlight { q with failure := some 1 }).seq 5).failure ≠ none ∧ (inFlight { q with failure := some 1 }).unitSeq 0 = some 5
    ∧ (∃ x ∈ ({ inFlight q with stk := [(0, { held := [(5, {})] })] } : State).stk, ∃ w ∈ x.2.held ++ x.2.heldWaiting, w.1 = 5)
    ∧ (inFlight q).seqs.seek 5 = some q
    ∧ (let s : State := { inFlight q with stk := [(0, { channels := [(0, { owed := 8 })] })] }
       s.unitSeq 0 = some 5 ∧ 8 ≤ (s.chan 0 0).owed ∧ (s.chan 0 0).paused = false)
    ∧ ({ owed := 8, paused := true } : Channel).paused = true := by decide +kernel

theorem hyp_SequencesEndWithSummary :
    let q : Machine.Seq := { summing with phase := .reading }
    let s := inFlight q
    s.seqs.seek 5 = some q ∧ q.vectorsHere = true ∧ q.desc.ystream = false ∧ (s.strike {}).lostPeer q = none
    ∧ (let s2 := (s.strike {}).modSeq 5 fun _ => q
       s2.unitsEnded 5 q = true ∧ seqRuns (seqResults 5 q) s2 (fun _ _ => true) = true)
    ∧ (s.strike {}).unitsEnded 5 { q with failure := some 1 } = true
    ∧ (s.strike {}).unitsEnded 5 { q with work := [(0, [0])] } = false
    ∧ ({ q with phase := .sending, failure := some Code.seqCancelled } : Machine.Seq).failure = some Code.seqCancelled
    ∧ (∀ n < 12, ∀ w ∈ (s.stack n).held ++ (s.stack n).heldWaiting, w.1 ≠ 5)
    ∧ (let closing : Machine.Seq := { q with phase := .closing, failure := none, faultVa := 0, cut := false }
       seqRuns (summaryTarget closing) ((s.unbindLead q).modSeq 5 fun _ => closing) (fun to_ s1 => to_.isSome && !(s1.releasing 5)) = true)
    ∧ ({ q with desc := { q.desc with flags := 4 } } : Machine.Seq).desc.ystream = true
    ∧ ({ q with desc := { q.desc with flags := 4 } } : Machine.Seq).vectorsHere = true := by decide +kernel

/-! ### Hypotheses met: stored-data integrity and the stacks' registers -/

/-- Model entry 3 damaged in one 64 KiB block, refetch and the patrol enabled. -/
def damaged (m : McEntry) : State :=
  let s := liveNouns {} []
  { s with
    gram := { s.gram with image := some { image0 with refetch := true, models := 1 } }
    sched := { s.sched with mc := [(3, m)] } }

/-- Stack 0's one channel is in service and quiet: nothing wrong in its cells, nothing buffered, no claim on it. -/
structure Quiet (s : State) : Prop where
  sets : s.sets = [[0]]
  awake : (s.stack 0).asleep = false
  kept : (s.stack 0).lost = false
  clean : s.upsets = [] ∧ s.poison = []
  inService : (s.chan 0 0).state = .inService
  unbuffered : (s.chan 0 0).wcb = []
  unclaimed : s.seqs = [] ∧ s.xl.directory = [] ∧ s.xl.fills = []
  sound : s.transfers = [] ∧ s.stuck = []
  refreshed : (s.chan 0 0).owed < 8

theorem Quiet.locate {s : State} (h : Quiet s) {line : Nat} (hl : 64 * line < chanBytes) : ∃ off, s.locate (64 * line) = .cell 0 off := by
  simp only [State.locate, h.sets, setsFrom, List.find?, List.length_singleton, Nat.zero_add, Nat.one_mul, hl, Nat.zero_le,
    decide_true, Bool.and_true, placeInSet, Nat.mod_one, List.getD_cons_zero]
  rw [show s.gchan 0 = s.chan 0 0 from rfl, h.inService]
  exact ⟨_, rfl⟩

theorem Quiet.counted {s : State} (h : Quiet s) {f : Stack → Stack} (ha : (f (s.stack 0)).asleep = false)
    (hk : (f (s.stack 0)).lost = false) (hc : (f (s.stack 0)).channels = (s.stack 0).channels) : Quiet (s.modStack 0 f) := by
  have e : (s.modStack 0 f).stack 0 = f (s.stack 0) := Tbl.look_upd_self ..
  exact ⟨h.sets, e ▸ ha, e ▸ hk, h.clean, by simp only [State.chan, e, hc]; exact h.inService,
    by simp only [State.chan, e, hc]; exact h.unbuffered, h.unclaimed, h.sound,
    by simp only [State.chan, e, hc]; exact h.refreshed⟩

theorem Quiet.refreshFirst {s : State} (h : Quiet s) : s.refreshFirst 0 0 = s := if_pos h.refreshed

theorem Quiet.transfer {s : State} (h : Quiet s) (line : Nat) : s.transfer 0 line = (true, s) := by
  simp [State.transfer, h.sound.1]

theorem Quiet.keepNouns {s : State} (h : Quiet s) (line : Nat) : Quiet (s.keepNouns line) := by
  unfold State.keepNouns
  split
  · exact h
  · exact ⟨h.sets, h.awake, h.kept, h.clean, h.inService, h.unbuffered, h.unclaimed, h.sound, h.refreshed⟩

theorem Quiet.writeCells {s : State} (h : Quiet s) (line : Nat) (b : List Byte) : Quiet (s.writeCells line b) := by
  have e : s.writeCells line b = { s with mem := Memory.writeList s.mem (64 * line) b } := by
    simp [State.writeCells, State.fixCells, h.sound.2, h.clean.1, h.clean.2, Tbl.seek, Tbl.drop]
  rw [e]
  exact ⟨h.sets, h.awake, h.kept, h.clean, h.inService, h.unbuffered, h.unclaimed, h.sound, h.refreshed⟩

theorem Quiet.deviation {s : State} (h : Quiet s) (line : Nat) : s.deviation line = [] := by
  simp [State.deviation, h.clean.1, h.clean.2]

theorem Quiet.read {s : State} (h : Quiet s) {line : Nat} (hl : 64 * line < chanBytes) (src : Nat) :
    ∃ b, (s.readLine src 5 line).1 = .data b ∧ Quiet (s.readLine src 5 line).2 := by
  obtain ⟨off, e⟩ := h.locate hl
  have q : Quiet (s.modStack 0 fun x => { x with unitLines := x.unitLines + 1 }) := h.counted h.awake h.kept rfl
  simp only [State.readLine, e, h.awake, Nat.zero_div, Nat.zero_mod, q.refreshFirst, State.readCells, q.kept, q.deviation,
    List.isEmpty_nil, if_true, Bool.false_eq_true, if_false, show ¬(5:Nat) = 0 by decide, show ¬(5:Nat) = 1 by decide,
    show (5 != 0) = true from rfl]
  exact ⟨_, rfl, q⟩

theorem Quiet.written {s : State} (h : Quiet s) {line : Nat} (hl : 64 * line < chanBytes) (b : List Byte) (tag : Nat) :
    Quiet (s.submit { writer := .device, line := line, bytes := b, mask := fullMask, tag := tag }) := by
  obtain ⟨off, e⟩ := h.locate hl
  have q : Quiet (s.modStack 0 fun x => { x with portLines := x.portLines + 1 }) := h.counted h.awake h.kept rfl
  have c : s.claimant .device (line / 1024) = none := by simp [State.claimant, h.unclaimed.1]
  have d : s.companionHolds .device line = false := by simp [State.companionHolds, h.unclaimed.2]
  have k := q.keepNouns line
  simp only [State.submit, State.writeBase, e, h.awake, c, d, State.perform, State.combine, Nat.zero_div, Nat.zero_mod, q.transfer,
    q.refreshFirst, k.unbuffered, List.find?, if_true, Bool.false_eq_true, if_false, State.deliver, State.settleCache, writerCluster,
    Bool.not_true]
  exact k.writeCells line b

theorem Quiet.readBack {lines : List Nat} : ∀ {s : State}, Quiet s → (∀ l ∈ lines, 64 * l < chanBytes) →
    (s.readBack lines).1 = true := by
  suffices ∀ (l : List Nat) (s : State), Quiet s → (∀ x ∈ l, 64 * x < chanBytes) →
      (l.foldl (fun (a : Bool × State) l => match a.2.readLine Obs.ofMgmt.source 5 l with
        | (.data _, s) => (a.1, s)
        | (_, s) => (false, s)) (true, s)).1 = true from fun {s} h => this lines s h
  intro l
  induction l with
  | nil => intros; rfl
  | cons x r ih =>
    intro s h hx
    obtain ⟨b, e, q⟩ := h.read (hx x (by simp)) Obs.ofMgmt.source
    rw [List.foldl_cons]
    split
    · exact ih _ (by simp_all) fun y hy => hx y (by simp [hy])
    · simp_all

theorem Quiet.awakeAmong {s : State} (h : Quiet s) {lines : List Nat} (hl : ∀ l ∈ lines, 64 * l < chanBytes) :
    s.asleepAmong lines = [] := by
  unfold State.asleepAmong
  induction lines with
  | nil => rfl
  | cons x r ih =>
    obtain ⟨off, e⟩ := h.locate (hl x (by simp))
    rw [List.foldl_cons, e]
    simpa [h.awake] using ih fun l m => hl l (by simp [m])

theorem Quiet.block {s : State} (h : Quiet s) (b : List Byte) (block tag : Nat) (hb : b.length = 0x10000)
    (hl : block < 0x8000) : Quiet (s.submitBytes .device (block * 0x10000) b tag) := by
  have go (l : List (Nat × List Byte × Nat)) : ∀ {s : State}, Quiet s → (∀ x ∈ l, 64 * x.1 < chanBytes ∧ x.2.2 = fullMask) →
      Quiet (l.foldl (fun s (line, x, m) => s.submit { writer := .device, line := line, bytes := x, mask := m, tag := tag }) s) := by
    induction l with
    | nil => intro s h _; exact h
    | cons x r ih =>
      intro s h hx
      obtain ⟨h1, h2⟩ := hx x (by simp)
      obtain ⟨line, y, m⟩ := x
      subst h2
      exact ih (h.written h1 _ _) fun y hy => hx y (by simp [hy])
  refine go _ h ?_
  have he : b.isEmpty = false := by cases b <;> simp_all
  simp only [lineParts, he, hb, Bool.false_eq_true, if_false, List.mem_map, List.mem_range]
  rintro x ⟨i, hi, rfl⟩
  have e : block * 65536 / 64 = block * 1024 := by omega
  have e2 : (block * 65536 + 65536 - 1) / 64 = block * 1024 + 1023 := by omega
  rw [e, e2] at hi
  have hf : max (block * 65536) (64 * (block * 1024 + i)) = 64 * (block * 1024 + i) := by omega
  have ht : min (block * 65536 + 65536) (64 * (block * 1024 + i) + 64) = 64 * (block * 1024 + i) + 64 :=
    Nat.min_eq_right (by omega)
  simp only [e, hf, ht]
  refine ⟨by simp only [chanBytes]; omega, ?_⟩
  rw [Nat.add_sub_cancel_left, Nat.sub_self] <;> rfl

theorem hyp_DamageFoundAndRefetched_refetch :
    let s := damaged { state := .damaged, damaged := [7, 8], failed := [7] }
    s.refetch = true ∧ (s.mcEntry 3).state = .damaged
    ∧ (s.mcEntry 3).damaged.find? (fun b => !(s.mcEntry 3).failed.contains b) = some 8
    ∧ (blockLines 8).all (fun l => match s.locate (64 * l) with | .cell _ _ => true | .absent _ => false) = true
    ∧ s.asleepAmong (blockLines 8) = [] ∧ s.linkUp = true ∧ s.claimant .device 8 = none := by decide +kernel

theorem hyp_DamageFoundAndRefetched_read :
    (((damaged { state := .damaged, damaged := [7, 8], failed := [7] }).submitBytes .device (8 * 0x10000)
      (slice [1, 2] 0 0x10000) 0).strike ({} : Upset) |>.readBack (blockLines 8)).1 = true := by
  have h : Quiet (damaged { state := .damaged, damaged := [7, 8], failed := [7] }) :=
    ⟨by decide, by decide, by decide, by decide, by decide, by decide, by decide, by decide, by decide⟩
  have hb (b : List Byte) (n : Nat) : (slice b 0 n).length = n := by simp only [slice, List.length_append, List.length_replicate, List.length_take, List.length_drop]; omega
  have q := h.block (slice [1, 2] 0 0x10000) 8 0 (hb _ _) (by decide)
  have e (x : State) : x.strike ({} : Upset) = x := rfl
  rw [e]
  refine q.readBack ?_
  simp only [blockLines, List.mem_map, List.mem_range]
  rintro l ⟨i, hi, rfl⟩
  simp only [chanBytes]
  omega

theorem hyp_DamageFoundAndRefetched_patrol :
    let s := damaged {}
    (live.background 0 = true ∧ State.reset.background 0 = false) ∧ s.chanPresent 0 0 = true ∧ s.background 0 = true
    ∧ (s.stack 0).asleep = false ∧ (s.stack 0).state = .inService ∧ (s.chan 0 0).state = .inService
    ∧ s.addressOf (32 * 0 + 0) (64 * (s.chan 0 0).patrol) = some 0 := by decide +kernel

/-- Stack 0 with the range scrub's registers as given. -/
def scrubbing (x : RangeScrub) : State := { live with stk := [(0, { asleep := false, scrub := x })] }

theorem hyp_DamageFoundAndRefetched_scrub :
    (scrubbing {}).stackRefused 0 0x2818 = none ∧ ((scrubbing { state := 1 }).stack 0).scrub.state = 1
    ∧ (let x := ((scrubbing { lo := 0, hi := 0xC000000000 }).stack 0).scrub
       x.state ≠ 1 ∧ x.lo % 64 = 0 ∧ x.hi % 64 = 0 ∧ x.lo < x.hi ∧ x.hi ≤ 0xC000000000)
    ∧ (let x := ((scrubbing { lo := 64, hi := 64 }).stack 0).scrub; x.state ≠ 1 ∧ ¬ x.lo < x.hi)
    ∧ ((scrubbing { state := 1 }).stack 0).asleep = false := by decide

theorem hyp_IntegrityAndStackRegisters :
    live.stackRefused 11 0x2008 = none ∧ live.stackRefused 11 (0x2100 + 16 * 31) = none ∧ live.chanPresent 11 31 = true
    ∧ live.stackPresent 12 = false ∧ State.reset.gram.image = none := by decide
/-! ### Hypotheses met: serving -/

/-- A model that partition 0 uses. -/
def usedModel : McEntry := { state := .resident, users := 1, layers := 1, ctx := 4096, kvt := 1 }

/-- Partition 0's serving, with model 3 resident, requests and prefixes as given. -/
def withSrv (x : PartSrv) (table : Tbl Request) (prefixes : Tbl Prefix := []) : State :=
  { serving with
    sched := { serving.sched with mc := [(3, usedModel)] }
    srv := { serving.srv with state := 1, table := table, prefixes := prefixes, parts := [(0, x)] } }

/-- A command ring of 16 records whose first record, given, has been fetched. -/
def ringWith (b : List Byte) : PartSrv :=
  { cmdLog2 := 4, cmdEnable := true, lines := [(0, b)], kvaPages := 4, kvLimit := 4, pool := [0x80000000] }

/-- A record of a kind with the bytes given from byte 4 on. -/
def rec64 (kind : Nat) (b : List Byte) : List Byte := leBytes 1 1 ++ leBytes 1 kind ++ [0, 0] ++ b ++ List.replicate (60 - b.length) 0

/-- A greedy SUBMIT of one prompt token for model `m`, of length up to 16, naming prefix `h`. -/
def submitRecord (m h : Nat) : List Byte :=
  leBytes 1 1 ++ leBytes 1 1 ++ leBytes 1 0 ++ leBytes 1 4 ++ leBytes 4 7 ++ leBytes 4 16 ++ leBytes 4 1 ++ leBytes 1 m
    ++ [0xFF, 0, 0] ++ leBytes 2 h ++ leBytes 2 0xFFFF ++ List.replicate 40 0

/-- Whether the record stands next in partition 0's ring, and it is that ring's turn. -/
def nextIs (s : State) (b : List Byte) : Bool := s.nextRecordOf 0 == some b && s.nextRing == some 0

theorem hyp_RequestsSubmitted_records :
    live.nextRecordOf 0 = none ∧ nextIs (withSrv (ringWith (rec64 9 [])) []) (rec64 9 []) = true ∧ leAt (rec64 9 []) 1 1 = 9
    ∧ nextIs (withSrv (ringWith (rec64 3 [])) []) (rec64 3 []) = true ∧ leAt (rec64 3 []) 1 1 = 3
    ∧ nextIs (withSrv (ringWith (rec64 0 [])) []) (rec64 0 []) = true ∧ recordClean (rec64 0 []) (fun _ => false) = true
    ∧ recordClean (rec64 0 [0, 0, 0, 0, 1]) (fun _ => false) = false
    ∧ (let s : State := withSrv (ringWith (rec64 0 [])) []
       let two : State := { s with
         gram := { s.gram with image := some { image0 with served := 3 } }
         srv := { s.srv with lastServed := 0, parts := s.srv.parts ++ [(1, ringWith (rec64 0 []))] } }
       two.nextRecordOf 0 = some (rec64 0 []) ∧ two.nextRing = some 1
       ∧ ({ two with srv := { two.srv with lastServed := 1 } } : State).nextRing = some 0) := by decide +kernel

theorem hyp_RequestsSubmitted_checks :
    let check (s : State) (b : List Byte) : Except Status (Nat × Nat × Nat) := s.checkSubmit 0 b (parseSubmit s.srvImage 0 b)
    let s := withSrv (ringWith (submitRecord 3 0xFFFF)) []
    let full : State := { s with srv := { s.srv with table := (List.range 16).map fun i => (i, { state := .queued }) } }
    nextIs s (submitRecord 3 0xFFFF) = true
    ∧ (check s (submitRecord 3 0xFFFF)).toOption = some (0, 1, 1)
    ∧ (match check s (submitRecord 64 0xFFFF) with | .error x => x == Code.reqInvalid | _ => false) = true
    ∧ (match check s (submitRecord 4 0xFFFF) with | .error x => x == Code.modelAbsent | _ => false) = true
    ∧ (match check s (submitRecord 3 2) with | .error x => x == Code.prefixInvalid | _ => false) = true
    ∧ (match check full (submitRecord 3 0xFFFF) with | .error x => x == Code.tableFull | _ => false) = true
    ∧ (match check { s with srv := { s.srv with parts := [] } } (submitRecord 3 0xFFFF) with | .error x => x == Code.kvSpace | _ => false)
        = true
    ∧ (match check { s with sched := { s.sched with mc := [(3, { usedModel with ctx := 15 })] } } (submitRecord 3 0xFFFF) with
        | .error x => x == Code.reqInvalid | _ => false) = true := by decide +kernel

theorem hyp_RequestsSubmitted_prompt :
    (live.psrv 0).reading = none
    ∧ (let s := withSrv { reading := some 2 } [(2, { state := .queued, model := 3 })]
       (s.psrv 0).reading = some 2 ∧ s.linkUp = true ∧ (s.mcEntry (s.req 2).model).state = .resident)
    ∧ (let s := withSrv { reading := some 2 } [(2, { state := .queued, model := 4 })]
       (s.mcEntry (s.req 2).model).state ≠ .resident) := by decide

theorem hyp_CancelsAndPrefixRecords_cancel :
    let b := rec64 2 (leBytes 4 7)
    let s (x : ReqState) := withSrv (ringWith b) [(1, { state := x, client := 7 })]
    leAt b 1 1 = 2 ∧ recordClean b (fun _ => false) = true ∧ recordClean (rec64 2 (leBytes 8 (2 ^ 32 + 7))) (fun _ => false) = false
    ∧ nextIs (withSrv (ringWith b) []) b = true ∧ (withSrv (ringWith b) []).liveOf 0 = []
    ∧ nextIs (s .decode) b = true ∧ ((s .decode).liveOf 0).filter (fun i => ((s .decode).req i).client == leAt b 4 4) = [1]
    ∧ ((s .decode).req 1).inStep = true
    ∧ nextIs (s .paused) b = true ∧ ((s .paused).liveOf 0).filter (fun i => ((s .paused).req i).client == leAt b 4 4) = [1]
    ∧ ((s .paused).req 1).inStep = false := by decide +kernel

/-- A PREFIX record of a kind: length `len`, model 3, handle `h`, region at `va`. -/
def prefixRecord (kind len h va : Nat) : List Byte :=
  rec64 kind (leBytes 4 7 ++ leBytes 4 len ++ leBytes 4 0 ++ leBytes 1 (if kind = 3 then 3 else 0) ++ leBytes 3 0 ++ leBytes 2 h
    ++ leBytes 2 0 ++ leBytes 8 va)

theorem hyp_CancelsAndPrefixRecords_add :
    let clean (b : List Byte) := recordClean b (fun i => (8 ≤ i && i < 12) || i == 16 || i == 20 || i == 21 || (24 ≤ i && i < 32))
    let b := prefixRecord 3 4 2 0
    let s := withSrv (ringWith b) []
    let mapped : State := { s with gram := (banked []).gram, mem := (banked []).mem }
    leAt b 1 1 = 3 ∧ clean b = true ∧ leAt b 16 1 = 3 ∧ leAt b 20 2 = 2 ∧ s.srvImage.prefixes = 8 ∧ nextIs s b = true
    ∧ (s.pfx 2).state = 0 ∧ ((withSrv (ringWith b) [] [(2, { state := 1 })]).pfx 2).state = 1
    ∧ (State.regionMapped 0 [0, 0x200000] s).1 = false ∧ nextIs mapped b = true ∧ (State.regionMapped 0 [0] mapped).1 = true
    ∧ (let none_ := prefixRecord 3 0 2 0
       clean none_ = true ∧ (2 * 1 * ((leAt none_ 8 4 * usedModel.planeBytes + 0x1FFFFF) / 0x200000)) = 0
       ∧ (State.regionMapped 0 [] s).1 = true) := by decide +kernel

theorem hyp_CancelsAndPrefixRecords_del :
    let b := prefixRecord 4 0 2 0
    let x : Prefix := { state := 1, pid := 0 }
    leAt b 1 1 = 4 ∧ recordClean b (fun i => i == 20 || i == 21) = true ∧ leAt b 20 2 = 2
    ∧ nextIs (withSrv (ringWith b) []) b = true ∧ ((withSrv (ringWith b) []).pfx 2).state ≠ 1
    ∧ nextIs (withSrv (ringWith b) [] [(2, x)]) b = true ∧ ((withSrv (ringWith b) [] [(2, x)]).pfx 2) = x
    ∧ (withSrv (ringWith b) [] [(2, x)]).pfxUsers 2 = 0
    ∧ (withSrv (ringWith b) [(0, { state := .queued, pfx := 2 })] [(2, x)]).pfxUsers 2 = 1
    ∧ nextIs (withSrv (ringWith b) [(0, { state := .queued, pfx := 2 })] [(2, x)]) b = true := by decide +kernel

/-- Request 0 of partition 0 at a boundary, with a port to core 0 of cluster 0. -/
def boundary (r : Request) : State :=
  let s := withSrv {} [(0, { r with state := .queued, model := r.model + 3, draft := 0xFF })]
  { s with
    cores := [(0, { ({} : CoreSt) with run := .running })]
    srv := { s.srv with tick := 10, ports := [(0, { producer := true, peer := coreStation 0 0 })] } }

theorem hyp_ModelCacheLoadsAndBoundaries_boundary :
    ((boundary { cancelReq := true }).req 0).cancelReq = true
    ∧ (let r := (boundary { deadline := 10 }).req 0; r.cancelReq = false ∧ r.deadline ≠ 0 ∧ r.deadline ≤ (boundary {}).srv.tick)
    ∧ (let r := (boundary { deadline := 11 }).req 0; r.cancelReq = false ∧ ¬ r.deadline ≤ (boundary {}).srv.tick)
    ∧ (boundary { model := 1 }).modelGone ((boundary { model := 1 }).req 0) = true
    ∧ (boundary {}).modelGone ((boundary {}).req 0) = false ∧ ((boundary {}).req 0).draft = 0xFF
    ∧ ((boundary {}).mcEntry ((boundary {}).req 0).model).state = .resident
    ∧ ((boundary { plane := 1 }).commitPages 0 ((boundary { plane := 1 }).missingPages ((boundary { plane := 1 }).req 0)).2).1 = false
    ∧ ((boundary {}).commitPages 0 ((boundary {}).missingPages ((boundary {}).req 0)).2).1 = true
    ∧ (withSrv {} []).portsOf 0 = [] ∧ (boundary {}).portsOf 0 ≠ [] ∧ ((boundary {}).psrv 0).cplStore.length < 64 := by decide +kernel

/-- A step of request 0 in flight, with its result and its failure as given. -/
def stepping (result abandoned : Option Status) : State :=
  let s := withSrv { stepPage := some 0 } [(0, { state := .decode, model := 3, draft := 0xFF, group := some 9, maxlen := 16, prompt := 1 })]
  { s with srv := { s.srv with groups := [(9, { members := [0], model := 3, result := result, abandoned := abandoned.map (·, false) })]
                               tick := 10001, stepLimit := 1 } }

theorem hyp_StepBoundariesPassed :
    live.srv.groups.seek 9 = none
    ∧ (((stepping none none).group 9).abandoned = none ∧ ((stepping none none).group 9).result = none)
    ∧ (let s := stepping (some Code.ok) none
       s.srv.groups.seek 9 = some (s.group 9) ∧ (s.group 9).abandoned = none ∧ (s.group 9).result = some Code.ok
       ∧ (s.group 9).members = [0] ∧ (s.req 0).group = some 9
       ∧ (match (({ s with srv := { s.srv with groups := s.srv.groups.drop 9 } } : State).memberResult (s.group 9) 0).1 with
          | .ok (ts, a) => ts.isEmpty && a == 0
          | _ => false) = true)
    ∧ cutTokens 5 15 [3, 5, 4] = [3, 5] ∧ cutTokens 0xFFFFFFFF 2 [3, 5, 4] = [3, 5]
    ∧ (let s := stepping none none
       s.srv.stepLimit ≠ 0 ∧ (s.group 9).began + s.srv.stepLimit * 10000 < s.srv.tick ∧ (s.group 9).result = none)
    ∧ (stepping none none).linkUp = true ∧ ((stepping none none).req 0).held + 15 = ((stepping none none).req 0).maxlen := by
  decide +kernel

theorem hyp_ServingLinesAndRegisters_lines :
    let s := withSrv { cmdEnable := true, cmdLog2 := 4, cplEnable := true } []
    s.linkUp = true ∧ s.isServed 0 = true ∧ (s.psrv 0).cmdEnable = true ∧ 15 < 2 ^ (s.psrv 0).cmdLog2 ∧ (s.psrv 0).cplEnable = true
    ∧ s.xl.rootPort = false ∧ ({ s with xl := { s.xl with rootPort := true } } : State).linkUp = true := by decide

theorem hyp_ServingLinesAndRegisters_registers :
    live.gram.image ≠ none ∧ State.reset.gram.image = none ∧ live.isServed 0 = true
    ∧ (let s : State := { serving with gram := { serving.gram with image := some { image0 with reserve := 16 } } }
       0x2000000 % 0x200000 = 0 ∧ s.inRegion 0x2000000 = true ∧ s.inReserve 0x2000000 = false ∧ s.inReserve 0x1E00000 = true
       ∧ s.inRegion 0xE000000000 = false)
    ∧ live.hasLive 0 = false ∧ (live.psrv 0).cmdEnable = false ∧ (live.psrv 0).cplEnable = false ∧ 0x1000 % 4096 = 0
    ∧ (withSrv {} [(0, { state := .queued })]).hasLive 0 = true
    ∧ (let s := withSrv { cmdLog2 := 4, cplLog2 := 12, pool := [0x2000000] } []
       bits 0x14 0 4 = (s.psrv 0).cmdLog2 ∧ bit 0x14 4 = true ∧ bit 0x04 4 = false ∧ (s.psrv 0).cmdEnable = false
       ∧ (s.psrv 0).stepPage = none ∧ (s.psrv 0).pool = 0x2000000 :: [] ∧ bits 0x3C 0 4 = (s.psrv 0).cplLog2) := by decide
/-! ### Hypotheses met: scheduling and the model cache -/

/-- Partitions 0 and 1, a plan 2, cluster 0 held by partition 0; the save areas and the switches as given. -/
def scheduled (save0 save1 : Nat) (switching : Tbl Switch) : State :=
  let img : Image := { image0 with parts := image0.parts ++ [{ pid := 1, share := 1 }], phas := [{ plan := 2, shares := [1, 1] }], models := 2 }
  { live with
    gram := { live.gram with image := some img }
    sched := { live.sched with
      parts := [(0, { cores := 4095, share := 1000, saveVa := save0 }), (1, { saveVa := save1 })], switching := switching } }

theorem hyp_PhasesAndCoresOffline :
    (∃ i, (scheduled 0 0 []).gram.image = some i ∧ (∃ r ∈ i.phas, r.plan = 2) ∧ (∀ r ∈ i.phas, r.plan ≠ 7)
      ∧ i.phas.find? (·.plan == 2) = some { plan := 2, shares := [1, 1] })
    ∧ (let s := scheduled 0 0 []
       ({ s with sched := { s.sched with phaseBusy := some 2 } } : State).sched.phaseBusy = some 2)
    ∧ State.reset.gram.image = none ∧ live.gram.image ≠ none ∧ live.corePresent 15 11 = true
    ∧ ({ live with fuses := { live.fuses with cores := 0 } } : State).corePresent 0 0 = false ∧ live.defined 0 = true := by
  refine ⟨⟨_, rfl, by decide, by decide, by decide⟩, ?_⟩
  decide

theorem hyp_SwitchesDrain_accept :
    let free (s : State) (q : Nat) : Prop :=
      s.defined q = true ∧ 0 ≠ q ∧ s.sched.switching.seek 0 = none ∧ s.partialWaits 0 = false ∧ s.partialWaits q = false
    (scheduled 0 0 []).clusterPid 0 = some 0 ∧ (scheduled 0 0 []).gram.image ≠ none
    ∧ free (scheduled 0x200000 0x200000 []) 1 ∧ ((scheduled 0x200000 0x200000 []).psched 0).saveVa ≠ 0
    ∧ ((scheduled 0x200000 0x200000 []).psched 1).saveVa ≠ 0 ∧ free (scheduled 0 0 []) 1 ∧ ((scheduled 0 0 []).psched 0).saveVa = 0
    ∧ (scheduled 0 0 []).srvImage.weightSwitch = false ∧ ¬ free (scheduled 0 0 []) 0 ∧ ¬ free (scheduled 0 0 []) 2 := by decide

theorem hyp_SwitchesDrain_drain :
    let w : Switch := { source := 0, target := 1 }
    let s := scheduled 1 1 [(0, w)]
    let busy : State := { s with cores := [(0, { ({} : CoreSt) with queues := ⟨[{ phase := .started }], [], [], []⟩ })] }
    s.sched.switching.seek 0 = some w ∧ w.moving = false ∧ s.drained 0 = true ∧ s.srvImage.weightSwitch = false
    ∧ (∀ x ∈ s.sched.switching, x.2.loads = []) ∧ busy.sched.switching.seek 0 = some w ∧ busy.drained 0 = false
    ∧ busy.verbsInFlight 0 = true := by decide

theorem hyp_SwitchesChangeHands :
    let w : Switch := { source := 0, target := 1, moving := true }
    let s := scheduled 1 1 [(0, w)]
    s.sched.switching.seek 0 = some w ∧ w.moving = true ∧ w.loads = [] ∧ w.source ≠ w.target ∧ (s.cluster 0).cache = []
    ∧ s.sched.saved.seek (16 * w.target + 0) = none ∧ bit (s.psched w.source).cores (12 * 0 + 11) = true
    ∧ (scheduled 1 1 [(0, { w with moving := false })]).sched.switching.seek 0 = some { w with moving := false } := by decide

/-- One 2 MiB page for models on the channel of stack 0, a load of `pages` pages described, and the entries given. -/
def modelCache (pages busy : Nat) (mc : Tbl McEntry) : State :=
  { serving with
    gram := { serving.gram with image := some { image0 with models := 1 } }
    sched := { serving.sched with
      mcPages := pages, mcLayers := 1, mcSrcKind := 0, mcBase := 0xFF, mcBusy := if busy = 0 then none else some 3, mc := mc } }

theorem hyp_ModelCacheLoadsAndBoundaries_load :
    let s := modelCache 1 0 []
    let full := modelCache 1 0 [(5, { state := .resident, pageList := (modelCache 1 0 []).freePages, pinned := true })]
    s.gram.image ≠ none ∧ s.sched.mcBusy = none ∧ s.sched.mcPages ≠ 0 ∧ s.sched.mcLayers ≠ 0 ∧ s.sched.mcSrcKind ≤ 1
    ∧ s.sched.mcBase = 0xFF ∧ (s.mcEntry 3).state = .empty ∧ (State.makeRoom 1 64 s).isSome = true
    ∧ s.freePages.length = 1 ∧ (State.makeRoom 1 64 full).isNone = true ∧ (full.mcEntry 3).state = .empty
    ∧ (full.mcEntry 5).state = .resident ∧ (modelCache 1 1 []).sched.mcBusy ≠ none := by decide +kernel

theorem hyp_ModelCacheLoadsAndBoundaries_done :
    let s := modelCache 1 1 [(3, { state := .loading, pageList := [900] })]
    s.sched.mcBusy = some 3 ∧ s.sched.switching = [] ∧ (s.mcEntry 3).srcKind = 0 ∧ s.linkUp = true
    ∧ s.asleepAmong ((s.mcEntry 3).pageList.flatMap fun p => (List.range 32768).map (p * 32768 + ·)) = [] := by
  refine ⟨by decide, by decide, by decide, by decide, ?_⟩
  have h : Quiet (modelCache 1 1 [(3, { state := .loading, pageList := [900] })]) :=
    ⟨by decide, by decide, by decide, by decide, by decide, by decide, by decide, by decide, by decide⟩
  rw [show ((modelCache 1 1 [(3, { state := .loading, pageList := [900] })]).mcEntry 3).pageList = [900] by decide]
  refine h.awakeAmong ?_
  simp only [List.flatMap_cons, List.flatMap_nil, List.append_nil, List.mem_map, List.mem_range]
  rintro l ⟨i, hi, rfl⟩
  simp only [chanBytes]
  omega

theorem hyp_ModelCachePinsAndEvictions :
    let old : McEntry := { state := .resident, last := 1, pageList := [1] }
    let s := modelCache 1 0 [(3, { old with pinned := true }), (4, { old with last := 2 })]
    s.gram.image ≠ none ∧ s.oldestEntry = some 4 ∧ (s.mcEntry 3).state = .resident ∧ (s.mcEntry 9).state = .empty
    ∧ s.evictable 4 (s.mcEntry 4) = true ∧ s.evictable 3 (s.mcEntry 3) = false ∧ 1 ≤ (modelCache 1 0 []).freePages.length
    ∧ (modelCache 1 0 [(3, { state := .loading })]).mcEntry 3 = { state := .loading } := by decide +kernel

theorem hyp_ModelCachePinsAndEvictions_gone :
    (let s := boundary { model := 1 }
     (s.req 0).cancelReq = false ∧ (s.req 0).deadline = 0 ∧ s.modelGone (s.req 0) = true)
    ∧ (let s : State := { boundary {} with sched := { (boundary {}).sched with mc := [(3, { usedModel with state := .evicted })] } }
       s.modelGone (s.req 0) = false ∧ (s.req 0).draft = 0xFF ∧ (s.mcEntry (s.req 0).model).state ≠ .resident) := by decide
/-! ### Hypotheses met: event rings, the link, the companion, control cores -/

/-- Ring 0 enabled with 64 slots, its head and tail as given, and one record waiting. -/
def ringed (head tail : Nat) : State :=
  { live with mgmt := { live.mgmt with rings := [(0, { enable := true, log2 := 6, head := head, tail := tail })], store := [{ cls := 3 }] } }

/-- Vector 31 as given. -/
def vectored (x : Vec) : State := { live with mgmt := { live.mgmt with vecs := [(31, x)] } }

theorem hyp_EventsReachTheirRings :
    live.mgmt.store.length < 256
    ∧ 256 ≤ ({ live with mgmt := { live.mgmt with store := List.replicate 256 {} } } : State).mgmt.store.length
    ∧ live.nextRecord live.mgmt.store = none ∧ State.reset.linkUp = false
    ∧ (ringed 0 62).nextRecord (ringed 0 62).mgmt.store = some ({ cls := 3 }, []) ∧ (ringed 0 63).nextRecord (ringed 0 63).mgmt.store = none
    ∧ ((vectored { pend := true }).vec 31).pend = true ∧ (live.vec 31).pend = false
    ∧ ((vectored { mask := false, holding := true, owed := true }).vec 31).owed = true
    ∧ ((vectored { mask := false, holding := true }).vec 31).holding = true ∧ (live.vec 31).holding = false
    ∧ live.rings = 1 ∧ (live.ring 0).enable = false ∧ ((ringed 0 0).ring 0).enable = true ∧ bits 0x66 0 4 = ((ringed 0 0).ring 0).log2
    ∧ ({ live with clockHeld := [Obs.ofMgmt.island] } : State).clockHeld.contains Obs.ofMgmt.island = true
    ∧ bits 0x1E 0 4 = 14 ∧ (live.ring 0).log2 ≠ 6 ∧ bits 15 0 4 = 15 ∧ 5 < 6 := by decide +kernel

/-- The link's state as given, the device ready, its power domains on. -/
def linked (x : Xl) : State :=
  { serving with mgmt := { serving.mgmt with boot := .ready }, xl := x }

theorem hyp_LinkTrains_states :
    let can (s : State) : Prop := s.mgmt.boot = .ready ∧ s.xl.state = .down ∧ bit s.pwr.domOn 66 = true
    (linked { state := .up, perst := false }).xl.perst = false ∧ can (linked {}) ∧ can (linked { perst := false })
    ∧ (linked { perst := false }).xl.state = .down ∧ ¬ can live ∧ (linked {}).xl.perst = true
    ∧ (linked { state := .up }).linkUp = true ∧ (linked { state := .training }).xl.state = .training := by decide

theorem hyp_LinkTrains_handoff :
    let cap := 0x4F
    (linked { train := .detect }).xl.train = .detect ∧ bits 0xFF00 8 8 = 0xFF ∧ bits 0x7FFE 0 8 ≠ 0xFF ∧ bits 0x7FFE 8 8 ≠ 0xFF
    ∧ (let s := linked { train := .window, compCap := cap }
       s.xl.train = .window ∧ bit cap 3 = true ∧ bit cap 6 = true ∧ commonGen s.devCap cap ≠ 0 ∧ cap < 2 ^ 7)
    ∧ commonGen (linked { train := .window }).devCap 0 = 0 ∧ (linked {}).xl.pcieOk = true
    ∧ (linked { train := .window, pcieOk := false }).xl.pcieOk = false ∧ (linked { train := .granted }).xl.train = .granted
    ∧ (linked {}).xl.train ≠ .granted ∧ (linked {}).xl.train ≠ .window ∧ 0x13C + 4 ≤ 0x140 := by decide

theorem hyp_LinkTrains_up :
    (let s := linked { train := .equalise, compCap := 0x4F, lanes := 0xFFFF, wasUp := true }
     s.settle.1 = 3 ∧ widthOf s.xl.lanes = 16 ∧ s.xl.rootPort = false ∧ s.xl.wasUp = true ∧ s.mgmt.afterRestart = false
     ∧ s.xl.state ≠ .retraining ∧ s.xl.downOwed = false ∧ s.xl.maxgen ≤ s.settle.2)
    ∧ (linked { train := .equalise, wasUp := true, downOwed := true }).xl.downOwed = true
    ∧ (linked { train := .granted, compCap := 0 }).settle.1 = 0 ∧ widthOf 0x0F0F = 0
    ∧ (let s := linked { train := .equalise, rootPort := true, root64 := true, lanes := 0xFF }
       s.settle.1 = 5 ∧ widthOf s.xl.lanes = 8 ∧ s.xl.pcieOk = true) := by decide

theorem hyp_CompanionAccesses_snoops :
    let up (x : Xl) : State := linked { x with state := .up }
    (up {}).linkUp = true ∧ (up {}).xl.rootPort = false ∧ (up {}).xl.cache.seek 4 = none
    ∧ (up { cache := [(4, {})] }).xl.cache.seek 4 = some {} ∧ ({} : LinkLine).watched = false
    ∧ (up { withdraws := [(4, none)] }).xl.withdraws = [(4, none)] ∧ (up { withdraws := [(4, none)] }).xl.fills = []
    ∧ (up { withdraws := [(4, some {})] }).xl.withdraws = [(4, some {})] ∧ (up {}).xl.withdraws = [] := by decide

theorem hyp_CompanionAccesses_reads :
    0xC000000000 < 0xBFFFFFFFC0 + 65 ∧ 0 + 64 ≤ 0xC000000000 ∧ serving.linesServed (lineRange 0 64) = true
    ∧ serving.linesServed (lineRange 0x80000000 1) = false
    ∧ (match (State.readForCompanion (lineRange 60 8) (serving.strike {})).1 with
        | .ok (b, p) => b.length == 128 && !p
        | _ => false) = true
    ∧ serving.windowCore (0x200000 * 191) = some (15, 11) ∧ serving.windowCore (0x200000 * 192) = none
    ∧ (0x200000 * 191 + 0x1FFFF8) % 0x200000 + 8 ≤ 0x200000 ∧ (serving.core 15 11).lsBad = [] := by decide +kernel

theorem hyp_CompanionAccesses_writes :
    serving.companionMustWait .release = false
    ∧ (let s : State := { serving with xl := { serving.xl with withdraws := [(1, some { writer := .companion, tag := 1 })] } }
       s.companionMustWait .release = true ∧ s.companionMustWait .ordered = true ∧ s.companionMustWait .relaxed = false)
    ∧ serving.debugOpen 0x1000 = false := by decide

theorem hyp_CompanionAccesses_debug :
    let s : State := { serving with sec := { serving.sec with debug := true } }
    s.debugOpen 0x48000 = true ∧ s.debugOpen 0x9FFFF = false ∧ s.debugOpen 0x80FFFC = true := by decide

theorem hyp_ControlCoreAccesses :
    let s := banked []
    let a := s.controlCore 0 {}
    runsTo (ccBody a (.load 0 8)) (((s.strike {}).ccUpset a 0)) (fun v _ => v == 0) = true
    ∧ runsTo (ccBody a (.storeConditional 8 4 1)) (((s.strike {}).ccUpset a 8)) (fun v _ => v == 1) = true
    ∧ (match (ccBody a (.load (2 ^ 21) 8)).run ((s.strike {}).ccUpset a (2 ^ 21)) with
        | (.error (.fault st), _) => st == Code.transFault
        | _ => false) = true := by decide +kernel
/-! ### Hypotheses met: the fabric -/

/-- Port 0, enabled by the image, with flow 5. -/
def fabric (x : FabPort) (fl : Flow) : State :=
  let s := liveNouns {} []
  { s with
    gram := { s.gram with image := some { image0 with fab := [{ port := 0, enable := 1 }], remoteMgmt := true } }
    fab := [(0, { x with flows := [(5, fl)] })] }

theorem hyp_FabricPortsAndFlows_ports :
    (fabric {} {}).portReady 0 = true ∧ ((fabric {} {}).port 0).state = .off ∧ live.portReady 0 = false
    ∧ (let s := fabric { state := .training } {}
       (s.port 0).state ≠ .off ∧ (s.port 0).state ≠ .up ∧ (s.port 0).state.pending = true ∧ (∀ y ∈ (s.port 0).flows, y.2.state ≠ .open_))
    ∧ portMode 0 0x7E = none ∧ portMode 0 0xF0 = some (true, true) ∧ portMode 2 0xFF = some (true, false)
    ∧ portMode 0 0xFF = some (false, false) ∧ portMode 0 0x7F ≠ none ∧ ((fabric { state := .down } {}).port 0).state = .down
    ∧ (fabric {} {}).portPresent 7 = true ∧ (fabric {} {}).portPresent 8 = false ∧ (fabric {} {}).gram.image ≠ none := by decide

theorem hyp_FabricPortsAndFlows_flows :
    (fabric {} {}).portPresent 0 = true ∧ ((fabric {} {}).flow 0 5).enable = false ∧ ((fabric {} {}).flow 0 1023).enable = false
    ∧ ((fabric {} { enable := true }).flow 0 5).enable = true ∧ ((fabric {} { stream := true, local_ := 0xFFFF }).flow 0 5).stream = true
    ∧ station 0xFFFF = .reserved ∧ station (coreStation 0 0) ≠ .reserved := by decide

/-- A HELLO's payload: EPOCH 1, version 1, payload code and features as given. -/
def hello (version feat : Nat) : List Byte := leBytes 4 1 ++ leBytes 2 version ++ leBytes 1 2 ++ leBytes 1 feat ++ List.replicate 24 0

/-- Port 0 up, a packet at its head that names flow 5, the flow as given. -/
def received (p : Packet) (fl : Flow) : State := fabric { state := .up, rx := [{ p with dflow := 5 }] } fl

theorem hyp_FlowHellos :
    let s := received { typ := 0, payload := hello 1 2 } { state := .hello }
    (s.port 0).state = .up ∧ (s.flow 0 5).state = .hello ∧ (fabric {} {}).fabRec 0 = { port := 0, enable := 1 }
    ∧ (s.port 0).rx = [{ typ := 0, payload := hello 1 2, dflow := 5 }] ∧ bit (leAt (hello 1 2) 4 2) 0 = true
    ∧ bit (leAt (hello 2 2) 4 2) 0 = false ∧ (s.flow 0 5).stream = false ∧ bit (leAt (hello 1 2) 7 1 % 16) 1 = true
    ∧ ((received { typ := 0, payload := hello 1 2 } { state := .open_, peerEpoch := some 1 }).flow 0 5).peerEpoch
        = some (leAt (hello 1 2) 0 4)
    ∧ ((received { typ := 0, payload := hello 1 2 } { state := .open_, peerEpoch := some 7 }).flow 0 5).peerEpoch
        ≠ some (leAt (hello 1 2) 0 4)
    ∧ ((received { typ := 1, payload := hello 1 2 } { state := .hello }).port 0).rx = [{ typ := 1, payload := hello 1 2, dflow := 5 }]
    ∧ (let t : State := { s with gram := { s.gram with image := some { image0 with fab := [{ port := 0, enable := 1, carriage := 1 }] } } }
       (t.fabRec 0).carriage = 1 ∧ (t.port 0).ip = 0) := by decide

theorem hyp_FramesAndReceiveState :
    let read : Packet := { typ := 3, dflow := 5, sflow := 9, len := 64 }
    let s := fabric { state := .up, mac := 0x12 } { state := .open_, rflow := 9 }
    let m : Frame := { dmac := 0x12, etype := 0x88B5, packet := read }
    (fabric {} {}).port 0 = { flows := [(5, {})] } ∧ (s.port 0).state = .up ∧ m.fcsOk = true ∧ m.etype ≠ 0x8808
    ∧ m.dmac / 16 ≠ 0x0180C200000 ∧ 0x0180C200000F / 16 = 0x0180C200000 ∧ m.dmac = (s.port 0).mac ∧ m.tags ≤ 1 ∧ 64 ≤ m.bytes
    ∧ m.bytes ≤ 9216 ∧ m.etype = (s.port 0).etype ∧ (s.port 0).etype ≠ 0x86DD ∧ (s.fabRec 0).carriage = 0
    ∧ s.flowTakes 0 read = true ∧ s.flowTakes 0 { read with sflow := 8 } = false ∧ s.flowTakes 0 { read with typ := 13 } = false
    ∧ psnReached 3 0 = true ∧ psnReached 5 3 = true ∧ psnReached 0 5 = false ∧ (s.frame 0 5 { typ := 7 }).length = 64
    ∧ ((fabric {} { vlanEn := true }).flow 0 5).vlanEn = true
    ∧ (({ s with gram := { image := some { fab := [{ port := 0, carriage := 1 }] } } } : State).fabRec 0).carriage ≠ 0 := by decide

theorem hyp_RemoteRequests_sequenced :
    let s (p : Packet) : State := received p { state := .open_, expect := 7, atomics := [(6, 1)] }
    let after (p : Packet) : State := ((s p).modPort 0 fun x => { x with rx := [] }).cover 0 5 p
    ((s { typ := 5, psn := 6 }).flow 0 5).state = .open_ ∧ ((after { typ := 2, psn := 7 }).flow 0 5).expect = 7
    ∧ psnReached 8 7 = true ∧ psnReached 6 7 = false ∧ ((after { typ := 3, psn := 6 }).flow 0 5).requests = []
    ∧ ((after { typ := 5, psn := 6 }).flow 0 5).atomics.find? (fun a => a.1 == 6) = some (6, 1) := by decide

theorem hyp_RemoteRequests_performed :
    let s : State := { banked [] with fab := [(0, { state := .up, flows := [(5, { state := .open_ })] })] }
    let src := 0x8000 + 0 * 1024 + 5
    runsTo (do let places ← incomingLines src (s.flow 0 5).pid false (lineRange 60 8); incomingReads src places) s
        (fun b _ => b.length == 128) = true
    ∧ (match ((incomingLines src 0 false (lineRange (2 ^ 21) 8)).run s).1 with
        | .error (.fault st) => st == Code.transFault
        | _ => false) = true
    ∧ (s.performRequest 0 5 { typ := 3, len := 8 }).1 = true
    ∧ (({ s with stk := [] } : State).performRequest 0 5 { typ := 3, len := 8 }).1 = false := by decide +kernel

theorem hyp_RemoteRequests_management :
    let s := fabric { state := .up } { state := .open_, mgmt := true, feat := 8 }
    s.mgmtAllowed 0 5 = true ∧ (fabric {} { mgmt := true }).mgmtAllowed 0 5 = false ∧ bmcReads 0 = true
    ∧ (match s.regAt (.peer 0 5) 0 with
        | .reg _ _ => true
        | _ => false) = true ∧ 0x60000 ≠ 0x20010 ∧ 0x60000 ≠ 0x60004 := by decide

theorem hyp_RemoteAnswers :
    let w : Waiter := { psn := 3, writer := .verb 0 0 .d, tag := 1 }
    let s (p : Packet) : State :=
      received p { state := .open_, waiters := [w], sendPsn := 9, peerRecv := 2, halvedTo := 2, window := [({ psn := 8 }, 0)] }
    let after (p : Packet) : State := ((s p).modPort 0 fun x => { x with rx := [] }).cover 0 5 { p with dflow := 5 }
    ((after { typ := 4, psn := 3 }).flow 0 5).waiters.find? (·.psn == 3) = some w
    ∧ ((after { typ := 4, psn := 4 }).flow 0 5).waiters.find? (·.psn == 4) = none
    ∧ ((after { typ := 7, recvPsn := 4, ceEcho := true }).flow 0 5).halvedTo = 2 ∧ psnReached 4 2 = true
    ∧ ((s { typ := 8 }).flow 0 5).window = [({ psn := 8 }, 0)] ∧ ((s { typ := 8 }).port 0).retry = 7
    ∧ ((fabric {} { state := .open_ }).flow 0 5).window = [] ∧ ((s {}).flow 0 5).requests = []
    ∧ (∃ w ∈ ((fabric {} { state := .open_, window := [({}, 7)] }).flow 0 5).window, 7 ≤ w.2) := by decide

theorem hyp_RemoteAnswers_streams :
    let p : Packet := { typ := 9, psn := 7, dflow := 5, first := true, last := true, addr := 128, payload := zeroTile }
    let s : State :=
      { consuming [] with
        cores := [(0, { ({} : CoreSt) with
          run := .running
          ports := [(0, { consumer := true, peer := 0x8005, noun := mat fmtUINT32 32 1 0 })] })]
        fab := [(0, { state := .up, rx := [p], flows := [(5, { state := .open_, stream := true, expect := 7 })] })] }
    let t0 := (s.modPort 0 fun x => { x with rx := [] }).cover 0 5 p
    (s.port 0).rx = [p] ∧ (s.flow 0 5).state = .open_ ∧ p.psn = (t0.flow 0 5).expect ∧ zeroTile.length = p.addr
    ∧ t0.tileFits (t0.flow 0 5).local_ 0x8005 zeroTile = true ∧ t0.tileFits (t0.flow 0 5).local_ 0x8005 [] = false
    ∧ (t0.landTile 0 5 zeroTile).1 = true
    ∧ (let port : Port := { consumer := true, peer := 0x8005, noun := { mat fmtUINT32 32 1 0 with space := 0 }, landing := some 3 }
       let t : State := { t0 with
         cores := [(0, { ({} : CoreSt) with run := .running, ports := [(0, port)] })]
         stk := [(0, { t0.stack 0 with held := [(5, { writer := .verb 0 0 .m, tag := 3 })] })] }
       t.tileFits (t.flow 0 5).local_ 0x8005 zeroTile = true ∧ (t.landTile 0 5 zeroTile).1 = false) := by decide +kernel
/-! ### Hypotheses met: power, temperature, registers, attestation, background work -/

/-- `serving` with a budget for domains 0, 44 and 56, and the power manager as given. -/
def powered (f : Pwr → Pwr) : State :=
  { serving with
    mgmt := { serving.mgmt with boot := .ready }
    gram := { serving.gram with image := some { image0 with pwr := [0, 32, 44, 56].map fun d => { domain := d, budget := 10 } } }
    pwr := f serving.pwr }

theorem hyp_PowerManagerWindows_domains :
    serving.admittedOn 0 = [] ∧ serving.domainReady 32 = true ∧ (serving.stack 0).state = .inService ∧ (serving.stack 0).tg.run = none
    ∧ (serving.stack 0).scrub.state ≠ 1 ∧ (serving.stack 0).held = [] ∧ (serving.stack 0).heldWaiting = [] ∧ serving.domainReady 44 = true
    ∧ (let s := powered fun x => { x with domOn := 0, waking := 1 + 2 ^ 44 + 2 ^ 56 + 2 ^ 66 }
       s.domainReady 44 = false ∧ s.wanted 44 = true ∧ s.budget 44 ≠ 0 ∧ s.wanted 56 = true ∧ s.budget 56 ≠ 0 ∧ s.wanted 66 = true
       ∧ s.domainReady 66 = false ∧ s.budget 66 = 0 ∧ s.wanted 1 = false) := by decide

theorem hyp_PowerManagerWindows_window :
    (powered id).mgmt.boot = .ready ∧ State.reset.mgmt.boot ≠ .ready := by decide

theorem hyp_PowerLimitAndAlert_limit :
    (powered fun x => { x with restricted := true }).pwr.restricted = true ∧ live.gram.image = some image0
    ∧ (powered fun x => { x with alert := true }).pwr.alert = true ∧ live.thm.t = 0 ∧ live.pwr.alert = false ∧ live.pwr.restricted = false
    ∧ ({ live with thm := { live.thm with t := 31 } } : State).thm.t = 31 ∧ live.thm.t ≤ 31 := by decide

theorem hyp_PowerLimitAndAlert_orders :
    let a : Order := { rank := 2, by_ := .bmc, object := 1, value := 90 }
    let b : Order := { rank := 3, by_ := .companion, object := 1, value := 91 }
    (powered fun x => { x with orders := [a, b] }).pwr.orders = [a, b] ∧ a.object = b.object ∧ a.rank < b.rank ∧ a.value ≠ b.value
    ∧ (∀ f n, b.by_ ≠ .peer f n) ∧ b.object ≠ 0 := by
  refine ⟨rfl, rfl, by decide, by decide, fun _ _ => by simp, by decide⟩

theorem hyp_PowerLimitAndAlert_alert :
    (powered fun x => { x with alertPin := true, alert := true }).pwr.alertPin = true ∧ live.pwr.alertPin = false
    ∧ live.mgmt.boot ≠ .reset ∧ live.mgmt.boot ≠ .shutdown
    ∧ (powered fun x => { x with alertPin := true, alert := true }).pwr.alertStuck = false
    ∧ (powered fun x => { x with alertPin := true, alert := true }).pwr.alert = true
    ∧ (300 : Nat) ≤ 2400 ∧ 2401 < 4096 ∧ 1 ≤ 299 ∧ 299 < 300 := by decide

/-- Stack 0 with a descriptor whose TMAX is 105 °C, at a temperature given in 0.25 °C. -/
def stackAt (t : Nat) : State :=
  { live with stk := [(0, { descriptor := List.replicate 0x1C 0 ++ [105] ++ List.replicate 35 0, temp := t })] }

theorem hyp_ShutdownAndThermal_shutdown :
    live.mgmt.boot = .ready ∧ live.flash.shutdowns.length ≤ 16 ∧ (∀ f n, Master.companion ≠ .peer f n) ∧ (booted .halted).mgmt.boot = .halted
    ∧ (booted .shutdown).mgmt.boot = .shutdown ∧ ((stackAt 420).stack 0).tmax = some 105 ∧ (stackAt 420).stackPresent 0 = true
    ∧ 4 * (105 : Int) ≤ signed 12 ((stackAt 420).stack 0).temp ∧ signed 12 ((stackAt 419).stack 0).temp < 4 * (105 : Int)
    ∧ bits 0x4 2 5 ≠ 0 ∧ bits 0x4080 2 5 = 0 ∧ bit 0x4080 14 = true ∧ bit 0x80 14 = false := by
  refine ⟨by decide, by decide, fun _ _ => by simp, ?_⟩
  decide

theorem hyp_ShutdownAndThermal_records :
    let s : State := { live with flash := { live.flash with shutdowns := [{ seq := 7, acked := false }] } }
    (∀ f n, Master.bmc ≠ .peer f n) ∧ (∃ r ∈ s.flash.shutdowns, r.seq = 7 ∧ r.acked = false)
    ∧ (∀ r ∈ s.flash.shutdowns, r.seq = 8 → r.acked = true) := by
  refine ⟨fun _ _ => by simp, ?_⟩
  decide

theorem hyp_ShutdownAndThermal_level :
    let s (f : Thm → Thm) : State := { live with thm := f live.thm }
    live.mgmt.boot = .ready ∧ live.thm.risen = none ∧ (s fun x => { x with earlier := [(0, 0)], regions := [(3, 8)] }).thm.risen = some 3
    ∧ (let t := s fun x => { x with windowH := [400, 401] }
       t.thm.windowH ≠ [] ∧ ∀ h ∈ t.thm.windowH, 4 * (t.thm.throttle : Int) ≤ h)
    ∧ (let t := s fun x => { x with windowH := [388] }
       t.thm.windowH ≠ [] ∧ t.thm.rise = false ∧ ∀ h ∈ t.thm.windowH, h ≤ 4 * (t.thm.throttle : Int) - 12)
    ∧ bit live.mgmt.bkgRun 2 = false ∧ bit ({ live with mgmt := { live.mgmt with bkgRun := 4 } } : State).mgmt.bkgRun 2 = true
    ∧ (40 : Int) - live.thm.watched 15 ≤ 40 ∧ live.thm.watched 15 - 40 ≤ 40 := by decide +kernel

theorem hyp_RegistersReadAndWritten :
    let isReg (s : State) (off w : Nat) : Bool := match s.regAt .companion off with
      | .reg x _ => x == w
      | _ => false
    isReg live 0x10008 8 = true ∧ isReg live 0x10010 4 = true ∧ isReg live 0x60004 4 = true ∧ isReg State.reset 0x60004 4 = true
    ∧ blockAt 0x60004 = some (.sched, 4) ∧ Block.needsImage .sched = true ∧ Block.needsImage .gram = false
    ∧ live.regAt .companion 0x10009 = .hole
    ∧ ({ live with fuses := { live.fuses with ports := 0 } } : State).regAt .companion 0x100000 = .lacking
    ∧ (∀ o, blockAt 0x10008 ≠ some (.debug, o)) ∧ blockAt 0x48000 = some (.debug, 0x8000) ∧ live.sec.debug = false
    ∧ ({ live with sec := { live.sec with debug := true } } : State).sec.debug = true
    ∧ ownCores 0 0x10000 = false ∧ ownCores 0 (coreOffset 0 11 4) = true ∧ ownCores 0 (coreOffset 1 0 4) = false := by
  refine ⟨by decide, by decide, by decide, by decide, by decide, by decide, by decide, by decide, by decide, fun o => ?_, ?_⟩
  · rw [show blockAt 0x10008 = some (.gram, 8) by decide]
    simp
  · decide

theorem hyp_RegistersReadAndWritten_fields :
    (2 ^ 64 - 64) % 64 = 0 ∧ 65 % 64 ≠ 0 ∧ (let v := 30 + 32 * 16 + 1024 * 1000
      bits v 0 5 = 30 ∧ bits v 5 5 = 16 ∧ bits v 10 10 = 1000 ∧ v < 2 ^ 32) ∧ bits 9 0 5 < 10 ∧ bits 31 0 5 = 31
    ∧ bmcReads 0x20010 = true ∧ bmcReads 0x10000 = false ∧ live.mgmt.boot = .ready ∧ State.reset.gram.image = none
    ∧ (match live.regAt .bmc 0x20010 with
        | .reg _ _ => true
        | _ => false) = true ∧ 0x20018 ∉ [0x20010, 0x20048, 0x20A04, 0x30008, 0x60004] := by decide

theorem hyp_AttestationAndBackground_attestation :
    let s (f : Sec → Sec) : State := { live with sec := f live.sec }
    live.sec.attState ≠ 1 ∧ (s fun x => { x with attState := 1, attJob := 1 }).sec.attState = 1
    ∧ (s fun x => { x with attState := 1, attJob := 1 }).sec.attJob = 1 ∧ live.mgmt.boot = .ready
    ∧ (s fun x => { x with report := [1] }).sec.report ≠ [] := by decide

theorem hyp_AttestationAndBackground_background :
    let run (n : Nat) : State := { live with mgmt := { live.mgmt with bkgRun := n, telEnable := true, telLog2 := 6 } }
    bit (run 8).mgmt.bkgRun 3 = true ∧ bit live.mgmt.bkgRun 3 = false ∧ bit (run 16).mgmt.bkgRun 4 = true
    ∧ bit (run 32).mgmt.bkgRun 5 = true ∧ (run 32).mgmt.telEnable = true ∧ (run 32).srv.tick % (run 32).srvImage.telem = 0
    ∧ (run 32).linkUp = true ∧ ({ run 32 with xl := {} } : State).linkUp = false ∧ live.mgmt.telEnable = false
    ∧ bits 0xE 0 4 = 14 ∧ bits 5 0 4 < 6 ∧ bits 0x16 0 4 = (run 32).mgmt.telLog2 := by decide

theorem hyp_MemoryFormKept : Memory.wf State.reset.mem = true ∧ exec (.nopRecord 0) State.reset = .next State.reset := by
  refine ⟨by decide, rfl⟩

theorem hyp_CommandsRunAndLeaveTheQueue : exec (.registerWrite .bmc 0 4 0) live = .next live := rfl

end Sys2Proof.Tests
end

/-! ## The scope of the block: what reset leaves, and the accesses of the management window -/

section
namespace Sys2Proof.Machine

/-! ### What reset leaves -/

@[simp] theorem reset_port (f : Nat) : State.reset.port f = {} := Tbl.look_nil _ f

@[simp] theorem reset_stack (n : Nat) : State.reset.stack n = {} := Tbl.look_nil _ n

/-! ### What lies at an offset of the window (R31, R448) -/

variable {s : State} {by_ : Master} {off size v w x o : Nat} {b : Block}

theorem regAt_debug (h : blockAt off = some (.debug, o)) : s.regAt by_ off = .lacking := by
  simp [State.regAt, h]

theorem regAt_block (hb : blockAt off = some (b, o)) (hd : b ≠ .debug) :
    s.regAt by_ off = if s.blockLacks b then .lacking
      else if b.needsImage && s.gram.image.isNone then (s.blockRegs by_ b o).zeroed else s.blockRegs by_ b o := by
  cases b
  case debug => exact absurd rfl hd
  all_goals simp [State.regAt, hb]

/-- A register lies in a block, and in no debug module. -/
theorem exists_block_of_reg (h : s.regAt by_ off = .reg w x) : ∃ b o, blockAt off = some (b, o) ∧ b ≠ .debug := by
  match hb : blockAt off with
  | none => simp [State.regAt, hb] at h
  | some (b, o) =>
    refine ⟨b, o, rfl, ?_⟩
    rintro rfl
    simp [regAt_debug hb] at h

theorem RegAt.eq_zero_of_zeroed {r : RegAt} (h : r.zeroed = .reg w x) : x = 0 := by
  cases r with
  | reg w' x' => exact (RegAt.reg.inj h).2.symm
  | lacking => cases h
  | hole => cases h

/-- Before an image the registers of a block that needs one read zero (R31). -/
theorem reg_zero_beforeImage (hb : blockAt off = some (b, o)) (hn : b.needsImage = true) (hi : s.gram.image = none)
    (h : s.regAt by_ off = .reg w x) : x = 0 := by
  have hd : b ≠ .debug := by
    rintro rfl
    cases hn
  rw [regAt_block hb hd] at h
  split at h
  · cases h
  · exact RegAt.eq_zero_of_zeroed (by simpa [hn, hi] using h)

/-! ### Reads -/

/-- A register answers a read of its width, and records any other (R7). -/
theorem readReg_reg (h : s.regAt by_ off = .reg w x) :
    s.readReg by_ off size = if w = size then (x, s) else (allOnes size, s.recordAccess Code.badAccess off) := by
  obtain ⟨b, o, hb, hd⟩ := exists_block_of_reg h
  unfold State.readReg
  split
  case h_1 _ hdebug => exact absurd (congrArg Prod.fst (Option.some.inj (hb.symm.trans hdebug))) hd
  case h_2 => rw [h]

theorem readReg_hole (h : s.regAt by_ off = .hole) :
    s.readReg by_ off size = (allOnes size, s.recordAccess Code.badAccess off) := by
  unfold State.readReg
  split
  case h_1 _ hdebug => simp [regAt_debug hdebug] at h
  case h_2 => rw [h]

theorem readReg_lacking (hd : ∀ o, blockAt off ≠ some (.debug, o)) (h : s.regAt by_ off = .lacking) :
    s.readReg by_ off size = (allOnes size, s) := by
  unfold State.readReg
  split
  case h_1 o hdebug => exact absurd hdebug (hd o)
  case h_2 => rw [h]

/-! ### Writes -/

theorem writeReg_reg (h : s.regAt by_ off = .reg w x) (hb : blockAt off = some (b, o)) :
    s.writeReg by_ off size v = if w ≠ size then s.recordAccess Code.badAccess off
      else if b.needsImage = true ∧ s.gram.image = none then s.recordAccess Code.noImage off
      else s.writeBlock by_ b o (v % 2 ^ (8 * size)) := by
  simp [State.writeReg, h, hb]

theorem writeReg_wrongWidth (h : s.regAt by_ off = .reg w x) (hw : w ≠ size) :
    s.writeReg by_ off size v = s.recordAccess Code.badAccess off := by
  obtain ⟨b, o, hb, -⟩ := exists_block_of_reg h
  rw [writeReg_reg h hb, if_pos hw]

theorem writeReg_beforeImage (h : s.regAt by_ off = .reg size x) (hb : blockAt off = some (b, o))
    (hn : b.needsImage = true) (hi : s.gram.image = none) : s.writeReg by_ off size v = s.recordAccess Code.noImage off := by
  rw [writeReg_reg h hb, if_neg (not_not_intro rfl), if_pos ⟨hn, hi⟩]

theorem writeReg_taken (h : s.regAt by_ off = .reg size x) (hb : blockAt off = some (b, o))
    (hi : b.needsImage = false ∨ s.gram.image ≠ none) :
    s.writeReg by_ off size v = s.writeBlock by_ b o (v % 2 ^ (8 * size)) := by
  rw [writeReg_reg h hb, if_neg (not_not_intro rfl), if_neg]
  rintro ⟨hn, hnone⟩
  rcases hi with hi | hi
  · cases hi.symm.trans hn
  · exact hi hnone

theorem writeReg_hole (h : s.regAt by_ off = .hole) : s.writeReg by_ off size v = s.recordAccess Code.badAccess off := by
  simp [State.writeReg, h]

theorem writeReg_lacking (hd : ∀ o, blockAt off ≠ some (.debug, o)) (h : s.regAt by_ off = .lacking) :
    s.writeReg by_ off size v = s.recordAccess Code.badAccess off := by
  unfold State.writeReg
  split
  case h_1 hreg _ => cases h.symm.trans hreg
  case h_2 o _ hdebug => exact absurd hdebug (hd o)
  case h_3 => rfl

theorem writeReg_debug (h : blockAt off = some (.debug, o)) : s.writeReg by_ off size v = s := by
  simp [State.writeReg, regAt_debug h, h]

/-! ### REGISTER_WRITE by each master (R112, R394, R413) -/

theorem exec_registerWrite : exec (.registerWrite by_ off size v) s = execRegisterWrite by_ off size v s := rfl

theorem debugOpen_debug (h : blockAt off = some (.debug, o)) : s.debugOpen off = s.sec.debug := by
  simp [State.debugOpen, h]

theorem debugOpen_outside (hd : ∀ o, blockAt off ≠ some (.debug, o)) : s.debugOpen off = false := by
  unfold State.debugOpen
  split
  case h_1 o hdebug => exact absurd hdebug (hd o)
  case h_2 => exact Bool.and_false _

theorem exec_registerWrite_companion (h : s.debugOpen off = false) :
    exec (.registerWrite .companion off size v) s = .next (s.writeReg .companion off size v) := by
  simp [exec_registerWrite, execRegisterWrite, h]

theorem exec_registerWrite_companion_refused (h : s.debugOpen off = true) :
    exec (.registerWrite .companion off size v) s = .refused .debugModule := by
  simp [exec_registerWrite, execRegisterWrite, h]

theorem exec_registerWrite_controlCore (c : Nat) : exec (.registerWrite (.controlCore c) off size v) s
    = .next (if ownCores c off then s.writeReg (.controlCore c) off size v else s) := rfl

/-- A write of the companion outside the debug modules completes with what the window makes of it. -/
theorem companionWrite_completes {t : State} (hd : ∀ o, blockAt off ≠ some (.debug, o))
    (h : s.writeReg .companion off size v = t) : Completes (.registerWrite .companion off size v) s (· = t) :=
  ⟨t, by rw [exec_registerWrite_companion (debugOpen_outside hd), h], rfl⟩

/-- A write of the companion that fits a register of a block in force without an image has the block's effect. -/
theorem companionWrite_fits {t : State} (hb : blockAt off = some (b, o)) (hr : s.regAt .companion off = .reg size x)
    (hn : b.needsImage = false) (hv : v < 2 ^ (8 * size)) (h : s.writeBlock .companion b o v = t) :
    Completes (.registerWrite .companion off size v) s (· = t) := by
  have hd : ∀ o', blockAt off ≠ some (.debug, o') := by
    intro o' hdebug
    simp [regAt_debug hdebug] at hr
  refine companionWrite_completes hd ?_
  rw [writeReg_taken hr hb (.inl hn), Nat.mod_eq_of_lt hv, h]

/-! ### The fields of single registers (R9, R58, R399, R440) -/

theorem writeFields_accepted {status set_ : State → State} {ok : Bool} (h : ok = true) :
    s.writeFields off status ok set_ = set_ s := if_pos h

theorem writeFields_reserved {status set_ : State → State} {ok : Bool} (h : ok = false) :
    s.writeFields off status ok set_ = (status s).recordAccess Code.badValue off := by
  subst h
  rfl

theorem writeGram_src : s.writeGram 8 v = s.writeFields 0x10008 State.gramBad (v % 64 == 0) fun s =>
    s.modGram fun x => { x with src := v } := rfl

theorem gramSrc_completes {t : State} (hv : v < 2 ^ 64) (h : s.writeGram 8 v = t) :
    Completes (.registerWrite .companion 0x10008 8 v) s (· = t) :=
  companionWrite_fits (b := .gram) (o := 8) (x := s.gram.src) rfl rfl rfl hv h

theorem gramSrc_written (hv : v < 2 ^ 64) (h : v % 64 = 0) : Completes (.registerWrite .companion 0x10008 8 v) s fun t =>
    t = { s with gram := { s.gram with src := v } } :=
  gramSrc_completes hv (writeGram_src.trans (writeFields_accepted (by simp [h])))

theorem gramSrc_refused (hv : v < 2 ^ 64) (h : v % 64 ≠ 0) : Completes (.registerWrite .companion 0x10008 8 v) s fun t =>
    t = ({ s with gram := { s.gram with lastCmd := Code.badValue } } : State).recordAccess Code.badValue 0x10008 :=
  gramSrc_completes hv (writeGram_src.trans (writeFields_reserved (by simp [h])))

theorem gramLen_written (hv : v < 2 ^ 32) : Completes (.registerWrite .companion 0x10010 4 v) s fun t =>
    t = { s with gram := { s.gram with len := v } } :=
  companionWrite_fits (b := .gram) (o := 0x10) (x := s.gram.len) rfl rfl rfl hv rfl

theorem inRange_iff {lo hi : Nat} : inRange x lo hi = true ↔ lo ≤ x ∧ x ≤ hi := by simp [inRange]

/-- The values PWR_ALERT takes (R391). -/
def alertAllowed (v : Nat) : Bool := inRange (bits v 0 5) 10 30 && inRange (bits v 5 5) 2 16 && inRange (bits v 10 10) 1 1000

theorem writeAlert_eq : s.writeAlert v = s.writeFields 0x20020 (fun s => s.pwrStatus Code.badValue) (alertAllowed v) fun s =>
    (s.modPwr fun x => { x with alertFreq := bits v 0 5, alertB := bits v 5 5, alertHold := bits v 10 10 }).pwrStatus Code.ok := rfl

theorem alertAllowed_iff : alertAllowed v = true ↔
    (10 ≤ bits v 0 5 ∧ bits v 0 5 ≤ 30) ∧ (2 ≤ bits v 5 5 ∧ bits v 5 5 ≤ 16) ∧ 1 ≤ bits v 10 10 ∧ bits v 10 10 ≤ 1000 := by
  simp only [alertAllowed, Bool.and_eq_true, inRange_iff, and_assoc]

theorem pwrAlert_completes {t : State} (hv : v < 2 ^ 32) (h : s.writeAlert v = t) :
    Completes (.registerWrite .companion 0x20020 4 v) s (· = t) :=
  companionWrite_fits (b := .pwr) (o := 0x20)
    (x := field 0 5 s.pwr.alertFreq + field 5 5 s.pwr.alertB + field 10 10 s.pwr.alertHold) rfl rfl rfl hv h

theorem pwrAlert_written (hv : v < 2 ^ 32) (h : alertAllowed v = true) :
    Completes (.registerWrite .companion 0x20020 4 v) s fun t =>
      t = { s with pwr := { s.pwr with alertFreq := bits v 0 5, alertB := bits v 5 5, alertHold := bits v 10 10, lastCmd := Code.ok } } :=
  pwrAlert_completes hv (writeAlert_eq.trans (writeFields_accepted h))

theorem pwrAlert_refused (hv : v < 2 ^ 32) (h : alertAllowed v = false) :
    Completes (.registerWrite .companion 0x20020 4 v) s fun t =>
      t = ({ s with pwr := { s.pwr with lastCmd := Code.badValue } } : State).recordAccess Code.badValue 0x20020 :=
  pwrAlert_completes hv (writeAlert_eq.trans (writeFields_reserved h))

theorem resetCauses_cleared (hv : v < 2 ^ 32) : Completes (.registerWrite .companion 0xA080 4 v) s fun t =>
    t = { s with mgmt := s.mgmt.clearCauses v } :=
  companionWrite_fits (b := .mgmt) (o := 0xA080) (x := s.mgmt.resetCause) rfl rfl rfl hv rfl

/-! ### The board management controller (R394) -/

theorem exec_mctpRead : exec (.mctpRead off) s = execMctpRead off s := rfl

theorem exec_mctpWrite : exec (.mctpWrite off v) s = execMctpWrite off v s := rfl

theorem bmcServed_iff : s.bmcServed = true ↔ s.mgmt.boot = .firmware ∨ s.mgmt.boot = .ready ∨ s.mgmt.boot = .shutdown := by
  simp [State.bmcServed, or_assoc]

theorem exec_mctpRead_reg (hs : s.bmcServed = true) (hb : bmcReads off = true) (hr : s.regAt .bmc off = .reg w x) :
    exec (.mctpRead off) s = .next (s.emit (.mctpReply Code.ok (leBytes 8 x))) := by
  simp [exec_mctpRead, execMctpRead, hs, hb, hr, State.mctpAnswer]

theorem exec_mctpRead_closed (hs : s.bmcServed = true) (hb : bmcReads off = false) :
    exec (.mctpRead off) s = .next (s.emit (.mctpReply Code.badAccess (leBytes 8 0))) := by
  simp [exec_mctpRead, execMctpRead, hs, hb, State.mctpAnswer]

theorem exec_mctpWrite_closed (hs : s.bmcServed = true) (h : off ∉ bmcWrites) :
    exec (.mctpWrite off v) s = .next (s.emit (.mctpReply Code.badAccess (leBytes 8 0))) := by
  simp [exec_mctpWrite, execMctpWrite, hs, h, State.mctpAnswer]

/-- A write the controller may make, SCHED_PHASE before an image aside, is answered with the status it left. -/
theorem exec_mctpWrite_open (hs : s.bmcServed = true) (h : off ∈ bmcWrites) (hp : off = 0x60004 → s.gram.image ≠ none) :
    exec (.mctpWrite off v) s
      = .next ((s.writeReg .bmc off 4 v).emit (.mctpReply ((s.writeReg .bmc off 4 v).orderStatus off) (leBytes 8 0))) := by
  simpa [exec_mctpWrite, execMctpWrite, hs, h, State.mctpAnswer] using fun hoff hnone => absurd hnone (hp hoff)

theorem exec_mctpWrite_phase_beforeImage (hs : s.bmcServed = true) (hi : s.gram.image = none) :
    exec (.mctpWrite 0x60004 v) s
      = .next ((s.recordAccess Code.noImage 0x60004).emit (.mctpReply Code.noImage (leBytes 8 0))) := by
  simp [exec_mctpWrite, execMctpWrite, hs, hi, bmcWrites, State.mctpAnswer]

/-- The power and thermal registers that the controller writes answer from their own block. -/
theorem orderStatus_power_thermal (h : off ∈ [0x20010, 0x20048, 0x20A04, 0x30008]) :
    s.orderStatus off = if off / 0x10000 = 2 then s.pwr.lastCmd else s.thm.lastCmd := by
  simp only [List.mem_cons, List.not_mem_nil, or_false] at h
  rcases h with rfl | rfl | rfl | rfl <;> rfl

end Sys2Proof.Machine
end

section
open Sys2Proof Sys2Proof.Machine

/-! ### The parts of the two statements -/

theorem Sys2Proof.Claims.resetState : Sys2Proof.Claims.ResetState := by
  refine ⟨rfl, rfl, rfl, rfl, rfl, rfl, rfl, rfl, fun f => ?_, fun n => ?_, rfl, rfl, rfl, rfl, fun _ => rfl,
    rfl, rfl, rfl, rfl, rfl⟩
  · rw [reset_port]
  · rw [reset_stack]
    exact ⟨rfl, rfl, rfl⟩

theorem Sys2Proof.Claims.registerAccessRules : Sys2Proof.Claims.RegisterAccessRules := by
  intro by_ off size v s hd recorded
  refine ⟨fun w x hr => ⟨fun hw => ?_, fun hw => ?_, ?_, ?_⟩, fun hr => ⟨readReg_hole hr, ?_⟩,
    fun hr => ⟨readReg_lacking hd hr, ?_⟩⟩
  · rw [readReg_reg hr, if_pos hw]
  · rw [readReg_reg hr, if_neg hw]
    rfl
  · rintro rfl hw
    exact companionWrite_completes hd (writeReg_wrongWidth hr hw)
  · rintro b o rfl rfl hb
    exact ⟨fun hn hi => ⟨reg_zero_beforeImage hb hn hi hr, companionWrite_completes hd (writeReg_beforeImage hr hb hn hi)⟩,
      fun hi => companionWrite_completes hd (writeReg_taken hr hb hi)⟩
  · rintro rfl
    exact companionWrite_completes hd (writeReg_hole hr)
  · rintro rfl
    exact companionWrite_completes hd (writeReg_lacking hd hr)

theorem Sys2Proof.Claims.registerReach : Sys2Proof.Claims.RegisterReach := by
  refine ⟨fun c off size v s h => ?_, fun c off size v s h => ⟨_, ?_, rfl⟩, fun _ _ _ _ => rfl, fun _ _ _ _ _ _ => rfl,
    fun off o size v s h => ⟨fun locked => ?_, fun unlocked => ?_⟩⟩
  · simp [exec_registerWrite_controlCore, h]
  · simp [exec_registerWrite_controlCore, h]
  · rw [exec_registerWrite_companion ((debugOpen_debug h).trans locked), writeReg_debug h]
  · exact exec_registerWrite_companion_refused ((debugOpen_debug h).trans unlocked)

theorem Sys2Proof.Claims.registerFields : Sys2Proof.Claims.RegisterFields := by
  refine fun v s => ⟨fun h hv => gramSrc_written hv h, fun h hv => gramSrc_refused hv h, gramLen_written, ⟨?_, ?_⟩,
    resetCauses_cleared⟩
  · intro hv f10 f30 b2 b16 h1 h1000
    exact pwrAlert_written hv (alertAllowed_iff.2 ⟨⟨f10, f30⟩, ⟨b2, b16⟩, h1, h1000⟩)
  · intro hv outside
    refine pwrAlert_refused hv (Bool.eq_false_iff.2 fun allowed => ?_)
    have := alertAllowed_iff.1 allowed
    omega

theorem Sys2Proof.Claims.bmcAccesses : Sys2Proof.Claims.BmcAccesses := by
  intro off v s hboot
  have hs : s.bmcServed = true := bmcServed_iff.2 hboot
  refine ⟨fun w x hb hr => ⟨_, exec_mctpRead_reg hs hb hr, rfl⟩, fun hb => ⟨_, exec_mctpRead_closed hs hb, rfl⟩,
    fun h => ⟨_, exec_mctpWrite_closed hs h, rfl⟩, fun h => ?_, fun hi => ⟨_, exec_mctpWrite_phase_beforeImage hs hi, rfl⟩⟩
  have hopen : off ∈ bmcWrites := by
    simp only [bmcWrites, List.mem_cons, List.not_mem_nil, or_false] at h ⊢
    omega
  refine ⟨_, exec_mctpWrite_open hs hopen ?_, _, rfl, by rw [orderStatus_power_thermal h]⟩
  rintro rfl
  simp at h

/-- Settles O57, from the window's access rules, each master's reach, the fields of single registers, and the controller's accesses. -/
theorem registersReadAndWritten : Obligations.RegistersReadAndWritten :=
  ⟨Sys2Proof.Claims.registerAccessRules, Sys2Proof.Claims.registerReach, Sys2Proof.Claims.registerFields,
    Sys2Proof.Claims.bmcAccesses⟩

/-- Settles O3: every table of the reset state is empty, so each unit and every byte reads its default. -/
theorem resetLeavesTheBlockIdle : Obligations.ResetLeavesTheBlockIdle := ⟨Sys2Proof.Claims.resetState, rfl⟩

end

/-! ## The architecture's islands: the idle step, scopes, atomics, the check-value unit, and the event rings -/

section
namespace Sys2Proof.Machine

/-! ### The idle step (R26) -/

/-- An idle block moves its serving tick alone (log entry 5). -/
theorem State.idle_eq (s : State) :
    s.idle = { s with srv := { s.srv with tick := if s.srv.ticking then (s.srv.tick + 1) % 2 ^ 64 else s.srv.tick } } := by
  unfold State.idle
  split <;> rfl

theorem step_idle {s : State} (h : s.pending = []) : step s = .next s.idle := by
  unfold step
  rw [h]

/-! ### What a party's narrowest scope says of where it is (R28, R29) -/

namespace Party

variable {p q : Party} {a b c : Nat}

/-- The members of a cluster are on its die. -/
theorem die_of_cluster (h : p.cluster = some c) : p.die = some (dieOfCluster c) := by
  cases p <;> cases h <;> rfl

theorem exists_cluster (h : p.narrowest ≤ 1) : ∃ c, p.cluster = some c := by
  cases p
  case core c k => exact ⟨c, rfl⟩
  case control c => exact ⟨c, rfl⟩
  case cache c => exact ⟨c, rfl⟩
  all_goals simp [narrowest] at h

theorem exists_die (h : p.narrowest ≤ 2) : ∃ d, p.die = some d := by
  cases p
  case management | companion | peer => simp [narrowest] at h
  all_goals exact ⟨_, rfl⟩

theorem onDevice_of_die {d : Nat} (h : p.die = some d) : p.onDevice = true := by
  cases p
  case companion | peer => cases h
  all_goals rfl

theorem onDevice_of_narrowest (h : p.narrowest ≤ 3) : p.onDevice = true := by
  cases p
  case companion | peer => simp [narrowest] at h
  all_goals rfl

/-! ### The scopes as sets of parties -/

theorem effective_of_le (h : p.narrowest ≤ a) : p.effective a = a := Nat.max_eq_left h

/-- A scope narrower than the issuer's narrowest acts as that (R29). -/
theorem reaches_max_narrowest : p.reaches a q = p.reaches (max a p.narrowest) q := by
  unfold reaches effective
  rw [Nat.max_assoc, Nat.max_self]

theorem reaches_core (h : p.narrowest ≤ 0) : p.reaches 0 q = true ↔ p = q := by
  simp [reaches, effective_of_le h]

theorem reaches_cluster (h : p.narrowest ≤ 1) : p.reaches 1 q = true ↔ p.cluster = q.cluster := by
  obtain ⟨c, hc⟩ := exists_cluster h
  simp [reaches, effective_of_le h, hc]

theorem reaches_die (h : p.narrowest ≤ 2) : p.reaches 2 q = true ↔ p.die = q.die := by
  obtain ⟨d, hd⟩ := exists_die h
  simp [reaches, effective_of_le h, hd]

theorem reaches_device (h : p.narrowest ≤ 3) : p.reaches 3 q = q.onDevice := by
  simp [reaches, effective_of_le h]

theorem narrowest_le : p.narrowest ≤ 4 := by
  cases p <;> simp [narrowest]

theorem reaches_system (h : 4 ≤ a) : p.reaches a q = true := by
  obtain ⟨n, rfl⟩ : ∃ n, a = n + 4 := ⟨a - 4, by omega⟩
  simp [reaches, effective_of_le (Nat.le_trans narrowest_le h)]

/-- A scope the issuer has contains its next narrower one. -/
theorem reaches_succ (hp : p.narrowest ≤ a) (h : p.reaches a q = true) : p.reaches (a + 1) q = true := by
  have hp' : p.narrowest ≤ a + 1 := by omega
  match a with
  | 0 => rw [reaches_cluster hp', (reaches_core hp).1 h]
  | 1 =>
    obtain ⟨c, hc⟩ := exists_cluster hp
    rw [reaches_die hp', die_of_cluster hc, die_of_cluster (((reaches_cluster hp).1 h).symm.trans hc)]
  | 2 =>
    obtain ⟨d, hd⟩ := exists_die hp
    rw [reaches_device hp', onDevice_of_die (((reaches_die hp).1 h).symm.trans hd)]
  | n + 3 => exact reaches_system (by omega)

/-- Scopes nest: each contains the issuer's narrower ones. -/
theorem reaches_mono (hab : a ≤ b) (h : p.reaches a q = true) : p.reaches b q = true := by
  induction hab with
  | refl => exact h
  | @step b _ ih =>
    by_cases hp : p.narrowest ≤ b
    · exact reaches_succ hp ih
    · rw [reaches_max_narrowest, Nat.max_eq_right (by omega)] at ih ⊢
      exact ih

/-- Every scope of an issuer contains the issuer. -/
theorem reaches_self : p.reaches a p = true := by
  suffices h : p.reaches p.narrowest p = true by
    rw [reaches_max_narrowest]
    exact reaches_mono (Nat.le_max_right ..) h
  match hp : p.narrowest with
  | 0 => exact (reaches_core (Nat.le_of_eq hp)).2 rfl
  | 1 => exact (reaches_cluster (Nat.le_of_eq hp)).2 rfl
  | 2 => exact (reaches_die (Nat.le_of_eq hp)).2 rfl
  | 3 => rw [reaches_device (Nat.le_of_eq hp), onDevice_of_narrowest (Nat.le_of_eq hp)]
  | n + 4 => exact reaches_system (by omega)

/-- Two issuers' scopes are one set exactly when what names the scope is the same for both. -/
theorem reaches_same_iff {α : Type} {name : Party → α} (hp : ∀ r, p.reaches a r = true ↔ name p = name r)
    (hq : ∀ r, q.reaches a r = true ↔ name q = name r) : (∀ r, p.reaches a r = q.reaches a r) ↔ name p = name q := by
  refine ⟨fun h => (hp q).1 ((h q).trans reaches_self), fun h r => ?_⟩
  rw [Bool.eq_iff_iff, hp, hq, h]

end Party

/-! ### Computations of a verb, run step by step -/

section
variable {α β : Type} {m : VM α} {f : α → VM β} {s t r : State} {v : α} {w : β} {halt : Halt}

/-- A verb's computation ends in a fault or a wait. -/
def Halts (m : VM α) (s : State) (halt : Halt) (t : State) : Prop := m.run s = (.error halt, t)

theorem Runs.pure : Runs (Pure.pure v : VM α) s v s := rfl

theorem Runs.get : Runs (MonadState.get : VM State) s s s := rfl

theorem Runs.modifyGet {g : State → α × State} : Runs (MonadStateOf.modifyGet g : VM α) s (g s).1 (g s).2 := rfl

theorem Runs.change {g : State → State} : Runs (change g) s () (g s) := rfl

theorem run_bind : (m >>= f).run s = ExceptT.bindCont f (m.run s).1 (m.run s).2 := rfl

/-- A computation that ends with an answer goes on with it. -/
theorem Runs.bind (hm : Runs m s v t) (hf : Runs (f v) t w r) : Runs (m >>= f) s w r := by
  unfold Runs at hm
  unfold Runs
  rw [run_bind, hm]
  exact hf

theorem Runs.bind_halts (hm : Runs m s v t) (hf : Halts (f v) t halt r) : Halts (m >>= f) s halt r := by
  unfold Runs at hm
  unfold Halts
  rw [run_bind, hm]
  exact hf

/-- A computation that ends in a fault or a wait goes no further. -/
theorem Halts.bind (hm : Halts m s halt t) : Halts (m >>= f) s halt t := by
  unfold Halts at *
  rw [run_bind, hm]
  rfl

theorem require_runs {b : Bool} (h : b = true) : Runs (require b) s () s := by
  subst h
  rfl

theorem given_runs {o : Option α} (h : o = some v) : Runs (given o) s v s := by
  subst h
  rfl

theorem given_halts {o : Option α} (h : o = none) : Halts (given o) s (.fault Code.verbInvalid) s := by
  subst h
  rfl

/-- The checks of R103 end the work of no verb that may start. -/
theorem decoded_runs {x : Ctx} (h : x.a.decode = false) : Runs (decoded x) s () s := by
  unfold decoded
  rw [h]
  rfl

end

/-! ### DATOM and DCVCFG (R94, R181, R182, R263) -/

section
variable {c k : Nat} {q : Queue} {op : Nat} {u : Upset} {e : QEntry} {starts : Bool} {x : Ctx} {s s1 s2 : State}

/-- A verb whose body faults ends in its queue's trap. -/
theorem issue_faulted {body : Ctx → VM Bool} {st : Status} (h : Begins s c k q op u e starts)
    (hb : Halts (body (ctxOf s c k q u e)) (begun s c k q u e starts) (.fault st) s1) :
    s.issue c k q op u body = s1.verbFault c k q e.id (s1.core c k).trapAddr st := by
  unfold Halts at hb
  rw [issue_runs h, hb]
  rfl

theorem exec_datom : exec (.datom c k u) s = .next (s.issue c k .d 0xCD u datomBody) := rfl

theorem exec_dcvcfg : exec (.dcvcfg c k u) s = .next (s.issue c k .d 0xCE u dcvcfgBody) := rfl

theorem datomBody_old {old : Nat} (ho : (s.entry x.a).old = some old) (ht : Runs (takeOld x old) s () s1) :
    Runs (datomBody x) s true s1 := by
  refine Runs.bind Runs.get ?_
  simp only [ho]
  exact ht.bind .pure

theorem datomBody_asked (ho : (s.entry x.a).old = none) (ha : (s.entry x.a).asked ≠ []) : Runs (datomBody x) s false s := by
  refine Runs.bind Runs.get ?_
  simp only [ho, List.isEmpty_eq_false_iff.2 ha, Bool.not_false, if_true]
  exact .pure

theorem datomBody_atOnce {old : Nat} (ho : (s.entry x.a).old = none) (ha : (s.entry x.a).asked = [])
    (hs : Runs (datomStart x) s (some old) s1) (ht : Runs (takeOld x old) s1 () s2) : Runs (datomBody x) s true s2 := by
  refine Runs.bind Runs.get ?_
  simp only [ho, ha, List.isEmpty_nil, Bool.not_true, Bool.false_eq_true, if_false]
  exact hs.bind (ht.bind .pure)

theorem datomBody_elsewhere (ho : (s.entry x.a).old = none) (ha : (s.entry x.a).asked = [])
    (hs : Runs (datomStart x) s none s1) : Runs (datomBody x) s (s1.entry x.a).asked.isEmpty s1 := by
  refine Runs.bind Runs.get ?_
  simp only [ho, ha, List.isEmpty_nil, Bool.not_true, Bool.false_eq_true, if_false]
  exact hs.bind (Runs.get.bind .pure)

/-- The last atomic at a location that has not completed and that another is not atomic with (R182). -/
def State.rival (s : State) (spot : Spot) (w : Writer) (scope : Nat) : Option Recent :=
  s.recent.find? fun r => r.spot == spot && !(mutuallyAtomic w scope r.writer r.scope)

variable {spot : Spot} {w : Writer} {scope now : Nat} {r : Recent}

theorem contended_alone (h : s.rival spot w scope = none) : s.contended spot w scope now = (now, s) := by
  unfold State.rival at h
  unfold State.contended
  rw [h]

theorem contended_rival (h : s.rival spot w scope = some r) : s.contended spot w scope now
    = (if (s.drawBelow 2).1 = 1 then r.before else now, (s.drawBelow 2).2) := by
  unfold State.rival at h
  unfold State.contended
  rw [h]

theorem rival_eq_none (h : ∀ r ∈ s.recent, r.spot = spot → mutuallyAtomic w scope r.writer r.scope = true) :
    s.rival spot w scope = none := by
  refine List.find?_eq_none.2 fun r hr => ?_
  by_cases hspot : r.spot = spot
  · simp [h r hr hspot]
  · simp [hspot]

theorem contend_runs {a : Issuer} : Runs (contend a spot scope now) s (s.contended spot a.writer scope now).1
    ((s.contended spot a.writer scope now).2.noteAtomic spot a.writer scope a.id now) :=
  Runs.modifyGet.bind (Runs.change.bind .pure)

/-- A local-store atomic reads its word, and writes what its operation makes of what it found there. -/
theorem localAtomic_runs {a : Issuer} {off : Nat} {o : AtomicOp} {b : List Byte}
    (h : Runs (localRead a c k off (atomicSize o.code)) s b s1) :
    let found := s1.contended (.localStore (12 * c + k) off) a.writer scope (leNat b)
    Runs (localAtomic a c k off scope o) s (some found.1)
      (((found.2.noteAtomic (.localStore (12 * c + k) off) a.writer scope a.id (leNat b)).noteWrote a
        (Target.window c k off).key (atomicMask (atomicSize o.code) off)).localWrite c k off (atomicSize o.code)
          (leBytes (atomicSize o.code) (atomicResult o.code found.1 o.x o.cmp)) (2 ^ atomicSize o.code - 1)) :=
  h.bind (contend_runs.bind (Runs.change.bind (Runs.change.bind .pure)))

/-- What a DCVCFG reads, its checks passed, it gives to the check-value unit. -/
theorem dcvcfgBody_reads {v : View} {raws : List Nat} (hform : ({ srca := kNoun, ext := .no } : Form).ok x.a.q x.v = true)
    (hstart : x.a.decode = false) (hnoun : Runs (flatNoun x x.v.srca 0 {}) s v s1) (hflat : v.noun.compress = 0)
    (hsize : v.noun.count * v.noun.w = 256)
    (hread : Runs (readElems x.a v v.noun.path (indices v.noun.exts)) s1 raws s2) :
    (∀ cfg, parseCv (packElems v.noun.w raws) = some cfg →
      Runs (dcvcfgBody x) s true (s2.modCore x.a.c x.a.k fun y => { y with cv := cfg }))
    ∧ (parseCv (packElems v.noun.w raws) = none → Halts (dcvcfgBody x) s (.fault Code.verbInvalid) s2) := by
  have hone : (allFlat [v.noun] && v.noun.count * v.noun.w == 256) = true := by simp [allFlat, hflat, hsize]
  constructor
  · intro cfg hcfg
    exact (require_runs hform).bind (hnoun.bind ((require_runs hone).bind ((decoded_runs hstart).bind
      (hread.bind ((given_runs hcfg).bind (Runs.change.bind .pure))))))
  · intro hcfg
    exact (require_runs hform).bind_halts (hnoun.bind_halts ((require_runs hone).bind_halts ((decoded_runs hstart).bind_halts
      (hread.bind_halts (given_halts hcfg).bind))))

end

section
variable {s : State}

/-! ### Events taken into the store (R24, R25, R352) -/

/-- A happening taken into the store, with the count its island then has. -/
def Obs.record (o : Obs) (s : State) (cls : Nat) (code : Status) (pid d0 d1 : Nat) : Event :=
  { cls := cls, code := code, source := o.source, pid := pid, ring := s.ringOf pid, island := o.island,
    count := (s.islandCount o.island).1, seq := s.mgmt.evSeq, detail0 := d0 % 2 ^ 32, detail1 := d1 % 2 ^ 64 }

theorem islandCount_held {island : Nat} (h : s.clockHeld.contains island = true) :
    s.islandCount island = (s.counts.look 0 island, s) := if_pos h

/-- While an island's clock runs its count rises by a free number of cycles, and the record's count becomes the island's. -/
theorem islandCount_running {island : Nat} (h : ¬ s.clockHeld.contains island = true) :
    (∃ d, (s.islandCount island).1 = s.counts.look 0 island + d)
      ∧ (s.islandCount island).2.counts = s.counts.put island (s.islandCount island).1 := by
  unfold State.islandCount
  rw [if_neg h]
  refine ⟨⟨_, rfl⟩, congrArg (Tbl.put island _) ?_⟩
  split <;> rfl

theorem islandCount_recorded (s : State) (island : Nat) :
    (s.islandCount island).2.counts.look 0 island = (s.islandCount island).1 := by
  by_cases h : s.clockHeld.contains island = true
  · rw [islandCount_held h]
  · rw [(islandCount_running h).2, Tbl.look_put_self]

theorem le_islandCount (s : State) (island : Nat) : s.counts.look 0 island ≤ (s.islandCount island).1 := by
  by_cases h : s.clockHeld.contains island = true
  · exact Nat.le_of_eq (congrArg Prod.fst (islandCount_held h)).symm
  · obtain ⟨⟨d, hd⟩, -⟩ := islandCount_running h
    omega

section
variable {cls pid d0 d1 : Nat} {code : Status} {o : Obs}

theorem event_stored (h : s.mgmt.store.length < 256) : s.event cls code o pid d0 d1
    = { (s.islandCount o.island).2 with
        mgmt := { s.mgmt with evSeq := (s.mgmt.evSeq + 1) % 2 ^ 32, store := s.mgmt.store ++ [o.record s cls code pid d0 d1] } } := by
  unfold State.event
  simp only [h, if_true, State.islandCount_mgmt]
  rfl

theorem event_dropped (h : 256 ≤ s.mgmt.store.length) : s.event cls code o pid d0 d1
    = s.modRing (s.ringOf pid) fun x => { x with dropped := (x.dropped + 1) % 2 ^ 32, lost := true } := by
  unfold State.event
  rw [if_neg (by omega)]

end

/-! ### The record writer (R350 to R352) -/

theorem leBytes_length (n v : Nat) : (leBytes n v).length = n := by
  induction n generalizing v with
  | zero => rfl
  | succ n ih => simp [leBytes, ih]

theorem Event.bytes_length (e : Event) (phase lost : Bool) : (e.bytes phase lost).length = 32 := by
  simp [Event.bytes, leBytes_length]

theorem ringRoom_iff {r : Nat} : s.ringRoom r = true ↔ ((s.ring r).enable = true ∧ s.linkUp = true)
    ∧ ((s.ring r).tail + 1) % 2 ^ (s.ring r).log2 ≠ (s.ring r).head % 2 ^ (s.ring r).log2 := by
  simp [State.ringRoom]

/-- The record taken next is one whose ring has room. -/
theorem ringRoom_of_nextRecord {e : Event} : ∀ {store rest : List Event}, s.nextRecord store = some (e, rest) →
    s.ringRoom e.ring = true
  | [], _, h => by cases h
  | x :: r, rest, h => by
    unfold State.nextRecord at h
    split at h
    case isTrue hx =>
      cases h
      exact hx
    case isFalse =>
      obtain ⟨⟨e', rest'⟩, hr, heq⟩ := Option.map_eq_some_iff.1 h
      cases heq
      exact ringRoom_of_nextRecord hr

theorem nextRecord_linkDown (h : s.linkUp = false) (store : List Event) : s.nextRecord store = none := by
  match hn : s.nextRecord store with
  | none => rfl
  | some (e, rest) =>
    obtain ⟨⟨-, hup⟩, -⟩ := ringRoom_iff.1 (ringRoom_of_nextRecord hn)
    rw [h] at hup
    cases hup

theorem exec_eventRecordWrite : exec .eventRecordWrite s = .next s.writeRecord := rfl

theorem writeRecord_none (h : s.nextRecord s.mgmt.store = none) : s.writeRecord = s := by
  unfold State.writeRecord
  rw [h]

theorem writeRecord_some {e : Event} {rest : List Event} (h : s.nextRecord s.mgmt.store = some (e, rest)) :
    s.writeRecord = ((({ s with mgmt := { s.mgmt with store := rest } } : State).compWriteBytes
        ((s.ring e.ring).base + 32 * (s.ring e.ring).tail) (e.bytes (s.ring e.ring).phase (s.ring e.ring).lost) .ordered).modRing
          e.ring fun y =>
            { y with tail := ((s.ring e.ring).tail + 1) % 2 ^ (s.ring e.ring).log2, lost := false,
                     phase := if ((s.ring e.ring).tail + 1) % 2 ^ (s.ring e.ring).log2 = 0 then !y.phase else y.phase }).notify
        ((s.ring e.ring).vec.getD e.ring) := by
  unfold State.writeRecord
  rw [h]

/-! ### Interrupt vectors (R353) -/

section
variable {v : Nat}

theorem notify_masked (h : (s.vec v).mask = true) : s.notify v = s.modVec v fun x => { x with pend := true } := by
  simp [State.notify, h]

theorem notify_holding (h : (s.vec v).mask = false) (hh : (s.vec v).holding = true) :
    s.notify v = s.modVec v fun x => { x with owed := true } := by
  simp [State.notify, h, hh]

theorem notify_sends (h : (s.vec v).mask = false) (hh : (s.vec v).holding = false) : s.notify v = s.sendMessage v := by
  simp [State.notify, h, hh]

/-- A message carries the vector's data to its address; it pends while the link is down (log entry 37). -/
theorem sendMessage_eq {addr data : Nat} (ha : (s.vec v).addr = addr) (hd : (s.vec v).data = data) : s.sendMessage v
    = if s.linkUp = false then s.modVec v fun x => { x with pend := true }
      else (s.emit (.compWrite addr .release (leBytes 4 data))).modVec v fun x =>
        { x with pend := false, holding := decide (0 < s.holdoff v), owed := false } := by
  subst ha hd
  unfold State.sendMessage
  simp only [Bool.not_eq_true']
  rfl

theorem exec_ivUnmask (h : v < 32) : exec (.ivUnmask v) s = .next (s.unmask v) := by
  show execIvUnmask v s = _
  unfold execIvUnmask
  rw [if_pos h]

theorem unmask_quiet (h : (s.vec v).pend = false) : s.unmask v = s.modVec v fun x => { x with mask := false } := by
  simp [State.unmask, h]

theorem unmask_pending (h : (s.vec v).pend = true) :
    s.unmask v = (s.modVec v fun x => { x with mask := false }).sendMessage v := by
  simp [State.unmask, h]

theorem exec_holdoffEnd_none (h : (s.vec v).holding = false) : exec (.interruptHoldoffEnd v) s = .next s := by
  show execInterruptHoldoffEnd v s = _
  simp [execInterruptHoldoffEnd, h]

theorem exec_holdoffEnd_quiet (h : (s.vec v).holding = true) (ho : (s.vec v).owed = false) :
    exec (.interruptHoldoffEnd v) s = .next (s.modVec v fun x => { x with holding := false, owed := false }) := by
  show execInterruptHoldoffEnd v s = _
  simp [execInterruptHoldoffEnd, h, ho]

theorem exec_holdoffEnd_owed (h : (s.vec v).holding = true) (ho : (s.vec v).owed = true) : exec (.interruptHoldoffEnd v) s
    = .next ((s.modVec v fun x => { x with holding := false, owed := false }).notify v) := by
  show execInterruptHoldoffEnd v s = _
  simp [execInterruptHoldoffEnd, h, ho]

end

/-! ### The rings' registers (R349, R356) -/

section
variable {r v : Nat} {base : Bool}

theorem modRing_congr {f g : Ring → Ring} (h : f (s.ring r) = g (s.ring r)) : s.modRing r f = s.modRing r g := by
  unfold State.ring at h
  simp only [State.modRing, Tbl.upd, h]

theorem ringOutOfNumber_iff :
    (decide (r ≥ 16) || (r != 0 && decide (s.rings ≤ r))) = true ↔ ¬ (r < 16 ∧ (r = 0 ∨ r < s.rings)) := by
  simp only [Bool.or_eq_true, Bool.and_eq_true, decide_eq_true_eq, bne_iff_ne]
  omega

theorem exec_eventRingConfig (h : r < 16 ∧ (r = 0 ∨ r < s.rings)) : exec (.eventRingConfig r base v) s
    = .next (if base then s.writeRingBase r v else s.writeRingCfg r v) := by
  show execEventRingConfig r base v s = _
  unfold execEventRingConfig
  rw [if_neg (mt ringOutOfNumber_iff.1 (not_not_intro h))]

theorem exec_eventRingConfig_outOfNumber (h : ¬ (r < 16 ∧ (r = 0 ∨ r < s.rings))) : exec (.eventRingConfig r base v) s
    = .next (s.recordAccess Code.badValue (0x8000 + 0x40 * r + if base then 0 else 8)) := by
  show execEventRingConfig r base v s = _
  unfold execEventRingConfig
  rw [if_pos (ringOutOfNumber_iff.2 h)]
  rfl

theorem writeRingBase_taken (hv : v < 2 ^ 64) (ha : v % 4096 = 0) (he : (s.ring r).enable = false) :
    s.writeRingBase r v = s.modRing r fun x => { x with base := v, tail := 0, phase := true, head := 0 } := by
  unfold State.writeRingBase
  rw [if_neg (by simp [ha, he]), Nat.mod_eq_of_lt hv]

theorem writeRingBase_refused (h : v % 4096 ≠ 0 ∨ (s.ring r).enable = true) :
    s.writeRingBase r v = s.recordAccess Code.badValue (0x8000 + 0x40 * r) := by
  unfold State.writeRingBase
  rw [if_pos (by simpa using h)]
  rfl

/-- A size is reserved below 64 and above 16,384 records, and a new one is refused while the ring is enabled. -/
theorem writeRingCfg_eq : s.writeRingCfg r v
    = if bits v 0 4 < 6 ∨ 14 < bits v 0 4 ∨ ((s.ring r).enable = true ∧ bits v 0 4 ≠ (s.ring r).log2) then
        s.recordAccess Code.badValue (0x8000 + 0x40 * r + 8)
      else s.modRing r fun x =>
        { (if bits v 0 4 = x.log2 then x else { x with log2 := bits v 0 4, tail := 0, phase := true, head := 0 } : Ring) with
          enable := bit v 4, vec := some (bits v 5 5), holdoff := bits v 16 16 } := by
  simp [State.writeRingCfg, or_assoc, State.badValue]

theorem writeRingCfg_refused
    (h : bits v 0 4 < 6 ∨ 14 < bits v 0 4 ∨ ((s.ring r).enable = true ∧ bits v 0 4 ≠ (s.ring r).log2)) :
    s.writeRingCfg r v = s.recordAccess Code.badValue (0x8000 + 0x40 * r + 8) :=
  writeRingCfg_eq.trans (if_pos h)

theorem writeRingCfg_sameSize (h6 : 6 ≤ bits v 0 4) (h14 : bits v 0 4 ≤ 14) (hs : bits v 0 4 = (s.ring r).log2) :
    s.writeRingCfg r v = s.modRing r fun x => { x with enable := bit v 4, vec := some (bits v 5 5), holdoff := bits v 16 16 } := by
  rw [writeRingCfg_eq, if_neg (by rintro (h | h | ⟨-, h⟩) <;> omega)]
  exact modRing_congr (by rw [if_pos hs])

theorem writeRingCfg_newSize (h6 : 6 ≤ bits v 0 4) (h14 : bits v 0 4 ≤ 14) (hs : bits v 0 4 ≠ (s.ring r).log2)
    (he : (s.ring r).enable = false) : s.writeRingCfg r v = s.modRing r fun x =>
      { x with log2 := bits v 0 4, tail := 0, phase := true, head := 0, enable := bit v 4, vec := some (bits v 5 5),
               holdoff := bits v 16 16 } := by
  have accepted : ¬ (bits v 0 4 < 6 ∨ 14 < bits v 0 4 ∨ ((s.ring r).enable = true ∧ bits v 0 4 ≠ (s.ring r).log2)) := by
    simp [he, h6, h14]
  rw [writeRingCfg_eq, if_neg accepted]
  exact modRing_congr (by rw [if_neg hs])

end

end

end Sys2Proof.Machine
end

section
open Sys2Proof Sys2Proof.Machine

theorem Sys2Proof.Claims.idleStepMovesTickOnly : Sys2Proof.Claims.IdleStepMovesTickOnly :=
  fun s h => ⟨_, step_idle h, s.idle_eq⟩

/-- Settles O2: the idle step is `State.idle`, which names the tick alone. -/
theorem idleBlockOnlyTicks : Obligations.IdleBlockOnlyTicks := Sys2Proof.Claims.idleStepMovesTickOnly

theorem Sys2Proof.Claims.scopesNest : Sys2Proof.Claims.ScopesNest := by
  refine ⟨fun p q a b => Party.reaches_mono, fun p q a => ⟨Party.reaches_self, Party.reaches_max_narrowest⟩,
    fun p q => ⟨fun hp hq => ?_, fun hp hq => ?_, fun hp hq => ?_, fun hp hq r => ?_, fun r => Party.reaches_system (Nat.le_refl 4)⟩,
    fun k ch => ⟨rfl, rfl, rfl⟩⟩
  · exact Party.reaches_same_iff (name := id) (fun _ => Party.reaches_core (Nat.le_of_eq hp)) fun _ => Party.reaches_core (Nat.le_of_eq hq)
  · exact Party.reaches_same_iff (fun _ => Party.reaches_cluster hp) fun _ => Party.reaches_cluster hq
  · exact Party.reaches_same_iff (fun _ => Party.reaches_die hp) fun _ => Party.reaches_die hq
  · rw [Party.reaches_device hp, Party.reaches_device hq]

theorem Sys2Proof.Claims.atomicVerb : Sys2Proof.Claims.AtomicVerb := by
  refine ⟨fun c k u e starts s hb => ⟨fun old s1 ho ht => ?_, fun ho ha => ?_, fun r s1 ho ha hs => ⟨fun old s2 hr ht => ?_,
    fun hr => ?_⟩⟩, fun a c k off scope o b s s1 hread => ⟨fun alone => ?_, fun r hr => ?_⟩⟩
  · exact ⟨_, exec_datom, issue_done hb (datomBody_old ho ht)⟩
  · exact ⟨_, exec_datom, issue_started hb (datomBody_asked ho ha)⟩
  · subst hr
    exact ⟨_, exec_datom, issue_done hb (datomBody_atOnce ho ha hs ht)⟩
  · subst hr
    refine ⟨_, exec_datom, ?_⟩
    have hbody := datomBody_elsewhere ho ha hs
    split
    case isTrue hnone =>
      rw [hnone] at hbody
      exact issue_done hb hbody
    case isFalse hsome =>
      rw [List.isEmpty_eq_false_iff.2 hsome] at hbody
      exact issue_started hb hbody
  · have h := localAtomic_runs (scope := scope) hread
    rwa [contended_alone (rival_eq_none alone)] at h
  · have h := localAtomic_runs (scope := scope) hread
    rwa [contended_rival hr] at h

theorem Sys2Proof.Claims.configuresCheckValues : Sys2Proof.Claims.ConfiguresCheckValues := by
  intro c k u e starts v raws s s1 s2 hb hform x hnoun hflat hsize hread
  obtain ⟨hset, hbad⟩ := dcvcfgBody_reads (x := x) hform rfl hnoun hflat hsize hread
  exact ⟨fun cfg hcfg => ⟨_, exec_dcvcfg, issue_done hb (hset cfg hcfg)⟩,
    fun hnone => ⟨_, exec_dcvcfg, issue_faulted hb (hbad hnone)⟩⟩

/-- Settles O25: scopes from what each contains, the two verbs from their bodies run step by step. -/
theorem atomicsAndCheckValueUnit : Obligations.AtomicsAndCheckValueUnit :=
  ⟨Sys2Proof.Claims.scopesNest, Sys2Proof.Claims.atomicVerb, Sys2Proof.Claims.configuresCheckValues⟩

theorem Sys2Proof.Claims.eventsRecorded : Sys2Proof.Claims.EventsRecorded := by
  intro cls pid d0 d1 code o s
  refine ⟨fun room => ⟨o.record s cls code pid d0 d1, ?_⟩, event_dropped⟩
  simp only [event_stored room]
  refine ⟨?_, rfl, rfl, rfl, rfl, rfl, rfl, rfl, rfl, rfl, islandCount_recorded s o.island, le_islandCount s o.island,
    fun held => congrArg Prod.fst (islandCount_held held)⟩
  rw [State.islandCount_eq]

theorem Sys2Proof.Claims.recordsWritten : Sys2Proof.Claims.RecordsWritten := by
  have idle {s : State} (h : s.nextRecord s.mgmt.store = none) : exec .eventRecordWrite s = .next s := by
    rw [exec_eventRecordWrite, writeRecord_none h]
  refine ⟨fun s => idle, fun s down => idle (nextRecord_linkDown down _), fun e rest s h => ⟨_, exec_eventRecordWrite, ?_,
    writeRecord_some h⟩⟩
  obtain ⟨⟨enabled, -⟩, room⟩ := ringRoom_iff.1 (ringRoom_of_nextRecord h)
  exact ⟨enabled, room, Event.bytes_length ..⟩

theorem Sys2Proof.Claims.vectorsNotify : Sys2Proof.Claims.VectorsNotify := by
  intro v s x sent
  -- the two updates before a message leave the vector's address and data, so it goes out as `sent` has it
  have sent_of {f : Vec → Vec} (ha : (f x).addr = x.addr) (hd : (f x).data = x.data) :
      (s.modVec v f).sendMessage v = sent (s.modVec v f) :=
    sendMessage_eq (by rw [State.modVec_vec_self, ha]) (by rw [State.modVec_vec_self, hd])
  refine ⟨?_, fun hv hp => ⟨_, exec_ivUnmask hv, unmask_quiet hp⟩,
    fun hv hp => ⟨_, exec_ivUnmask hv, (unmask_pending hp).trans (sent_of rfl rfl)⟩, exec_holdoffEnd_none,
    fun hh ho => ⟨_, exec_holdoffEnd_quiet hh ho, rfl⟩,
    fun hh ho hm => ⟨_, exec_holdoffEnd_owed hh ho, (notify_sends ?_ ?_).trans (sent_of rfl rfl)⟩⟩
  · by_cases hm : x.mask = true
    · rw [if_pos hm, notify_masked hm]
    · have hm' : x.mask = false := Bool.eq_false_iff.2 hm
      by_cases hh : x.holding = true
      · rw [if_neg hm, if_pos hh, notify_holding hm' hh]
      · rw [if_neg hm, if_neg hh, notify_sends hm' (Bool.eq_false_iff.2 hh)]
        exact sendMessage_eq rfl rfl
  · rw [State.modVec_vec_self]
    exact hm
  · rw [State.modVec_vec_self]

theorem Sys2Proof.Claims.ringsConfigured : Sys2Proof.Claims.RingsConfigured := by
  intro r v s x here log2
  refine ⟨fun hr hv ha he => ⟨_, exec_eventRingConfig hr, writeRingBase_taken hv ha he⟩, fun h => ?_,
    fun hr h6 h14 hs => ⟨_, exec_eventRingConfig hr, writeRingCfg_sameSize h6 h14 hs⟩,
    fun hr h6 h14 hs he => ⟨_, exec_eventRingConfig hr, writeRingCfg_newSize h6 h14 hs he⟩, fun h => ?_⟩
  · by_cases hr : here
    · exact ⟨_, exec_eventRingConfig hr, writeRingBase_refused (h.resolve_left (not_not_intro hr))⟩
    · exact ⟨_, exec_eventRingConfig_outOfNumber hr, rfl⟩
  · by_cases hr : here
    · exact ⟨_, exec_eventRingConfig hr, writeRingCfg_refused (h.resolve_left (not_not_intro hr))⟩
    · exact ⟨_, exec_eventRingConfig_outOfNumber hr, rfl⟩

/-- Settles O45: a record taken into the store, the writer's one record, a vector told and a ring's register written, case by case. -/
theorem eventsReachTheirRings : Obligations.EventsReachTheirRings :=
  ⟨Sys2Proof.Claims.eventsRecorded, Sys2Proof.Claims.recordsWritten, Sys2Proof.Claims.vectorsNotify,
    Sys2Proof.Claims.ringsConfigured⟩

end

/-! ## Grammar images: how a load begins, what its signature must be, and how it ends -/

section
namespace Sys2Proof.Machine

section
variable {s : State}

/-! ### The end of a load (R58 to R60) -/

/-- The GRAM block once a load has ended. -/
def Gram.ended (x : Gram) (st : Status) : Gram :=
  { x with state := if x.image.isSome then .inForce else .empty, status := st, job := none, pending := none, groupWait := [],
           mapped := false, testing := [] }

theorem gramEnd_eq (s : State) (st : Status) :
    s.gramEnd st = ({ s with gram := s.gram.ended st } : State).event Cls.gram st Obs.ofGram 0xFF 0 0 := rfl

@[simp] theorem gramEnd_gram (s : State) (st : Status) : (s.gramEnd st).gram = s.gram.ended st := by
  rw [gramEnd_eq, State.event_gram]

section
variable {f : Gram → Gram} (image : (f s.gram).image = s.gram.image) (loads : (f s.gram).loads = s.gram.loads)
  (digest : (f s.gram).digest = s.gram.digest)
include image loads digest

/-- A load that ends leaves the structure in force, its digest and the count of loads as the block has them. -/
theorem loadEnded_gramEnd (st : Status) : LoadEnded s ((s.modGram f).gramEnd st) st := by
  simp only [LoadEnded, gramEnd_gram]
  refine ⟨rfl, rfl, rfl, image, loads, digest, ?_, rfl⟩
  rw [← image]
  rfl

theorem loadRefused_gramRefuse (x : ImgFault) : LoadRefused s ((s.modGram f).gramRefuse x) x := by
  refine ⟨loadEnded_gramEnd (f := fun g => { f g with section_ := x.section_, record := x.record, rkind := x.rkind, rnum := x.rnum })
    image loads digest x.status, ?_⟩
  simp only [State.gramRefuse, gramEnd_gram]
  exact ⟨rfl, rfl, rfl, rfl⟩

end

theorem gramEnd_endsLoad (s : State) (st : Status) : LoadEnded s (s.gramEnd st) st :=
  loadEnded_gramEnd (f := id) rfl rfl rfl st

theorem gramRefuse_refusesLoad (s : State) (x : ImgFault) : LoadRefused s (s.gramRefuse x) x :=
  loadRefused_gramRefuse (f := id) rfl rfl rfl x

/-! ### The load command (R57, R58) -/

theorem exec_loadFullImage : exec .loadFullImage s = .next (s.gramCmd 1) := rfl

theorem exec_loadPartialImage : exec .loadPartialImage s = .next (s.gramCmd 2) := rfl

section
variable {cmd : Nat}

theorem gramCmd_busy (h : s.gram.busy = true) : s.gramCmd cmd = s.modGram fun x => { x with lastCmd := Code.loadBusy } := if_pos h

/-- A load command taken: a partial image needs a structure in force, and any image a length that R57 allows. -/
theorem gramCmd_taken (h : s.gram.busy = false) : s.gramCmd cmd =
    if cmd = 2 ∧ s.gram.image = none then (s.modGram fun x => { x with lastCmd := Code.ok, kind := cmd - 1 }).gramEnd Code.noImage
    else if gramLenOk s.gram.len = true then
      s.modGram fun x => { x with lastCmd := Code.ok, kind := cmd - 1, state := .fetch,
                                  job := some { cmd := cmd, src := x.src, len := x.len } }
    else (s.modGram fun x => { x with lastCmd := Code.ok, kind := cmd - 1 }).gramRefuse (headFault Code.imgFormat 8) := by
  unfold State.gramCmd
  rw [if_neg (by simp [h])]
  by_cases first : cmd = 2 ∧ s.gram.image = none
  · rw [if_pos first, if_pos (by simpa [State.modGram] using first)]
  · rw [if_neg first, if_neg (by simpa [State.modGram] using first)]
    by_cases allowed : gramLenOk s.gram.len = true
    · rw [if_pos allowed, if_neg (by simpa [State.modGram] using allowed)]
      rfl
    · rw [if_neg allowed, if_pos (by simpa [State.modGram] using allowed)]

end

/-! ### Reading and check 1 (R60) -/

theorem exec_imageFetchDone (image : List Byte) : exec (.imageFetchDone image) s = .next (s.imageRead image) := rfl

theorem exec_imageFetchTimeout :
    exec .imageFetchTimeout s = .next (if s.gram.state == .fetch then s.gramEnd Code.fetchFault else s) := rfl

theorem imageRead_notFetching {b : List Byte} (h : s.gram.state ≠ .fetch) : s.imageRead b = s := by
  unfold State.imageRead
  split
  · exact if_pos (by simpa using h)
  · rfl

theorem imageRead_fetching {b : List Byte} {j : LoadJob} (hj : s.gram.job = some j) (hs : s.gram.state = .fetch) : s.imageRead b =
    match checkFormat (slice b 0 j.len) j.len j.cmd with
    | some f => s.gramRefuse f
    | none => s.modGram fun x =>
        { x with state := .verify,
                 job := some { j with bytes := slice b 0 j.len, ownerKey := s.flash.ownerKey, keyBad := s.flash.keyBad } } := by
  unfold State.imageRead
  simp only [hj]
  exact if_neg (by simp [hs])

/-- An image that passes check 1 has the length and kind of the command, the magic and version of R33, and 1 to 12 sections. -/
theorem header_of_checkFormat {b : List Byte} {len cmd : Nat} (h : checkFormat b len cmd = none) :
    leAt b 8 4 = len ∧ leAt b 0 4 = 0x49474B41 ∧ leAt b 4 2 = 3 ∧ leAt b 6 1 + 1 = cmd ∧ 1 ≤ leAt b 0x0C 2
      ∧ leAt b 0x0C 2 ≤ 12 := by
  unfold checkFormat at h
  by_cases h8 : leAt b 8 4 = len
  case neg => simp [h8] at h
  by_cases h0 : leAt b 0 4 = 0x49474B41
  case neg => simp [h8, h0] at h
  by_cases h4 : leAt b 4 2 = 3
  case neg => simp [h8, h0, h4] at h
  by_cases h6 : leAt b 6 1 + 1 = cmd
  case neg => simp [h8, h0, h4, h6] at h
  by_cases hC : leAt b 0x0C 2 = 0 ∨ 12 < leAt b 0x0C 2
  case pos => simp [h8, h0, h4, h6, hC] at h
  exact ⟨h8, h0, h4, h6, by omega, by omega⟩

/-! ### The signer and the signature (R35, R36) -/

theorem trailerGood_iff {t dig key : List Byte} : trailerGood t dig key = true ↔
    leAt t 114 6 = 0 ∧ leAt t 120 8 = keyId key ∧ Config.ed448Good (slice key 0 57) dig (slice t 0 114) = true := by
  simp [trailerGood, and_assoc]

/-- R36: signer 0 is a Woath image key while no owner key is enrolled, signer 1 the owner key enrolled. -/
theorem signatureGood_iff {firmware image : List Byte} {owner : Option (List Byte)} {keyBad : Bool} {signer : Nat} :
    signatureGood firmware owner keyBad signer image = true ↔ keyBad = false
      ∧ ((signer = 0 ∧ owner = none ∧ ∃ key ∈ imageKeys firmware, trailerGood (trailer image) (imageDigest image) key = true)
        ∨ (signer = 1 ∧ ∃ key, owner = some key ∧ trailerGood (trailer image) (imageDigest image) key = true)) := by
  cases owner <;> simp [signatureGood]

/-! ### The end of VERIFY (R60) -/

theorem exec_imageVerifyDone : exec .imageVerifyDone s = .next s.imageVerified := rfl

section
variable {j : LoadJob} (hj : s.gram.job = some j) (hs : s.gram.state = .verify)
include hj hs

theorem imageVerified_unsigned
    (h : signatureGood s.mgmt.firmware j.ownerKey j.keyBad (leAt j.bytes 7 1) j.bytes = false) :
    s.imageVerified = s.gramRefuse { status := Code.imgSignature } := by
  simp [State.imageVerified, hj, hs, h]

variable (hsig : signatureGood s.mgmt.firmware j.ownerKey j.keyBad (leAt j.bytes 7 1) j.bytes = true)
include hsig

theorem imageVerified_faulty {f : ImgFault} (h : s.judgeImage j.bytes = some f) : s.imageVerified = s.gramRefuse f := by
  simp [State.imageVerified, hj, hs, hsig, h]

theorem imageVerified_sound (h : s.judgeImage j.bytes = none) : s.imageVerified =
    if (parseImage j.bytes).partial_ = true then s.acceptPartial (parseImage j.bytes) else s.applyFull (parseImage j.bytes) := by
  simp [State.imageVerified, hj, hs, hsig, h]

end

end

end Sys2Proof.Machine
end

section
open Sys2Proof Sys2Proof.Machine

theorem Sys2Proof.Claims.imageLoadStarts : Sys2Proof.Claims.ImageLoadStarts := by
  refine ⟨fun s hb c hc => ?_, fun s hb => ⟨_, exec_loadFullImage, ?_⟩, fun s hb => ⟨_, exec_loadPartialImage, ?_⟩⟩
  · rcases hc with rfl | rfl
    · exact ⟨_, exec_loadFullImage, gramCmd_busy hb⟩
    · exact ⟨_, exec_loadPartialImage, gramCmd_busy hb⟩
  · rw [gramCmd_taken hb, if_neg (by simp)]
    split
    · rfl
    · exact loadRefused_gramRefuse rfl rfl rfl _
  · rw [gramCmd_taken hb]
    by_cases hi : s.gram.image = none
    · simp only [hi, and_self, if_true]
      exact loadEnded_gramEnd rfl rfl rfl _
    · simp only [hi, and_false, if_false]
      split
      · rfl
      · exact loadRefused_gramRefuse rfl rfl rfl _

theorem Sys2Proof.Claims.imageReadAndChecked : Sys2Proof.Claims.ImageReadAndChecked := by
  refine ⟨fun image j s hj hs => ⟨_, exec_imageFetchDone image, ?_⟩, fun s hs => ⟨_, exec_imageFetchTimeout, ?_⟩,
    fun image s hs => ⟨?_, ?_⟩, fun b len cmd => header_of_checkFormat⟩
  · rw [imageRead_fetching hj hs]
    cases checkFormat (slice image 0 j.len) j.len j.cmd with
    | none => rfl
    | some f => exact gramRefuse_refusesLoad s f
  · rw [hs]
    exact gramEnd_endsLoad s _
  · rw [exec_imageFetchDone, imageRead_notFetching hs]
  · rw [exec_imageFetchTimeout, if_neg (by simpa using hs)]

/-- Settles O9, from what a load command, the image read and check 1 do in each case. -/
theorem imageLoadsBegin : Obligations.ImageLoadsBegin :=
  ⟨Sys2Proof.Claims.imageLoadStarts, Sys2Proof.Claims.imageReadAndChecked⟩

theorem Sys2Proof.Claims.signersAccepted : Sys2Proof.Claims.SignersAccepted := by
  intro j s hj hs signer t signed accepted
  have accepted_iff : accepted ↔ signatureGood s.mgmt.firmware j.ownerKey j.keyBad signer j.bytes = true := by
    simp only [signatureGood_iff, trailerGood_iff]
    rfl
  refine ⟨fun h => ⟨_, exec_imageVerifyDone, ?_⟩, fun h f hf => ⟨_, exec_imageVerifyDone, ?_⟩, accepted_iff⟩
  · rw [imageVerified_unsigned hj hs (Bool.eq_false_iff.2 (mt accepted_iff.2 h))]
    exact gramRefuse_refusesLoad s _
  · rw [imageVerified_faulty hj hs (accepted_iff.1 h) hf]
    exact gramRefuse_refusesLoad s f

/-- Settles O10: the signer rules are `signatureGood`, and VERIFY refuses an image that does not meet them. -/
theorem imageSignersAccepted : Obligations.ImageSignersAccepted := Sys2Proof.Claims.signersAccepted

end

/-! ## What accesses, write-backs, faults and messages leave standing: the queue, the fuses, the GRAM block and the serving tick -/

section
namespace Sys2Proof.Machine

/-- What work in the memory, in the queues and towards other parties leaves alone. -/
structure Standing where
  pending : List Instr
  fuses : Fuses
  gram : Gram
  srvState : Nat
  tick : Nat
  ticking : Bool

def State.standing (s : State) : Standing := ⟨s.pending, s.fuses, s.gram, s.srv.state, s.srv.tick, s.srv.ticking⟩

section
variable {s t : State}

theorem gram_of_standing (h : t.standing = s.standing) : t.gram = s.gram := congrArg Standing.gram h

/-- A change of fields that `standing` does not read, `srv` aside, leaves it. -/
@[simp] theorem standing_changed {flash : Flash} {mgmt : Mgmt} {pwr : Pwr} {thm : Thm} {sec : Sec} {sched : Sched} {xl : Xl}
    {fab : Tbl FabPort} {stk : Tbl Stack} {clusters : Tbl Cluster} {cores : Tbl CoreSt} {sets : List (List Nat)} {mem : List Host.Cell}
    {poison : List Nat} {upsets : Tbl (List (Nat × Nat))} {stuck : Tbl (List (Nat × Nat × Nat))} {transfers : Tbl Nat}
    {recent : List Recent} {seqs : Tbl Seq} {nextSeq : Nat} {answers : List (Writer × Nat × Status × Nat)} {transit : List Transit}
    {out : List Out} {counts : Tbl Nat} {clockHeld : List Nat} {fresh : Nat} :
    State.standing
      { pending := s.pending, fuses := s.fuses, flash, mgmt, gram := s.gram, pwr, thm, sec, srv := s.srv, sched, xl, fab, stk, clusters,
        cores, sets, mem, poison, upsets, stuck, transfers, recent, seqs, nextSeq, answers, transit, out, counts, clockHeld, fresh }
      = s.standing := rfl

theorem standing_foldl {α : Type} {f : State → α → State} (h : ∀ s x, (f s x).standing = s.standing) (l : List α) (s : State) :
    (l.foldl f s).standing = s.standing := by
  induction l generalizing s with
  | nil => rfl
  | cons x l ih => exact (ih (f s x)).trans (h s x)

@[simp] theorem standing_ite {c : Prop} [Decidable c] : (if c then s else t).standing = if c then s.standing else t.standing :=
  apply_ite State.standing c s t

/-- An operation that answers with a value leaves `standing` where the state it answers with does. -/
theorem standing_snd {α : Type} {p : α × State} {a : α} (h : p = (a, t)) (hp : p.2.standing = s.standing) :
    t.standing = s.standing := by
  rw [h] at hp
  exact hp

/-! ### Named updates -/

@[simp] theorem modStack_standing {n : Nat} {f : Stack → Stack} : (s.modStack n f).standing = s.standing := rfl
@[simp] theorem modChan_standing {n ch : Nat} {f : Channel → Channel} : (s.modChan n ch f).standing = s.standing := rfl
@[simp] theorem modUnitPort_standing {n ch p : Nat} {f : Port → Port} : (s.modUnitPort n ch p f).standing = s.standing := rfl
@[simp] theorem modPort_standing {p : Nat} {f : FabPort → FabPort} : (s.modPort p f).standing = s.standing := rfl
@[simp] theorem modFlow_standing {p n : Nat} {f : Flow → Flow} : (s.modFlow p n f).standing = s.standing := rfl
@[simp] theorem modCore_standing {c k : Nat} {f : CoreSt → CoreSt} : (s.modCore c k f).standing = s.standing := rfl
@[simp] theorem modCluster_standing {c : Nat} {f : Cluster → Cluster} : (s.modCluster c f).standing = s.standing := rfl
@[simp] theorem modSeq_standing {id : Nat} {f : Seq → Seq} : (s.modSeq id f).standing = s.standing := rfl
@[simp] theorem modRing_standing {r : Nat} {f : Ring → Ring} : (s.modRing r f).standing = s.standing := rfl
@[simp] theorem modVec_standing {v : Nat} {f : Vec → Vec} : (s.modVec v f).standing = s.standing := rfl
@[simp] theorem modPsrv_standing {p : Nat} {f : PartSrv → PartSrv} : (s.modPsrv p f).standing = s.standing := rfl
@[simp] theorem modPsched_standing {p : Nat} {f : PartSched → PartSched} : (s.modPsched p f).standing = s.standing := rfl
@[simp] theorem modMc_standing {e : Nat} {f : McEntry → McEntry} : (s.modMc e f).standing = s.standing := rfl
@[simp] theorem modReq_standing {i : Nat} {f : Request → Request} : (s.modReq i f).standing = s.standing := rfl
@[simp] theorem modPfx_standing {h : Nat} {f : Prefix → Prefix} : (s.modPfx h f).standing = s.standing := rfl
@[simp] theorem modScrub_standing {n : Nat} {f : RangeScrub → RangeScrub} : (s.modScrub n f).standing = s.standing := rfl
@[simp] theorem modPwr_standing {f : Pwr → Pwr} : (s.modPwr f).standing = s.standing := rfl
@[simp] theorem emit_standing {o : Out} : (s.emit o).standing = s.standing := rfl
@[simp] theorem restartCounts_standing {d : Nat} : (s.restartCounts d).standing = s.standing := rfl
@[simp] theorem domainTold_standing {d : Nat} : (s.domainTold d).standing = s.standing := rfl
@[simp] theorem draw_standing : s.draw.2.standing = s.standing := rfl
@[simp] theorem drawBelow_standing {n : Nat} : (s.drawBelow n).2.standing = s.standing := rfl
@[simp] theorem drawBytes_standing {n : Nat} : (s.drawBytes n).2.standing = s.standing := rfl

/-! ### Events and vectors -/

@[simp] theorem islandCount_standing {island : Nat} : (s.islandCount island).2.standing = s.standing := by
  rw [State.islandCount_eq]
  rfl

@[simp] theorem event_standing {cls pid d0 d1 : Nat} {code : Status} {o : Obs} :
    (s.event cls code o pid d0 d1).standing = s.standing := by
  unfold State.event
  split
  · exact islandCount_standing
  · rfl

@[simp] theorem sendMessage_standing {v : Nat} : (s.sendMessage v).standing = s.standing := by
  unfold State.sendMessage
  split <;> rfl

@[simp] theorem notify_standing {v : Nat} : (s.notify v).standing = s.standing := by
  unfold State.notify
  dsimp only
  split
  · rfl
  · split
    · rfl
    · exact sendMessage_standing

/-! ### Faults of queues, producers and flows -/

@[simp] theorem scramble_standing {c k : Nat} {banks : List Nat} : (s.scramble c k banks).standing = s.standing := by
  unfold State.scramble
  exact standing_foldl (fun _ _ => by rfl) banks s

@[simp] theorem queueFault_standing {c k word bank addr : Nat} {q : Queue} {st : Status} :
    (s.queueFault c k q word bank addr st).standing = s.standing := by
  unfold State.queueFault
  dsimp only
  split <;> split <;> simp [State.stopMmas]

@[simp] theorem verbFault_standing {c k id addr : Nat} {q : Queue} {st : Status} :
    (s.verbFault c k q id addr st).standing = s.standing := by
  unfold State.verbFault
  split <;> simp

@[simp] theorem producerFault_standing {x owner : Nat} {st : Status} : (s.producerFault x owner st).standing = s.standing := by
  unfold State.producerFault
  split
  · simp
  · split <;> rfl
  · split <;> rfl
  · rfl

@[simp] theorem modStationPort_standing {x : Nat} {f : Port → Port} : (s.modStationPort x f).standing = s.standing := by
  unfold State.modStationPort
  split
  case h_4 => split <;> rfl
  all_goals rfl

@[simp] theorem failWaiters_standing {f n : Nat} {st : Status} : (s.failWaiters f n st).standing = s.standing := by
  unfold State.failWaiters
  dsimp only
  rw [standing_ite, standing_foldl (fun _ _ => producerFault_standing), modStationPort_standing, standing_foldl (fun s w => ?_), ite_self]
  split <;> simp

@[simp] theorem flowFail_standing {f n : Nat} {st : Status} : (s.flowFail f n st).standing = s.standing := by simp [State.flowFail]

@[simp] theorem portFail_standing {f : Nat} : (s.portFail f).standing = s.standing :=
  standing_foldl (fun _ _ => flowFail_standing) _ s

@[simp] theorem portOff_standing {f : Nat} : (s.portOff f).standing = s.standing := by simp [State.portOff]

@[simp] theorem portStart_standing {f : Nat} : (s.portStart f).standing = s.standing := by
  unfold State.portStart
  split <;> simp

/-! ### Cells and lines of the stacks -/

@[simp] theorem fixCells_standing {line : Nat} : (s.fixCells line).standing = s.standing := by
  unfold State.fixCells
  split <;> rfl

@[simp] theorem poisonLine_standing {line : Nat} : (s.poisonLine line).standing = s.standing := by simp [State.poisonLine]

@[simp] theorem writeCells_standing {line : Nat} {b : List Byte} : (s.writeCells line b).standing = s.standing := by
  simp [State.writeCells]

@[simp] theorem tellDamaged_standing {e block : Nat} : (s.tellDamaged e block).standing = s.standing :=
  standing_foldl (fun _ _ => event_standing) _ s

@[simp] theorem damageModels_standing {hit : List (Nat × List Nat)} : (s.damageModels hit).standing = s.standing := by
  refine standing_foldl (fun s x => ?_) hit s
  dsimp only
  split
  · rw [standing_foldl (fun _ _ => by simp)]
    simp
  · simp

@[simp] theorem dropIntake_standing {n ch : Nat} : (s.dropIntake n ch).standing = s.standing := rfl

@[simp] theorem stopUnit_standing {g : Nat} : (s.stopUnit g).standing = s.standing := rfl

@[simp] theorem mapOut_standing {n ch reason : Nat} : (s.mapOut n ch reason).standing = s.standing := by
  unfold State.mapOut
  dsimp only
  split
  · simp
  · rw [damageModels_standing, standing_foldl (fun _ _ => event_standing)]
    simp

@[simp] theorem damage_standing {pa : Nat} : (s.damage pa).standing = s.standing := by
  unfold State.damage
  split
  · rfl
  · dsimp only
    split
    · rfl
    · split
      · simp
      · split <;> simp

@[simp] theorem logRead_standing {n ch line kind rd : Nat} {symbols : List Nat} {again : Bool} :
    (s.logRead n ch line kind rd symbols again).standing = s.standing := rfl

@[simp] theorem firstUncorrectable_standing {n ch line src rd : Nat} :
    (s.firstUncorrectable n ch line src rd).standing = s.standing := by
  unfold State.firstUncorrectable
  dsimp only
  split <;> split <;> simp

@[simp] theorem countCe_standing {n ch : Nat} : (s.countCe n ch).standing = s.standing := by
  unfold State.countCe
  dsimp only
  split
  · rfl
  · split <;> simp

@[simp] theorem readCells_standing {n ch line src rd : Nat} : (s.readCells n ch line src rd).2.standing = s.standing := by
  unfold State.readCells
  split
  · simp
  · dsimp only
    split
    · rfl
    · dsimp only
      split <;> split <;> simp
    · simp
    · simp

@[simp] theorem evictEntry_standing {n ch : Nat} {e : WcbEntry} : (s.evictEntry n ch e).standing = s.standing := by
  unfold State.evictEntry
  dsimp only
  split
  · next h => simp [standing_snd h readCells_standing]
  · next h => simp [standing_snd h readCells_standing]

@[simp] theorem drainChannel_standing {n ch : Nat} : (s.drainChannel n ch).standing = s.standing :=
  standing_foldl (fun _ _ => evictEntry_standing) _ s

@[simp] theorem drainStack_standing {n : Nat} : (s.drainStack n).standing = s.standing :=
  standing_foldl (fun _ _ => drainChannel_standing) _ s

@[simp] theorem selfRefresh_standing {n : Nat} : (s.selfRefresh n).standing = s.standing := by
  unfold State.selfRefresh
  split <;> simp

/-! ### Writes to the base dies -/

@[simp] theorem deliver_standing {op : WriteOp} {r : Status × Nat} : (s.deliver op r).standing = s.standing := by
  unfold State.deliver
  split
  case h_3 =>
    split
    · rfl
    · split <;> rfl
  all_goals rfl

@[simp] theorem noteAtomic_standing {spot : Spot} {w : Writer} {scope tag before : Nat} :
    (s.noteAtomic spot w scope tag before).standing = s.standing := by
  unfold State.noteAtomic
  dsimp only
  split <;> rfl

@[simp] theorem contended_standing {spot : Spot} {w : Writer} {scope now : Nat} :
    (s.contended spot w scope now).2.standing = s.standing := by
  unfold State.contended
  split <;> rfl

@[simp] theorem combine_standing {n ch line mask : Nat} {b : List Byte} : (s.combine n ch line b mask).standing = s.standing := by
  unfold State.combine
  dsimp only
  split
  · split <;> simp
  · split
    · simp
    · split
      · split <;> simp
      · simp

@[simp] theorem keepNouns_standing {line : Nat} : (s.keepNouns line).standing = s.standing := by
  unfold State.keepNouns
  split <;> rfl

@[simp] theorem refreshFirst_standing {n ch : Nat} : (s.refreshFirst n ch).standing = s.standing := by
  unfold State.refreshFirst
  split <;> rfl

@[simp] theorem transfer_standing {n line : Nat} : (s.transfer n line).2.standing = s.standing := by
  unfold State.transfer
  dsimp only
  split <;> rfl

@[simp] theorem perform_standing {op : WriteOp} : (s.perform op).2.standing = s.standing := by
  unfold State.perform
  split
  · rfl
  · dsimp only
    split
    · simp
    · split
      · simp
      · split
        · simp
        · split
          · next h => simp [standing_snd h readCells_standing]
          · next h => simp [standing_snd h readCells_standing]
          · next h => simp [standing_snd h readCells_standing]

@[simp] theorem withdraw_standing {line : Nat} {op : Option WriteOp} : (s.withdraw line op).standing = s.standing := by
  unfold State.withdraw
  dsimp only
  split <;> rfl

@[simp] theorem noteOverlap_standing {id : Nat} : (s.noteOverlap id).standing = s.standing := by
  unfold State.noteOverlap
  dsimp only
  split <;> simp

@[simp] theorem holdWrite_standing {n id : Nat} {op : WriteOp} : (s.holdWrite n id op).standing = s.standing := by
  unfold State.holdWrite
  dsimp only
  split <;> simp

@[simp] theorem settleCache_standing {op : WriteOp} : (s.settleCache op).standing = s.standing := by
  unfold State.settleCache
  split
  · rfl
  · split <;> rfl

@[simp] theorem writeBase_standing {op : WriteOp} : (s.writeBase op).2.standing = s.standing := by
  unfold State.writeBase
  split
  · simp
  · dsimp only
    split
    · split <;> simp
    · split
      · simp
      · split <;> simp

@[simp] theorem submit_standing {op : WriteOp} : (s.submit op).standing = s.standing := by
  unfold State.submit
  split
  · next h => exact standing_snd h writeBase_standing
  · next h => exact deliver_standing.trans (standing_snd h writeBase_standing)

@[simp] theorem submitBytes_standing {w : Writer} {pa tag : Nat} {b : List Byte} :
    (s.submitBytes w pa b tag).standing = s.standing :=
  standing_foldl (fun _ _ => submit_standing) _ s

@[simp] theorem writeBackLine_standing {c line tag : Nat} {w : Writer} {drop : Bool} :
    (s.writeBackLine c line w tag drop).standing = s.standing := by
  unfold State.writeBackLine
  split
  · rfl
  · dsimp only
    split
    · rfl
    · rw [standing_foldl (fun _ _ => submit_standing), modCluster_standing]

@[simp] theorem cleanCluster_standing {c : Nat} : (s.cleanCluster c).standing = s.standing :=
  standing_foldl (fun _ _ => writeBackLine_standing) _ s

/-! ### Power domains -/

@[simp] theorem domainOff_standing {d : Nat} : (s.domainOff d).standing = s.standing := by
  unfold State.domainOff
  simp only [restartCounts_standing, modPwr_standing, standing_ite, cleanCluster_standing, selfRefresh_standing, portOff_standing,
    ite_self]

@[simp] theorem domainOn_standing {d : Nat} : (s.domainOn d).standing = s.standing := by
  unfold State.domainOn
  dsimp only
  split <;> simp

@[simp] theorem setDomains_standing {img : Image} : (s.setDomains img).standing = s.standing := by
  refine standing_foldl (fun s d => ?_) _ s
  simp only [standing_ite, domainOff_standing, domainOn_standing, ite_self]

/-! ### Companion memory -/

@[simp] theorem compWrite_standing {addr mask : Nat} {b : List Byte} {order : Ordering} :
    (s.compWrite addr b mask order).standing = s.standing := by
  unfold State.compWrite
  split
  · rfl
  · exact standing_foldl (fun _ _ => by rfl) _ s

@[simp] theorem compWriteBytes_standing {addr : Nat} {b : List Byte} {order : Ordering} :
    (s.compWriteBytes addr b order).standing = s.standing :=
  standing_foldl (fun _ _ => compWrite_standing) _ s

@[simp] theorem trimLinkCache_standing {kept : LinkLine → Bool} : (s.trimLinkCache kept).standing = s.standing := by
  unfold State.trimLinkCache
  rw [standing_foldl (fun s x => by dsimp only; split <;> rfl)]
  rfl

/-! ### Reads and translations -/

@[simp] theorem readLine_standing {src rd line : Nat} : (s.readLine src rd line).2.standing = s.standing := by
  unfold State.readLine
  split
  · rfl
  · dsimp only
    split
    · split <;> rfl
    · split
      · next h =>
        have read := standing_snd h readCells_standing
        split
        · simp [read]
        · split <;> next h' => simp [standing_snd h' transfer_standing, read]
      · simp

@[simp] theorem readEntry_standing {src table i : Nat} : (s.readEntry src table i).2.standing = s.standing := by
  unfold State.readEntry
  dsimp only
  split <;> next h => exact standing_snd h readLine_standing

theorem awaiting_standing {α : Type} {f : State → α × State} {waits : α → Bool} (h : ∀ s, (f s).2.standing = s.standing) :
    (s.awaiting f waits).2.standing = s.standing := by
  unfold State.awaiting
  dsimp only
  split
  · exact h s
  · simp [h]

@[simp] theorem entryAwaited_standing {table i : Nat} : (s.entryAwaited table i).2.standing = s.standing :=
  awaiting_standing fun _ => readEntry_standing

@[simp] theorem leafSlot_standing {p va : Nat} : (s.leafSlot p va).2.standing = s.standing := by
  unfold State.leafSlot
  dsimp only
  split
  · next h => exact standing_snd h entryAwaited_standing
  · next h =>
    have upper := standing_snd h entryAwaited_standing
    split
    · exact upper
    · split <;> next h' => exact (standing_snd h' entryAwaited_standing).trans upper

@[simp] theorem translate_standing {src p va : Nat} {write : Bool} : (s.translate src p va write).2.standing = s.standing := by
  unfold State.translate
  split
  · rfl
  · dsimp only
    split
    · rfl
    split
    · rfl
    split
    · rfl
    split
    · next h2 => exact standing_snd h2 readEntry_standing
    next h2 =>
    have top := standing_snd h2 readEntry_standing
    split
    · exact top
    split
    · next h1 => exact (standing_snd h1 readEntry_standing).trans top
    next h1 =>
    have middle := (standing_snd h1 readEntry_standing).trans top
    split
    · exact middle
    split
    · next h0 => exact (standing_snd h0 readEntry_standing).trans middle
    next h0 =>
    have leaf := (standing_snd h0 readEntry_standing).trans middle
    split
    · exact leaf
    split
    · split
      · exact leaf
      split
      · exact leaf
      split
      · next h => exact (standing_snd h readEntry_standing).trans leaf
      · next h =>
        have small := (standing_snd h readEntry_standing).trans leaf
        split <;> exact small
    · split <;> exact leaf

/-! ### Completions and requests -/

@[simp] theorem writeLeaf_standing {slot : Nat} {page : Option Nat} : (s.writeLeaf slot page).standing = s.standing :=
  submitBytes_standing

@[simp] theorem releasePages_standing {p : Nat} {pages : List Nat} : (s.releasePages p pages).standing = s.standing := by
  refine standing_foldl (fun s v => ?_) pages s
  dsimp only
  split
  · rfl
  · rw [modPsrv_standing]
    split <;> next h => simp [standing_snd h leafSlot_standing]

@[simp] theorem retirePfx_standing {h : Nat} : (s.retirePfx h).standing = s.standing := by
  unfold State.retirePfx
  dsimp only
  split
  · exact releasePages_standing
  · rfl

@[simp] theorem writeCompletion_standing {p : Nat} {b : List Byte} {ends : Option Nat} :
    (s.writeCompletion p b ends).standing = s.standing := by
  have cleared {i : Nat} (s : State) : (s.modSrv fun y => { y with table := y.table.drop i }).standing = s.standing := rfl
  unfold State.writeCompletion
  dsimp only
  split
  · simp
  · simp [cleared]

theorem writeCompletions_standing (p : Nat) : ∀ (n : Nat) (s : State),
    (State.writeCompletions p n s).2.standing = s.standing
  | 0, _ => rfl
  | n + 1, s => by
    unfold State.writeCompletions
    dsimp only
    split
    · rfl
    · split
      · exact (writeCompletions_standing p n _).trans (by simp)
      · rfl

@[simp] theorem pumpCompletions_standing {p : Nat} : (s.pumpCompletions p).standing = s.standing := by
  unfold State.pumpCompletions
  dsimp only
  split <;> simp [writeCompletions_standing]

@[simp] theorem complete_standing {p : Nat} {c : Completion} {ends : Option Nat} : (s.complete p c ends).standing = s.standing := by
  unfold State.complete
  dsimp only
  split <;> simp

@[simp] theorem movePages_standing {p : Nat} {moves : List (Nat × Nat)} : (s.movePages p moves).standing = s.standing := by
  unfold State.movePages
  dsimp only
  rw [standing_foldl (fun s x => ?_), standing_foldl (fun s x => ?_)]
  all_goals
    rw [modPsrv_standing]
    split <;> next h => simp [standing_snd h leafSlot_standing]

@[simp] theorem endRequest_standing {i : Nat} {state : ReqState} {status cause : Status} :
    (s.endRequest i state status cause).standing = s.standing := by
  unfold State.endRequest
  simp only [complete_standing, standing_ite, event_standing, modReq_standing, modPfx_standing, movePages_standing,
    releasePages_standing, ite_self]

@[simp] theorem serveReload_standing : s.serveReload.standing = s.standing := by
  have bare (t : State) : ({ t with srv := { state := t.srv.state, tick := t.srv.tick, ticking := t.srv.ticking } } : State).standing
      = t.standing := rfl
  unfold State.serveReload
  rw [bare, standing_foldl (fun _ _ => pumpCompletions_standing), standing_foldl (fun _ _ => endRequest_standing)]

/-! ### Range scrubs -/

@[simp] theorem scrubLine_standing {n ch line : Nat} : (s.scrubLine n ch line).standing = s.standing := by
  unfold State.scrubLine
  dsimp only
  rw [readCells_standing]
  split
  case h_2 => split <;> rfl
  all_goals rfl

theorem scrubRun_standing {n : Nat} {at_ : Nat → Option Nat} : ∀ (k line skipped : Nat) (s : State),
    (s.scrubRun n at_ k line skipped).2.standing = s.standing
  | 0, _, _, _ => rfl
  | k + 1, line, skipped, s => by
    have counted {g : Nat} : ((s.scrubLine n g line).scrubRun n at_ k (line + 1) skipped).2.standing = s.standing :=
      (scrubRun_standing k _ _ _).trans scrubLine_standing
    unfold State.scrubRun
    split
    · rw [apply_ite Prod.snd, standing_ite, scrubRun_standing k _ _ s, counted, ite_self]
    · exact scrubRun_standing k _ _ s
    · exact scrubRun_standing k _ _ s

@[simp] theorem awaitStacks_standing {ns : List Nat} : (s.awaitStacks ns).standing = s.standing :=
  standing_foldl (fun _ _ => modStack_standing) ns s

@[simp] theorem rscrubEnd_standing {n : Nat} {written : Bool} : (s.rscrubEnd n written).standing = s.standing := by
  unfold State.rscrubEnd
  dsimp only
  split
  · rfl
  · split
    · simp
    · simp only [event_standing, standing_ite, compWriteBytes_standing, modScrub_standing, draw_standing, scrubRun_standing,
        standing_changed, ite_self]

/-! ### Sequences of the bank-side units -/

@[simp] theorem releaseClaim_standing {id : Nat} : (s.releaseClaim id).standing = s.standing := by
  refine standing_foldl (fun s n => ?_) _ s
  dsimp only
  split
  · rfl
  · rw [standing_foldl (fun _ _ => submit_standing), standing_foldl (fun _ _ => modSeq_standing), modStack_standing]

@[simp] theorem noteServing_standing {q : Seq} {st : Status} : (s.noteServing q st).standing = s.standing := by
  unfold State.noteServing
  dsimp only
  split <;> rfl

@[simp] theorem writeSummary_standing {id : Nat} {q : Seq} {target : Option Nat} :
    (s.writeSummary id q target).standing = s.standing := by
  unfold State.writeSummary
  dsimp only
  split <;> split <;> simp

/-- A computation of a sequence leaves `standing`. -/
def LeavesStanding {α : Type} (m : SM α) : Prop := ∀ s : State, (m.run s).2.standing = s.standing

theorem LeavesStanding.modifyGet {α : Type} {g : State → α × State} (h : ∀ s, (g s).2.standing = s.standing) :
    LeavesStanding (MonadStateOf.modifyGet g : SM α) := h

theorem LeavesStanding.bind {α β : Type} {m : SM α} {f : α → SM β} (hm : LeavesStanding m) (hf : ∀ a, LeavesStanding (f a)) :
    LeavesStanding (m >>= f) := by
  intro s
  show (ExceptT.bindCont f (m.run s).1 (m.run s).2).2.standing = s.standing
  cases (m.run s).1 with
  | ok a => exact (hf a _).trans (hm s)
  | error e => exact hm s

theorem run_tryCatch {α : Type} {m : SM α} {f : SeqHalt → SM α} : (tryCatch m f : SM α).run s = match (m.run s).1 with
    | .ok a => (.ok a, (m.run s).2)
    | .error e => (f e).run (m.run s).2 := by
  show (ExceptT.tryCatch m f) s = _
  unfold ExceptT.tryCatch ExceptT.mk
  show (StateT.bind m _) s = _
  unfold StateT.bind ExceptT.run
  generalize m s = p
  obtain ⟨r, t⟩ := p
  cases r <;> rfl

theorem LeavesStanding.tryCatch {α : Type} {m : SM α} {f : SeqHalt → SM α} (hm : LeavesStanding m) (hf : ∀ e, LeavesStanding (f e)) :
    LeavesStanding (tryCatch m f) := by
  intro s
  rw [run_tryCatch]
  split
  · exact hm s
  · exact (hf _ _).trans (hm s)

theorem bankWalk_standing {r : BankReader} {va : Nat} {write : Bool} : LeavesStanding (bankWalk r va write) := by
  refine .bind (.modifyGet fun _ => translate_standing) fun x => ?_
  split <;> exact fun _ => rfl

theorem summaryTarget_standing {q : Seq} : LeavesStanding (summaryTarget q) := by
  unfold summaryTarget
  split
  · exact fun _ => rfl
  · refine .tryCatch (.bind bankWalk_standing fun _ _ => rfl) fun e => ?_
    cases e <;> exact fun _ => rfl

@[simp] theorem closeSeq_standing {id : Nat} : (s.closeSeq id).standing = s.standing := by
  unfold State.closeSeq
  split
  · rfl
  · split
    · next h => exact standing_snd h (summaryTarget_standing _)
    · next h =>
      split
      · exact standing_snd h (summaryTarget_standing _)
      · simp [standing_snd h (summaryTarget_standing _)]

@[simp] theorem unbindLead_standing {q : Seq} : (s.unbindLead q).standing = s.standing := by
  unfold State.unbindLead
  dsimp only
  rw [standing_ite, standing_foldl (fun _ _ => modUnitPort_standing), ite_self, standing_ite, standing_foldl (fun s j => ?_), ite_self]
  split
  · rfl
  · split <;> rfl

@[simp] theorem flowSend_standing {f n : Nat} {p : Packet} {w : Waiter} : (s.flowSend f n p w).standing = s.standing := by
  unfold State.flowSend
  dsimp only
  split <;> rfl

@[simp] theorem sendCredit_standing {pid source target : Nat} : (s.sendCredit pid source target).standing = s.standing := by
  unfold State.sendCredit
  split
  · rfl
  · split <;> simp

@[simp] theorem intakeCredit_standing {pid n ch src : Nat} : (s.intakeCredit pid n ch src).standing = s.standing := by
  unfold State.intakeCredit
  split <;> simp

@[simp] theorem endSeq_standing {id va : Nat} {st : Status} {cut : Bool} : (s.endSeq id st va cut).standing = s.standing := by
  unfold State.endSeq
  dsimp only
  split <;> simp

@[simp] theorem abortSequences_standing : s.abortSequences.standing = s.standing := by
  refine standing_foldl (fun s x => ?_) _ s
  dsimp only
  split
  · rfl
  · split <;> simp

/-! ### Domains, partitions and the map of a new structure -/

@[simp] theorem zeroRange_standing {lo hi : Nat} : (s.zeroRange lo hi).standing = s.standing := by
  unfold State.zeroRange
  rw [standing_changed, standing_foldl (fun _ _ => withdraw_standing)]

@[simp] theorem definePartition_standing {r : PartRec} : (s.definePartition r).standing = s.standing := by
  simp [State.definePartition]

@[simp] theorem planInForce_standing {plan : Nat} : (s.planInForce plan).standing = s.standing := by
  unfold State.planInForce
  split
  · rfl
  · rw [standing_changed, standing_foldl (fun _ _ => modPsched_standing)]

end

end Sys2Proof.Machine
end

/-! ## Replacing the structure: bring-up, a full image's APPLY, a partition made by a partial image, and the tests of returning cores -/

section
namespace Sys2Proof

theorem bit_eq_testBit (v n : Nat) : bit v n = v.testBit n := by
  rw [Nat.testBit_eq_decide_div_mod_eq]
  rfl

/-- Adding a power of two to a number without that bit sets it and leaves the others. -/
theorem bit_add_two_pow {v m : Nat} (h : bit v m = false) (n : Nat) : bit (v + 2 ^ m) n = (decide (n = m) || bit v n) := by
  rcases Nat.lt_trichotomy n m with hn | rfl | hn
  · rw [bit_eq_testBit, Nat.add_comm, Nat.testBit_two_pow_add_gt hn, ← bit_eq_testBit, decide_eq_false (Nat.ne_of_lt hn), Bool.false_or]
  · rw [bit_eq_testBit, Nat.add_comm, Nat.testBit_two_pow_add_eq, ← bit_eq_testBit, h]
    simp
  · obtain ⟨k, rfl⟩ := Nat.exists_eq_add_of_lt hn
    have even : v / 2 ^ m % 2 ≠ 1 := by simpa [bit] using h
    have same : (v + 2 ^ m) / 2 ^ (m + k + 1) = v / 2 ^ (m + k + 1) := by
      rw [show m + k + 1 = m + 1 + k by omega, Nat.pow_add, Nat.pow_succ, ← Nat.div_div_eq_div_mul, ← Nat.div_div_eq_div_mul,
        ← Nat.div_div_eq_div_mul, ← Nat.div_div_eq_div_mul, Nat.add_div_right v (Nat.two_pow_pos m)]
      congr 1
      omega
    rw [decide_eq_false (by omega), Bool.false_or]
    simp only [bit, same]

/-- A number is one without its bit `m`, and the bit's own value. -/
theorem exists_cleared (v m : Nat) : ∃ w, bit w m = false ∧ v = w + b2n (bit v m) * 2 ^ m := by
  cases hb : bit v m with
  | false => exact ⟨v, hb, by simp [b2n]⟩
  | true =>
    have le : 2 ^ m ≤ v := by
      refine Nat.le_of_not_lt fun hlt => ?_
      simp [bit, Nat.div_eq_of_lt hlt] at hb
    refine ⟨v - 2 ^ m, ?_, by simp [b2n, Nat.sub_add_cancel le]⟩
    rw [← Nat.sub_add_cancel le, bit_eq_testBit, Nat.add_comm, Nat.testBit_two_pow_add_eq] at hb
    simpa [bit_eq_testBit] using hb

theorem bit_putBit (v m n : Nat) (b : Bool) : bit (putBit v m b) n = if n = m then b else bit v n := by
  obtain ⟨w, hw, hv⟩ := exists_cleared v m
  have set (b : Bool) : bit (w + b2n b * 2 ^ m) n = if n = m then b else bit w n := by
    cases b with
    | false =>
      rw [show b2n false = 0 from rfl, Nat.zero_mul, Nat.add_zero]
      split
      · next h => rw [h, hw]
      · rfl
    | true => simp [b2n, bit_add_two_pow hw]
  have put : putBit v m b = w + b2n b * 2 ^ m := by
    unfold putBit
    omega
  rw [put, set]
  split
  · rfl
  · next hn => rw [hv, set, if_neg hn]

end Sys2Proof

namespace Sys2Proof.Machine

section
variable {s t r : State} {img : Image}

/-! ### Bring-up (R196) -/

/-- A bring-up touches the stacks, the port domains' power and counts, and the list of the second group. -/
def OnlyBringsUp (s t : State) : Prop :=
  t = { s with gram := { s.gram with groupWait := t.gram.groupWait }, pwr := { s.pwr with domOn := t.pwr.domOn }, stk := t.stk,
               counts := t.counts, clockHeld := t.clockHeld }

theorem OnlyBringsUp.refl (s : State) : OnlyBringsUp s s := rfl

theorem OnlyBringsUp.trans (h : OnlyBringsUp s t) (h' : OnlyBringsUp t r) : OnlyBringsUp s r := by
  unfold OnlyBringsUp at h h' ⊢
  rw [h] at h'
  exact h'

/-- A stack trains, with its port domain on. -/
def State.trains (s : State) (n : Nat) : Prop := (s.stack n).state = .training ∧ bit s.pwr.domOn (32 + n) = true

theorem beginBringup_cons {n : Nat} {ns : List Nat} : s.beginBringup (n :: ns) = (s.beginBringup [n]).beginBringup ns := rfl

theorem beginBringup_onlyBringsUp (ns : List Nat) : ∀ s : State, OnlyBringsUp s (s.beginBringup ns) := by
  induction ns with
  | nil => exact OnlyBringsUp.refl
  | cons n ns ih => exact fun s => OnlyBringsUp.trans (t := s.beginBringup [n]) rfl (ih _)

theorem trains_beginBringup_one {n m : Nat} (h : m = n ∨ s.trains m) : (s.beginBringup [n]).trains m := by
  have stk : (s.beginBringup [n]).stack m
      = Tbl.look {} (s.stk.upd {} n fun x => { x with state := .training, tries := 0, descFailed := false }) m := rfl
  have on : (s.beginBringup [n]).pwr.domOn = putBit s.pwr.domOn (32 + n) true := rfl
  unfold State.trains
  rw [stk, on, Tbl.look_upd, bit_putBit]
  by_cases hm : m = n
  · simp [hm]
  · obtain ⟨hstate, hon⟩ := h.resolve_left hm
    rw [if_neg hm, if_neg (by omega)]
    exact ⟨hstate, hon⟩

theorem trains_beginBringup {m : Nat} (ns : List Nat) : ∀ {s : State}, m ∈ ns ∨ s.trains m → (s.beginBringup ns).trains m := by
  induction ns with
  | nil => exact fun h => h.resolve_left List.not_mem_nil
  | cons n ns ih =>
    intro s h
    rw [beginBringup_cons]
    refine ih ?_
    rcases h with h | h
    · rcases List.mem_cons.1 h with rfl | h
      · exact .inr (trains_beginBringup_one (.inl rfl))
      · exact .inl h
    · exact .inr (trains_beginBringup_one (.inr h))

theorem groupWait_onlyBringsUp (ns : List Nat) : OnlyBringsUp s (s.modGram fun x => { x with groupWait := ns }) := rfl

theorem nextGroup_onlyBringsUp (s : State) : OnlyBringsUp s s.nextGroup := by
  unfold State.nextGroup
  split
  · exact .refl s
  · exact (groupWait_onlyBringsUp []).trans (beginBringup_onlyBringsUp _ _)

theorem bringup_onlyBringsUp (s : State) (img : Image) : OnlyBringsUp s (s.bringup img) := by
  unfold State.bringup
  dsimp only
  split
  · exact ((groupWait_onlyBringsUp _).trans (beginBringup_onlyBringsUp _ _)).trans (nextGroup_onlyBringsUp _)
  · exact beginBringup_onlyBringsUp _ s

theorem OnlyBringsUp.below500 (h : OnlyBringsUp s t) : t.below500 = s.below500 := by
  rw [h]
  rfl

theorem bringup_atOnce (hr : s.pwr.restricted = false) (hb : s.below500 = false) :
    s.bringup img = s.beginBringup (s.stacksToTrain img) := by
  simp [State.bringup, hr, hb]

theorem beginBringup_gram (ns : List Nat) : (s.beginBringup ns).gram = s.gram :=
  gram_of_standing (standing_foldl (fun _ _ => by rfl) ns s)

/-! ### APPLY of a full image (R60, R61, R310) -/

/-- The state in which a full image enters APPLY. -/
def State.applying (s : State) (img : Image) : State :=
  s.modGram fun x => { x with state := .apply, job := x.job.map fun j => { j with image := some img } }

theorem applying_job {j : LoadJob} (hj : s.gram.job = some j) : (s.applying img).gram.job = some { j with image := some img } := by
  show s.gram.job.map _ = _
  rw [hj]
  rfl

theorem applyFull_first (h : s.gram.image = none) :
    s.applyFull img = ((s.applying img).modGram fun x => { x with mapped := false }).bringup img := by
  simp [State.applyFull, State.applying, h]

theorem applyFull_later (h : s.gram.image ≠ none) (hc : capacityFull img s.channelsInService = none) :
    s.applyFull img = ((s.applying img).replaceStructure img s.channelsInService).bringup img := by
  simp [State.applyFull, State.applying, Option.isNone_eq_false_iff.2 (Option.ne_none_iff_isSome.1 h), hc]

theorem accept_standing : (s.accept img).standing = { s.standing with gram := { s.standing.gram with image := some img } } := by
  unfold State.accept
  rw [planInForce_standing, standing_foldl (fun _ _ => definePartition_standing)]
  rfl

/-- Of what stands while a device works, a new structure changes the image in force, the map, and the serving controller's state. -/
theorem replaceStructure_standing (s : State) (img : Image) (chans : List Nat) : (s.replaceStructure img chans).standing
    = { s.standing with gram := { s.gram with image := some img, mapped := true }, srvState := 2 } := by
  have closed (t : State) : (((t.modSrv fun x => { x with state := 2 }).modMgmt fun x => { x with bkgRun := 0, telNext := 0 }).modGram
      fun x => { x with mapped := true }).standing
        = { t.standing with gram := { t.standing.gram with mapped := true }, srvState := 2 } := rfl
  have rebound (t : State) (sets : List (List Nat)) : (t.rebind img sets).standing
      = { t.standing with gram := { t.standing.gram with image := some img } } := rfl
  have scrubbed (t : State) (l : List Nat) : (l.foldl (fun s n => (s.modScrub n fun x => { x with stopped := true }).rscrubEnd n true)
      t).standing = t.standing :=
    standing_foldl (fun _ _ => by rw [rscrubEnd_standing, modScrub_standing]) l t
  have drained (t : State) : ((List.range 12).foldl (fun s n => if (s.stack n).asleep then s else s.drainStack n) t).standing
      = t.standing :=
    standing_foldl (fun _ _ => by rw [standing_ite, drainStack_standing, ite_self]) _ t
  have cleaned (t : State) : ((List.range 16).foldl (fun s c => s.cleanCluster c) t).standing = t.standing :=
    standing_foldl (fun _ _ => cleanCluster_standing) _ t
  unfold State.replaceStructure
  simp only [closed, setDomains_standing, standing_ite, trimLinkCache_standing, standing_changed, ite_self, accept_standing, rebound,
    drained, cleaned, serveReload_standing, scrubbed, abortSequences_standing]
  rfl

theorem replaceStructure_stopsBackground (s : State) (img : Image) (chans : List Nat) :
    (s.replaceStructure img chans).mgmt.bkgRun = 0 := rfl

/-! ### A partial image accepted (R62) -/

theorem acceptPartial_defined (h : s.defined img.target = true) :
    s.acceptPartial img = (s.applying img).modGram fun x => { x with pending := some img } := if_pos h

theorem acceptPartial_new (h : s.defined img.target = false) : s.acceptPartial img = (s.applying img).applyPartial img :=
  if_neg (Bool.eq_false_iff.1 h)

/-- Zeroing a range touches its bytes, what is known of their cells, and the companion's copies. -/
def OnlyZeroes (s t : State) : Prop :=
  t = { s with mem := t.mem, poison := t.poison, upsets := t.upsets, xl := { s.xl with withdraws := t.xl.withdraws }, out := t.out }

theorem OnlyZeroes.trans (h : OnlyZeroes s t) (h' : OnlyZeroes t r) : OnlyZeroes s r := by
  unfold OnlyZeroes at h h' ⊢
  rw [h] at h'
  exact h'

theorem withdraw_onlyZeroes (s : State) (line : Nat) (op : Option WriteOp) : OnlyZeroes s (s.withdraw line op) := by
  unfold State.withdraw
  dsimp only
  split <;> rfl

theorem zeroRange_onlyZeroes (s : State) (lo hi : Nat) : OnlyZeroes s (s.zeroRange lo hi) := by
  have held (f : Nat → Option WriteOp) (l : List Nat) : ∀ s : State, OnlyZeroes s (l.foldl (fun s l => s.withdraw l (f l)) s) := by
    induction l with
    | nil => exact fun s => rfl
    | cons x l ih => exact fun s => (withdraw_onlyZeroes s x (f x)).trans (ih _)
  exact (held _ _ s).trans rfl

theorem definePartition_onlyZeroes (s : State) (p : PartRec) : OnlyZeroes s (s.definePartition p) :=
  (zeroRange_onlyZeroes s _ _).trans (zeroRange_onlyZeroes _ _ _)

/-- A happening recorded touches the event store, its island's count and the free values. -/
theorem event_eq (cls : Nat) (code : Status) (o : Obs) (pid d0 d1 : Nat) : s.event cls code o pid d0 d1
    = { s with mgmt := (s.event cls code o pid d0 d1).mgmt, counts := (s.event cls code o pid d0 d1).counts,
               clockHeld := (s.event cls code o pid d0 d1).clockHeld, fresh := (s.event cls code o pid d0 d1).fresh } := by
  by_cases h : s.mgmt.store.length < 256
  · rw [event_stored h, State.islandCount_eq]
  · rw [event_dropped (Nat.le_of_not_lt h)]
    rfl

theorem freshCores_eq (l : List Nat) : ∀ s : State, l.foldl (fun s n => s.modCore (n / 12) (n % 12) CoreSt.fresh) s
    = { s with cores := (l.foldl (fun s n => s.modCore (n / 12) (n % 12) CoreSt.fresh) s).cores } := by
  induction l with
  | nil => exact fun s => rfl
  | cons n l ih => exact fun s => ih (s.modCore (n / 12) (n % 12) CoreSt.fresh)

/-- A partition created: its tables zeroed, its records over the structure in force, its cores its own, with a share of the plan. -/
theorem applyPartial_new (hnew : s.defined img.target = false) (hkeep : img.removes = false) (hret : s.returning img = []) :
    ∃ t cores share, OnlyZeroes s t ∧ s.applyPartial img =
      (({ t with cores := cores,
                 gram := { s.gram with image := some (s.srvImage.overlaid img), pending := none, testing := [] } } : State).modPsched
        img.target fun x => { x with cores := img.newCores, share := share }).partialInForce img := by
  generalize happlied : s.applyPartial img = applied
  unfold State.applyPartial at happlied
  extract_lets +onlyGivenNames p old t at happlied
  have ht : OnlyZeroes s t := by
    unfold t
    split
    · next r _ =>
      rw [hnew, hkeep]
      exact definePartition_onlyZeroes s r
    · rfl
  clear_value t
  dsimp only at happlied
  have hgram : t.gram = s.gram := by rw [ht]
  have himage : t.srvImage = s.srvImage := by
    unfold State.srvImage
    rw [hgram]
  have htests : t.returning img = [] := by
    rw [← hret, ht]
    rfl
  rw [freshCores_eq, hkeep, htests, himage] at happlied
  simp only [State.modGram, hgram] at happlied
  exact ⟨t, _, _, ht, happlied.symm⟩

section
variable (s : State) (img : Image)

theorem partialInForce_eq : s.partialInForce img =
    ({ s with gram := { s.gram with loads := (s.gram.loads + 1) % 2 ^ 32,
                                    pdigest := s.gram.pdigest.put img.target img.digest }.ended Code.ok,
              sec := { s.sec with partialLog := s.sec.partialLog ++ [img.digest] } } : State).event Cls.gram Code.ok Obs.ofGram 0xFF 0 0 :=
  rfl

theorem partialInForce_gram : (s.partialInForce img).gram =
    { s.gram with loads := (s.gram.loads + 1) % 2 ^ 32, pdigest := s.gram.pdigest.put img.target img.digest }.ended Code.ok := by
  rw [partialInForce_eq, State.event_gram]

theorem partialInForce_sec :
    (s.partialInForce img).sec = { s.sec with partialLog := s.sec.partialLog ++ [img.digest] } := by
  rw [partialInForce_eq, State.event_sec]

theorem partialInForce_sched : (s.partialInForce img).sched = s.sched := by
  rw [partialInForce_eq, State.event_sched]

end

/-! ### The tests of returning cores (R333) -/

theorem exec_coreTestDone (c k : Nat) (pass : Bool) : exec (.coreTestDone c k pass) s = .next (s.coreTested c k pass) := rfl

/-- A core's test that is not the last leaves the load waiting for the others. -/
theorem coreTested_waits {c k : Nat} {pass : Bool} (hj : s.gram.job.bind (·.image) = some img) (hn : 12 * c + k ∈ s.gram.testing)
    (hrest : s.gram.testing.erase (12 * c + k) ≠ []) : s.coreTested c k pass =
      (if pass then s.modCore c k fun x => { x.fresh with run := .quiescent }
        else s.event Cls.sched Code.stationOffline Obs.ofSched (pidField (s.corePid c k)) (12 * c + k) 0).modGram fun x =>
          { x with testing := x.testing.erase (12 * c + k) } := by
  unfold State.coreTested
  simp only [hj]
  rw [if_neg (by simpa using hn), if_neg]
  cases pass <;> simpa [State.modGram] using hrest

section
variable {f : Gram → Gram}

theorem islandCount_modGram (island : Nat) :
    (s.modGram f).islandCount island = ((s.islandCount island).1, (s.islandCount island).2.modGram f) := by
  by_cases held : s.clockHeld.contains island = true
  · have held' : (s.modGram f).clockHeld.contains island = true := held
    rw [islandCount_held held, islandCount_held held']
    rfl
  · have held' : ¬ (s.modGram f).clockHeld.contains island = true := held
    unfold State.islandCount
    dsimp only
    rw [if_neg held, if_neg held']
    by_cases rest : (s.drawBelow (2 ^ 64 - s.counts.look 0 island)).2.coreAtRest island = true
    · have rest' : ((s.modGram f).drawBelow (2 ^ 64 - (s.modGram f).counts.look 0 island)).2.coreAtRest island = true := rest
      rw [if_pos rest, if_pos rest']
      rfl
    · have rest' : ¬ ((s.modGram f).drawBelow (2 ^ 64 - (s.modGram f).counts.look 0 island)).2.coreAtRest island = true := rest
      rw [if_neg rest, if_neg rest']
      rfl

variable (image : (f s.gram).image = s.gram.image)
include image

theorem ringOf_modGram (pid : Nat) : (s.modGram f).ringOf pid = s.ringOf pid := by
  have rings : (s.modGram f).rings = s.rings := by
    unfold State.rings State.modGram
    rw [image]
  unfold State.ringOf
  rw [rings]
  rfl

/-- An event is recorded alike before and after a change of the GRAM block beside the structure in force. -/
theorem event_modGram (cls : Nat) (code : Status) (o : Obs) (pid d0 d1 : Nat) :
    (s.event cls code o pid d0 d1).modGram f = (s.modGram f).event cls code o pid d0 d1 := by
  have ring := ringOf_modGram image pid
  by_cases room : s.mgmt.store.length < 256
  · have room' : (s.modGram f).mgmt.store.length < 256 := room
    rw [event_stored room, event_stored room']
    simp only [Obs.record, islandCount_modGram, ring]
    simp [State.modGram]
  · have room' : 256 ≤ (s.modGram f).mgmt.store.length := Nat.le_of_not_lt room
    rw [event_dropped (Nat.le_of_not_lt room), event_dropped room', ring]
    rfl

end

end

end Sys2Proof.Machine
end

section
open Sys2Proof Sys2Proof.Machine

theorem Sys2Proof.Claims.imageVerifiedOrRefused : Sys2Proof.Claims.ImageVerifiedOrRefused := by
  intro j s hj hs
  refine ⟨fun h => ⟨_, exec_imageVerifyDone, ?_⟩, fun hsig => ⟨fun f hf => ⟨_, exec_imageVerifyDone, ?_⟩, fun hsound => ?_⟩⟩
  · rw [imageVerified_unsigned hj hs h]
    exact gramRefuse_refusesLoad s _
  · rw [imageVerified_faulty hj hs hsig hf]
    exact gramRefuse_refusesLoad s f
  have verified := imageVerified_sound hj hs hsig hsound
  refine ⟨fun hpart hdef => ⟨_, exec_imageVerifyDone, ?_⟩, fun hfull hfirst => ⟨_, exec_imageVerifyDone, ?_⟩,
    fun hfull hlater hcap => ⟨_, exec_imageVerifyDone, ?_⟩⟩
  · rw [verified, if_pos hpart, acceptPartial_defined hdef]
    simp [State.applying, State.modGram, hj]
  · rw [verified, if_neg (by simp [hfull]), applyFull_first hfirst]
    generalize ht : State.bringup _ _ = t
    have onlyBringsUp : OnlyBringsUp _ t := ht ▸ bringup_onlyBringsUp _ _
    refine ⟨by rw [onlyBringsUp]; rfl, by rw [onlyBringsUp]; exact hfirst, by rw [onlyBringsUp]; rfl, by rw [onlyBringsUp]; rfl, ?_,
      fun hr hb => ?_⟩
    · rw [onlyBringsUp]
      exact applying_job hj
    · have atOnce : t = State.beginBringup _ _ :=
        ht.symm.trans (bringup_atOnce (by rw [onlyBringsUp] at hr; exact hr) (onlyBringsUp.below500.symm.trans hb))
      rw [atOnce]
      exact ⟨by rw [beginBringup_gram]; rfl, fun n hn => trains_beginBringup _ (.inl hn)⟩
  · rw [verified, if_neg (by simp [hfull]), applyFull_later hlater hcap]
    have standing := replaceStructure_standing (s.applying (parseImage j.bytes)) (parseImage j.bytes) s.channelsInService
    have stopped := replaceStructure_stopsBackground (s.applying (parseImage j.bytes)) (parseImage j.bytes) s.channelsInService
    generalize State.replaceStructure _ _ _ = t at standing stopped ⊢
    have gram := congrArg Standing.gram standing
    have onlyBringsUp := bringup_onlyBringsUp t (parseImage j.bytes)
    refine ⟨?_, ?_, ?_, ?_, ?_, ?_⟩ <;> rw [onlyBringsUp]
    · exact congrArg Gram.state gram
    · exact congrArg Gram.mapped gram
    · exact congrArg Standing.srvState standing
    · exact congrArg Standing.ticking standing
    · exact congrArg Standing.tick standing
    · exact stopped

theorem Sys2Proof.Claims.partialImageCreatesPartition : Sys2Proof.Claims.PartialImageCreatesPartition := by
  intro j s hj hs himage hsig hsound hpart hnew hkeep hret
  refine ⟨_, exec_imageVerifyDone, ?_⟩
  obtain ⟨t, cores, share, ht, applied⟩ := applyPartial_new (s := s.applying (parseImage j.bytes)) hnew hkeep hret
  rw [imageVerified_sound hj hs hsig hsound, if_pos hpart, acceptPartial_new hnew, applied]
  simp only [partialInForce_gram, partialInForce_sec, partialInForce_sched, State.psched]
  refine ⟨rfl, rfl, rfl, rfl, rfl, rfl, ?_, ?_, Tbl.look_put_self .., ?_⟩
  · exact congrArg PartSched.cores (State.modPsched_psched_self ..)
  · have sec : t.sec = s.sec := by
      rw [ht]
      rfl
    exact congrArg (fun x : Sec => x.partialLog ++ [(parseImage j.bytes).digest]) sec
  · rw [partialInForce_eq, event_eq, ht]
    rfl

theorem Sys2Proof.Claims.returningCoreTested : Sys2Proof.Claims.ReturningCoreTested := by
  intro c k img s hj hn hrest
  have waits (pass : Bool) := coreTested_waits (pass := pass) hj hn hrest
  refine ⟨⟨_, exec_coreTestDone c k true, ?_⟩, ⟨_, exec_coreTestDone c k false, ?_⟩⟩
  · rw [waits, if_pos rfl]
    have core (x : CoreSt → CoreSt) (f : Gram → Gram) : ((s.modCore c k x).modGram f).core c k = x (s.core c k) :=
      State.modCore_core_self ..
    have others (x : CoreSt → CoreSt) (f : Gram → Gram) {n : Nat} (hne : n ≠ 12 * c + k) :
        ((s.modCore c k x).modGram f).cores.look {} n = s.cores.look {} n := Tbl.look_upd_other {} x s.cores hne
    exact ⟨rfl, (congrArg CoreSt.run (core _ _)).trans rfl, (congrArg CoreSt.localStore (core _ _)).trans rfl,
      (congrArg CoreSt.queues (core _ _)).trans rfl, (congrArg CoreSt.preds (core _ _)).trans rfl,
      (congrArg CoreSt.counters (core _ _)).trans rfl, (congrArg CoreSt.banks (core _ _)).trans rfl, fun n => others _ _⟩
  · rw [waits, if_neg Bool.false_ne_true]
    exact event_modGram rfl ..

/-- Settles O11, from what VERIFY's end does to an image, and what the test of a returning core does to the load. -/
theorem imageVerifiedAndPartitionMade : Obligations.ImageVerifiedAndPartitionMade :=
  ⟨Sys2Proof.Claims.imageVerifiedOrRefused, Sys2Proof.Claims.partialImageCreatesPartition, Sys2Proof.Claims.returningCoreTested⟩

end

/-! ## Stream ports bound and unbound: what BIND and UNBIND do (R77 to R79, R82, R92, R225) -/

section
namespace Sys2Proof.Machine

/-! ### BIND (R77 to R79, R225) -/

section
variable {s : State} {pid peer self f m p : Nat}

/-- What the peer of a producer port does as the port is bound: a bank-side intake notes it and grants it two credits (R225), the
serving controller's intake one (log entry 21). -/
def State.meetProducer (s : State) (pid peer self : Nat) : State :=
  match station peer with
  | .unit f m 0 => (s.modChan f m fun y => { y with intakeBound := y.intakeBound ++ [self] }).sendCredits pid peer self 2
  | .serving _ => s.sendCredit pid peer self
  | _ => s

theorem meetProducer_intake (h : station peer = .unit f m 0) : s.meetProducer pid peer self
    = (s.modChan f m fun y => { y with intakeBound := y.intakeBound ++ [self] }).sendCredits pid peer self 2 := by
  simp only [State.meetProducer, h]

theorem meetProducer_serving (h : station peer = .serving p) : s.meetProducer pid peer self = s.sendCredit pid peer self := by
  simp only [State.meetProducer, h]

theorem meetProducer_other (hunit : ∀ f m, station peer ≠ .unit f m 0) (hserving : ∀ p, station peer ≠ .serving p) :
    s.meetProducer pid peer self = s := by
  unfold State.meetProducer
  split
  · next h => exact absurd h (hunit _ _)
  · next h => exact absurd h (hserving _)
  · rfl

end

section
variable {x : Ctx} {n h : Nat} {release : Bool} {v : View} {s s1 t : State}

/-- A BIND's port, still unbound, may be bound with the noun read for it: the noun has a shape of R78, the partition may use the station
(R68), a flow is a stream of this port, and a bank-side intake has room for one more producer (R225). -/
structure MayBind (x : Ctx) (n : Nat) (noun : Noun) (s : State) : Prop where
  shape : bindShapeOk (bit x.v.mode 0) (x.v.imm % 65536) noun = true
  producer : ((s.core x.a.c x.a.k).port n).producer = false
  consumer : ((s.core x.a.c x.a.k).port n).consumer = false
  reach : s.reach x.a.pid (x.v.imm % 65536) = none
  flow : ∀ f m, station (x.v.imm % 65536) = .flow f m →
    (s.flow f m).stream = true ∧ (s.flow f m).local_ = coreStation x.a.c x.a.k + n
  intake : ∀ f m, station (x.v.imm % 65536) = .unit f m 0 → bit x.v.mode 0 = false → (s.chan f m).intakeBound.length < 64

/-- The state with a BIND's port bound: a consumer grants its peer a credit for each slot, a producer takes up the credits of its peer
that lie there, and its peer grants it some where it is an intake. -/
def State.bound (s : State) (x : Ctx) (n : Nat) (noun : Noun) : State :=
  let peer := x.v.imm % 65536
  let self := coreStation x.a.c x.a.k + n
  if bit x.v.mode 0 = true then
    (s.modCore x.a.c x.a.k fun y => y.modPort n fun _ => { consumer := true, peer := peer, noun := noun, queue := x.a.q }).sendCredits
      x.a.pid self peer (noun.ext (noun.rank - 1))
  else (s.meetProducer x.a.pid peer self).modCore x.a.c x.a.k fun y => y.modPort n fun _ =>
    { producer := true, peer := peer, noun := noun, queue := x.a.q
      credits := ((s.core x.a.c x.a.k).port n).credits.filter (·.1 == peer) }

theorem bound_consumer (h : bit x.v.mode 0 = true) : s.bound x n v.noun
    = (s.modCore x.a.c x.a.k fun y => y.modPort n fun _ =>
        { consumer := true, peer := x.v.imm % 65536, noun := v.noun, queue := x.a.q }).sendCredits
      x.a.pid (coreStation x.a.c x.a.k + n) (x.v.imm % 65536) (v.noun.ext (v.noun.rank - 1)) := if_pos h

theorem bound_producer (h : ¬ bit x.v.mode 0 = true) : s.bound x n v.noun
    = (s.meetProducer x.a.pid (x.v.imm % 65536) (coreStation x.a.c x.a.k + n)).modCore x.a.c x.a.k fun y => y.modPort n fun _ =>
      { producer := true, peer := x.v.imm % 65536, noun := v.noun, queue := x.a.q
        credits := ((s.core x.a.c x.a.k).port n).credits.filter (·.1 == x.v.imm % 65536) } := if_neg h

theorem bindBody_runs
    (hform : ({ dst := kPort, srca := kNoun, mode := 3, imm := 0xFFFF, ext := .no } : Form).ok x.a.q x.v = true)
    (hname : (s.entry x.a).badName = false) (hdst : parseOperand x.v.dst = .port n release)
    (hsrc : parseOperand x.v.srca = .noun h) (hstart : x.a.decode = false)
    (hnoun : Runs (useNoun x h 0 { written := bit x.v.mode 0 }) s v s1) (hbind : MayBind x n v.noun s1) :
    Runs (bindBody x) s true (s1.bound x n v.noun) := by
  obtain ⟨shape, producer, consumer, reach, flow, intake⟩ := hbind
  refine Runs.get.bind ((require_runs (by simp [hform, hname])).bind ?_)
  simp only [hdst, hsrc]
  refine hnoun.bind ((require_runs shape).bind ((decoded_runs hstart).bind (Runs.get.bind ?_)))
  simp only [State.bound, producer, consumer, reach, Bool.or_self, Bool.false_eq_true, if_false]
  cases hmode : bit x.v.mode 0
  case true =>
    split
    · next f m hpeer =>
      rw [if_neg (by simp [flow f m hpeer])]
      exact Runs.change.bind (Runs.change.bind .pure)
    · exact Runs.change.bind (Runs.change.bind .pure)
  case false =>
    split
    · next f m hpeer =>
      rw [if_neg (by simp [flow f m hpeer]), meetProducer_other (by simp [hpeer]) (by simp [hpeer])]
      simp only [hpeer]
      exact Runs.change.bind .pure
    · split
      · next f m _ hpeer =>
        rw [if_neg (Nat.not_le.2 (intake f m hpeer hmode)), meetProducer_intake hpeer]
        exact Runs.change.bind (Runs.change.bind .pure)
      · next hpeer =>
        rw [meetProducer_serving hpeer]
        exact Runs.change.bind (Runs.change.bind .pure)
      · next notIntake notServing =>
        rw [meetProducer_other (fun f m => notIntake f m rfl) fun p => notServing p rfl]
        exact Runs.change.bind .pure

end

/-! ### UNBIND (R82, R92) -/

section
variable {s : State} {peer self f m : Nat}

/-- A producer port that is unbound leaves the list of a bank-side intake it was bound to. -/
def State.leaveIntake (s : State) (peer self : Nat) : State :=
  match station peer with
  | .unit f m 0 => s.modChan f m fun y => { y with intakeBound := y.intakeBound.erase self }
  | _ => s

theorem leaveIntake_intake (h : station peer = .unit f m 0) :
    s.leaveIntake peer self = s.modChan f m fun y => { y with intakeBound := y.intakeBound.erase self } := by
  simp only [State.leaveIntake, h]

theorem leaveIntake_other (h : ∀ f m, station peer ≠ .unit f m 0) : s.leaveIntake peer self = s := by
  unfold State.leaveIntake
  split
  · next hpeer => exact absurd hpeer (h _ _)
  · rfl

end

section
variable {c k n : Nat} {s : State}

@[simp] theorem CoreSt.modPort_port_self (y : CoreSt) (f : Port → Port) : (y.modPort n f).port n = f (y.port n) := by
  simp [CoreSt.modPort, CoreSt.port]

/-- A consumer port has nothing under way: its revocation is answered, and no tile lands there or is sent to it. -/
def State.portQuiet (s : State) (c k n : Nat) : Bool :=
  !(((s.core c k).port n).revoking || ((s.core c k).port n).landing.isSome || s.tileTo (coreStation c k + n))

theorem portQuiet_iff : s.portQuiet c k n = true ↔ ((s.core c k).port n).revoking = false ∧ ((s.core c k).port n).landing = none
    ∧ s.tileTo (coreStation c k + n) = false := by
  simp [State.portQuiet, and_assoc]

/-- The state with the credits of a consumer port being revoked. -/
def State.revokes (s : State) (c k n : Nat) : State :=
  { (s.modCore c k fun y => y.modPort n fun p => { p with revoking := true }) with
    transit := s.transit ++ [.revoke (coreStation c k + n) ((s.core c k).port n).peer] }

theorem portQuiet_revokes : (s.revokes c k n).portQuiet c k n = false := by
  have core : (s.revokes c k n).core c k = (s.core c k).modPort n fun p => { p with revoking := true } :=
    State.modCore_core_self s c k fun y => y.modPort n fun p => { p with revoking := true }
  simp [State.portQuiet, core]

/-- The last part of an UNBIND of a consumer: the port is unbound once it is quiet. -/
theorem unbindQuiet_runs {quiet : Bool} (h : s.portQuiet c k n = quiet) :
    Runs (do
      let s ← get
      if ((s.core c k).port n).revoking || ((s.core c k).port n).landing.isSome || s.tileTo (coreStation c k + n) then pure false
      else do
        change fun s => s.modCore c k fun y => y.modPort n fun _ => {}
        pure true : VM Bool)
      s quiet (if quiet then s.modCore c k fun y => y.modPort n fun _ => {} else s) := by
  subst h
  refine Runs.get.bind ?_
  unfold State.portQuiet
  split
  · next h =>
    rw [h]
    exact .pure
  · next h =>
    rw [Bool.eq_false_iff.2 h]
    exact Runs.change.bind .pure

end

section
variable {x : Ctx} {n : Nat} {release : Bool} {p : Port} {s : State}
  (hform : ({ dst := kPort, ext := .no } : Form).ok x.a.q x.v = true) (hstart : x.a.decode = false)
  (hdst : parseOperand x.v.dst = .port n release) (hport : (s.core x.a.c x.a.k).port n = p)
include hform hstart hdst hport

theorem unbindBody_unbound (hc : p.consumer = false) (hp : p.producer = false) : Runs (unbindBody x) s true s := by
  simp only [unbindBody, hdst]
  refine (require_runs hform).bind ((decoded_runs hstart).bind (Runs.get.bind ?_))
  simp only [hport, hc, hp, Bool.or_self, Bool.false_and, Bool.false_eq_true, if_false]
  exact .pure

/-- Only the queue that the binding names may unbind a port (R92). -/
theorem unbindBody_otherQueue (hbound : p.consumer = true ∨ p.producer = true) (hq : p.queue ≠ x.a.q) :
    Halts (unbindBody x) s (.fault Code.streamMismatch) s := by
  simp only [unbindBody, hdst]
  refine (require_runs hform).bind_halts ((decoded_runs hstart).bind_halts (Runs.get.bind_halts ?_))
  rw [hport, if_pos (by simpa [hq] using hbound)]
  exact rfl

variable (hq : p.queue = x.a.q)
include hq

/-- A producer whose tiles have all been sent and taken is unbound, and keeps its credits (R82). -/
theorem unbindBody_sent (hc : p.consumer = false) (hp : p.producer = true) (hstaged : p.staged = []) (hunacked : p.unacked = []) :
    Runs (unbindBody x) s true ((s.modCore x.a.c x.a.k fun y => y.modPort n fun p => { credits := p.credits }).leaveIntake
      p.peer (coreStation x.a.c x.a.k + n)) := by
  simp only [unbindBody, hdst]
  refine (require_runs hform).bind ((decoded_runs hstart).bind (Runs.get.bind ?_))
  simp only [hport, hc, hp, hq, hstaged, hunacked, bne_self_eq_false, Bool.and_false, Bool.false_eq_true, if_false, if_true,
    List.isEmpty_nil, Bool.and_self]
  refine Runs.change.bind ?_
  split
  · next hpeer =>
    rw [leaveIntake_intake hpeer]
    exact Runs.change.bind .pure
  · next hpeer =>
    rw [leaveIntake_other hpeer]
    exact .pure

theorem unbindBody_unsent (hc : p.consumer = false) (hp : p.producer = true) (hleft : p.staged ≠ [] ∨ p.unacked ≠ []) :
    Runs (unbindBody x) s false s := by
  simp only [unbindBody, hdst]
  refine (require_runs hform).bind ((decoded_runs hstart).bind (Runs.get.bind ?_))
  simp only [hport, hc, hp, hq, bne_self_eq_false, Bool.and_false, Bool.false_eq_true, if_false, if_true]
  have unsent : ¬ (p.staged.isEmpty && p.unacked.isEmpty) = true := by
    rw [Bool.and_eq_true, List.isEmpty_iff, List.isEmpty_iff]
    rintro ⟨hstaged, hunacked⟩
    exact hleft.elim (· hstaged) (· hunacked)
  rw [if_neg unsent]
  exact .pure

/-- A consumer whose peer is on the device first revokes its credits (R82). -/
theorem unbindBody_revokes (hc : p.consumer = true) (hfirst : (s.entry x.a).phase ≠ .started)
    (hflow : ∀ f m, station p.peer ≠ .flow f m) (hxomon : ∀ m, station p.peer ≠ .xomon m) :
    Runs (unbindBody x) s false (s.revokes x.a.c x.a.k n) := by
  have goesOn := unbindQuiet_runs (portQuiet_revokes (s := s) (c := x.a.c) (k := x.a.k) (n := n))
  rw [State.revokes, hport] at goesOn
  simp only [unbindBody, hdst]
  refine (require_runs hform).bind ((decoded_runs hstart).bind (Runs.get.bind ?_))
  rw [State.revokes]
  simp only [hport, hc, hq, bne_self_eq_false, Bool.and_false, Bool.false_eq_true, if_false, if_true, bne_iff_ne, ne_eq, hfirst,
    not_false_eq_true]
  exact Runs.change.bind (Runs.change.bind goesOn)

/-- A consumer whose credits are revoked, or whose peer is not on the device, is unbound once it is quiet (R82). -/
theorem unbindBody_waits {quiet : Bool} (hc : p.consumer = true)
    (hwaits : (s.entry x.a).phase = .started ∨ (∃ f m, station p.peer = .flow f m) ∨ ∃ m, station p.peer = .xomon m)
    (hquiet : s.portQuiet x.a.c x.a.k n = quiet) :
    Runs (unbindBody x) s quiet (if quiet then s.modCore x.a.c x.a.k fun y => y.modPort n fun _ => {} else s) := by
  simp only [unbindBody, hdst]
  refine (require_runs hform).bind ((decoded_runs hstart).bind (Runs.get.bind ?_))
  simp only [hport, hc, hq, bne_self_eq_false, Bool.and_false, Bool.false_eq_true, if_false, if_true, bne_iff_ne, ne_eq]
  obtain hstarted | ⟨f, m, hpeer⟩ | ⟨m, hpeer⟩ := hwaits
  · rw [if_neg (not_not_intro hstarted)]
    exact unbindQuiet_runs hquiet
  · simp only [hpeer, ite_self]
    exact unbindQuiet_runs hquiet
  · simp only [hpeer, ite_self]
    exact unbindQuiet_runs hquiet

end

section
variable {c k : Nat} {q : Queue} {u : Upset} {s : State}

theorem exec_bind : exec (.bind ⟨c, k⟩ q u) s = .next (s.issue c k q (64 * queueNum q + 2) u bindBody) := rfl

theorem exec_unbind : exec (.unbind ⟨c, k⟩ q u) s = .next (s.issue c k q (64 * queueNum q + 3) u unbindBody) := rfl

end

end Sys2Proof.Machine
end

section
open Sys2Proof Sys2Proof.Machine

theorem Sys2Proof.Claims.bindPorts : Sys2Proof.Claims.BindPorts := by
  intro c k n h release q u e starts v s s1 hbegins hform hname hdst hsrc x consumer peer self p _ hnoun hshape hproducer hconsumer hreach
    hflow hintake
  have hbind : MayBind x n v.noun s1 := ⟨hshape, hproducer, hconsumer, hreach, hflow, hintake⟩
  refine ⟨_, exec_bind, ?_⟩
  rw [issue_done hbegins (bindBody_runs hform hname hdst hsrc rfl hnoun hbind)]
  split
  · next hmode => exact congrArg (State.done · x.a) (bound_consumer hmode)
  · next hmode => exact congrArg (State.done · x.a) (bound_producer hmode)

theorem Sys2Proof.Claims.unbindPorts : Sys2Proof.Claims.UnbindPorts := by
  intro c k n release q u e starts s hbegins hform hdst s0 a p self goesOn
  refine ⟨fun hc hp => ?_, fun hbound hq => ?_, fun hc hp hq hstaged hunacked => ?_, fun hc hp hq hleft => ?_,
    fun hc hq hfirst hflow hxomon => ?_, fun hc hq hwaits => ?_⟩
  · exact ⟨_, exec_unbind, issue_done hbegins (unbindBody_unbound hform rfl hdst rfl hc hp)⟩
  · exact ⟨_, exec_unbind, issue_faulted hbegins (unbindBody_otherQueue hform rfl hdst rfl hbound hq)⟩
  · refine ⟨_, exec_unbind, ?_⟩
    rw [issue_done hbegins (unbindBody_sent hform rfl hdst rfl hq hc hp hstaged hunacked), State.leaveIntake]
    rfl
  · exact ⟨_, exec_unbind, issue_started hbegins (unbindBody_unsent hform rfl hdst rfl hq hc hp hleft)⟩
  · exact ⟨_, exec_unbind, issue_started hbegins (unbindBody_revokes hform rfl hdst rfl hq hc hfirst hflow hxomon)⟩
  · refine ⟨_, exec_unbind, ?_⟩
    have ends {quiet : Bool} (hquiet : s0.portQuiet c k n = quiet) :=
      unbindBody_waits (x := ctxOf s c k q u e) (s := s0) hform rfl hdst rfl hq hc hwaits hquiet
    split
    · next hquiet => exact issue_done hbegins (ends (portQuiet_iff.2 hquiet))
    · next hquiet => exact issue_started hbegins (ends (Bool.eq_false_iff.2 (mt portQuiet_iff.1 hquiet)))

/-- Settles O19: the bodies of BIND and UNBIND run step by step. -/
theorem streamPortsBound : Obligations.StreamPortsBound := ⟨Sys2Proof.Claims.bindPorts, Sys2Proof.Claims.unbindPorts⟩

end

/-! ## Tile streams: tiles sent, tiles landed, and credits returned (R68, R69, R78 to R82, R104, R225, R299, R369) -/

section
namespace Sys2Proof.Machine

section
variable {s : State} {x source : Nat} {tile : List Byte} {ts rest : List Transit}

/-! ### What is on its way to a station -/

theorem mem_of_takeTile (h : takeTile x ts = some ((source, tile), rest)) : .tile source x tile ∈ ts := by
  fun_induction takeTile x ts generalizing rest with
  | case1 => cases h
  | case2 a b ts =>
    cases h
    exact List.mem_cons_self
  | case3 a y b ts hy ih =>
    obtain ⟨⟨_, r⟩, hr, hrest⟩ := Option.map_eq_some_iff.1 h
    cases hrest
    exact List.mem_cons_of_mem _ (ih hr)
  | case4 r ts _ ih =>
    obtain ⟨⟨_, r⟩, hr, hrest⟩ := Option.map_eq_some_iff.1 h
    cases hrest
    exact List.mem_cons_of_mem _ (ih hr)

theorem tileTo_of_mem (h : .tile source x tile ∈ s.transit) : s.tileTo x = true :=
  List.any_eq_true.2 ⟨_, h, beq_self_eq_true x⟩

/-- Companion memory sends a consumer no tile while one is on its way to it. -/
theorem xomonArrival_of_tileTo (h : s.tileTo x = true) : s.xomonArrival x = s := by
  unfold State.xomonArrival
  dsimp only
  split
  · rw [if_neg (by simp [h])]
  · rfl

theorem xomonArrival_of_takeTile (h : takeTile x s.transit = some ((source, tile), rest)) : s.xomonArrival x = s :=
  xomonArrival_of_tileTo (tileTo_of_mem (mem_of_takeTile h))

theorem xomonArrival_core {c k n m : Nat} {p : Port} (hx : station x = .core c k n) (hp : s.stationPort x = some p)
    (hpeer : station p.peer = .xomon m) (hc : p.consumer = true) (hup : s.linkUp = true) (hroom : p.arrived < p.slots)
    (hnone : s.tileTo x = false) : s.xomonArrival x
      = { (s.drawBytes p.tileBytes).2 with transit := s.transit ++ [.tile p.peer x (s.drawBytes p.tileBytes).1] } := by
  simp only [State.xomonArrival, hp, hx, hpeer, Option.getD_some, hc, hup, hroom, hnone, decide_true, Bool.and_self, Bool.not_false,
    if_true]
  rfl

/-! ### TILE_SEND -/

@[simp] theorem modStationPort_transit {f : Port → Port} : (s.modStationPort x f).transit = s.transit := by
  unfold State.modStationPort
  split
  case h_4 => split <;> rfl
  all_goals rfl

@[simp] theorem modStationPort_fab {f : Port → Port} : (s.modStationPort x f).fab = s.fab := by
  unfold State.modStationPort
  split
  case h_4 => split <;> rfl
  all_goals rfl

theorem modStationPort_flow {f : Port → Port} {m n : Nat} : (s.modStationPort x f).flow m n = s.flow m n := by
  rw [State.flow, State.port, modStationPort_fab]
  rfl

theorem tileSend_halted {p : Port} (hp : s.stationPort x = some p) (h : s.producerHalted x = true) : s.tileSend x = s := by
  simp only [State.tileSend, hp, h, if_true]

/-- The state with a producer's staged tiles replaced. -/
def State.unstaged (s : State) (x : Nat) (staged : List (Nat × List Byte)) : State :=
  s.modStationPort x fun p => { p with staged := staged }

/-- The state with a credit of its peer spent by a producer, whose owner's tile is on its way. -/
def State.creditSpent (s : State) (x owner : Nat) : State :=
  s.modStationPort x fun p => { p with credits := p.credits.upd 0 p.peer (· - 1), unacked := p.unacked ++ [owner] }

section
variable {p : Port} {owner : Nat} {staged : List (Nat × List Byte)} (hp : s.stationPort x = some p)
  (hstaged : p.staged = (owner, tile) :: staged) (hruns : s.producerHalted x = false)
include hp hstaged hruns

theorem tileSend_refused {st : Status} (h : ((s.stationPid x owner).bind fun pid => s.reach pid p.peer) = some st) :
    s.tileSend x = (s.unstaged x staged).producerFault x owner st := by
  simp only [State.tileSend, hp, hruns, Bool.false_eq_true, if_false, hstaged, h]
  rfl

variable (hreach : ((s.stationPid x owner).bind fun pid => s.reach pid p.peer) = none)
include hreach

theorem tileSend_xomon {n : Nat} (hpeer : station p.peer = .xomon n) :
    s.tileSend x = if s.linkUp then (s.unstaged x staged).xomonTile tile else s := by
  simp only [State.tileSend, hp, hruns, Bool.false_eq_true, if_false, hstaged, hreach, hpeer]
  rfl

theorem tileSend_noCredit (hpeer : ∀ n, station p.peer ≠ .xomon n) (h : p.credits.look 0 p.peer = 0) : s.tileSend x = s := by
  simp only [State.tileSend, hp, hruns, Bool.false_eq_true, if_false, hstaged, hreach, h, if_true]

variable (hcredit : p.credits.look 0 p.peer ≠ 0)
include hcredit

theorem tileSend_flow {f n : Nat} (hpeer : station p.peer = .flow f n) :
    s.tileSend x = (tilePackets (payloadBytes (s.flow f n).payload) tile).foldl (fun s k =>
      s.flowSend f n k { tag := owner, key := x }) ((s.unstaged x staged).creditSpent x owner) := by
  simp only [State.tileSend, hp, hruns, Bool.false_eq_true, if_false, hstaged, hreach, hpeer, hcredit, modStationPort_flow]
  rfl

theorem tileSend_transit (hflow : ∀ f n, station p.peer ≠ .flow f n) (hxomon : ∀ n, station p.peer ≠ .xomon n) :
    s.tileSend x = { (s.unstaged x staged).creditSpent x owner with transit := s.transit ++ [.tile x p.peer tile] } := by
  simp only [State.tileSend, hp, hruns, Bool.false_eq_true, if_false, hstaged, hreach, hcredit, modStationPort_transit]
  rfl

end

/-! ### TILE_ARRIVAL -/

section
variable {u : Upset} (htile : takeTile x s.transit = some ((source, tile), rest))
include htile

theorem tileArrival_core {c k n : Nat} (hx : station x = .core c k n) :
    s.tileArrival x u =
      let r := State.coreTile { s with transit := rest } c k n source tile u
      if r.1 then r.2 else { r.2 with transit := s.transit } := by
  simp only [State.tileArrival, xomonArrival_of_takeTile htile, htile, hx]

theorem tileArrival_unit {n ch p : Nat} (hx : station x = .unit n ch p) :
    s.tileArrival x u = State.unitTile { s with transit := rest } n ch p source tile := by
  simp only [State.tileArrival, xomonArrival_of_takeTile htile, htile, hx]

theorem tileArrival_serving {p : Nat} (hx : station x = .serving p) :
    s.tileArrival x u = State.resultTile { s with transit := rest } p source tile := by
  simp only [State.tileArrival, xomonArrival_of_takeTile htile, htile, hx]

end

theorem tileArrival_none {u : Upset} (htile : takeTile x s.transit = none) (hx : s.xomonArrival x = s) : s.tileArrival x u = s := by
  simp only [State.tileArrival, hx, htile]

section
variable {c k n : Nat} {u : Upset}

theorem coreTile_offline (h : (s.core c k).run = .offline) : s.coreTile c k n source tile u = (true, s.ackTile source) := if_pos h

theorem coreTile_mismatch (hrun : (s.core c k).run ≠ .offline) (h : ((s.core c k).port n).consumer = false
      ∨ ((s.core c k).port n).peer ≠ source ∨ tile.length ≠ ((s.core c k).port n).tileBytes) :
    s.coreTile c k n source tile u = (true, s.mismatch source) := by
  rw [State.coreTile, if_neg hrun, if_pos (by simpa [or_assoc] using h)]

/-- A tile of a consumer port's peer, and of the port's size, arrives at a core that is not offline (R78). -/
structure TileFits (s : State) (c k n source : Nat) (tile : List Byte) : Prop where
  online : (s.core c k).run ≠ .offline
  consumer : ((s.core c k).port n).consumer = true
  peer : ((s.core c k).port n).peer = source
  size : tile.length = ((s.core c k).port n).tileBytes

/-- The number by which the writes of a tile's landing are known. -/
def State.landingId (s : State) (c k n : Nat) : Nat := ((s.core c k).port n).landing.getD (s.core c k).disp.nextId

/-- The issuer of a tile's writes. -/
def State.landingIssuer (s : State) (c k n : Nat) (u : Upset) : Issuer :=
  { c := c, k := k, q := ((s.core c k).port n).queue, id := s.landingId c k n, pid := pidField (s.corePid c k), upset := u, direct := true }

/-- A tile lands: it is written to the port's next slot, unless it has been, and all its bytes are to reach their places. -/
def State.landing (s : State) (c k n : Nat) (tile : List Byte) (u : Upset) : VM Bool := do
  let p := (s.core c k).port n
  if p.landing.isNone then
    writeLines (s.landingIssuer c k n u) p.noun.path (p.tileLines tile)
    change fun t => t.modCore c k fun y =>
      { y.modPort n fun p => { p with landing := some (s.landingId c k n) } with disp := { y.disp with nextId := s.landingId c k n + 1 } }
  tileLanded (s.landingIssuer c k n u) p.noun.path

/-- The state in which a tile's landing is done: the errors its command brings stand in place. -/
def State.landingFrom (s : State) (c k : Nat) (u : Upset) : State := (s.strike u).modCore c k fun y => { y with trapAddr := 0 }

variable {s1 : State}

theorem coreTile_landed {landed : Bool} (hfits : TileFits s c k n source tile)
    (h : Runs (s.landing c k n tile u) (s.landingFrom c k u) landed s1) :
    s.coreTile c k n source tile u = if landed then
        (true, (s1.modCore c k fun y => y.modPort n fun p =>
          { p with fill := (p.fill + 1) % p.slots, arrived := p.arrived + 1, landing := none }).ackTile source)
      else (false, s1) := by
  obtain ⟨online, consumer, peer, size⟩ := hfits
  unfold Runs State.landing State.landingFrom State.landingIssuer State.landingId at h
  rw [State.coreTile, if_neg online, if_neg (by simp [consumer, peer, size])]
  dsimp only at h ⊢
  rw [h]
  cases landed <;> rfl

theorem coreTile_failed {st : Status} (hfits : TileFits s c k n source tile)
    (h : Halts (s.landing c k n tile u) (s.landingFrom c k u) (.fault st) s1) :
    ∃ t word bank addr, s.coreTile c k n source tile u
      = (true, State.queueFault t c k ((s.core c k).port n).queue word bank addr st) := by
  obtain ⟨online, consumer, peer, size⟩ := hfits
  unfold Halts State.landing State.landingFrom State.landingIssuer State.landingId at h
  rw [State.coreTile, if_neg online, if_neg (by simp [consumer, peer, size])]
  dsimp only at h ⊢
  rw [h]
  exact ⟨_, _, _, _, rfl⟩

end

theorem unitTile_intake {n ch : Nat} : s.unitTile n ch 0 source tile
    = if (s.chan n ch).intakeBound.contains source && tile.length == 128 then
        (s.modChan n ch fun c => { c with intake := c.intake ++ [(source, tile)] }).ackTile source
      else s.mismatch source := rfl

/-- A result tile of the port's serving core ends the work of the group it names, and its credit goes back (R299). -/
theorem resultTile_result {p : Nat} {g : Group} (hcore : bits (s.srv.ports.look {} p).peer 6 10 = bits source 6 10)
    (hsize : tile.length = 128)
    (hg : ((s.ackTile source).sendCredit (pidField (s.stationPid source 0)) (0xC000 + p) source).srv.groups.seek (leAt tile 0 4) = some g)
    (hport : g.port = p) :
    let s1 := (s.ackTile source).sendCredit (pidField (s.stationPid source 0)) (0xC000 + p) source
    ∃ table, s.resultTile p source tile = { s1 with srv := { s1.srv with
      groups := s1.srv.groups.put (leAt tile 0 4) { g with result := some (leAt tile 4 1) }, table := table } } := by
  simp only [State.resultTile, hcore, hsize, beq_self_eq_true, Bool.not_true, bne_self_eq_false, Bool.or_self, Bool.false_eq_true,
    if_false, hg, hport, if_true]
  exact ⟨_, rfl⟩

/-! ### Faults of queues (R104) -/

@[simp] theorem Quad.get_set {α : Type} (y : Quad α) (v : α) (q : Queue) : (y.set v q).get q = v := by cases q <;> rfl

section
variable {c k word bank addr : Nat} {q : Queue} {st : Status}

theorem modCluster_core {d : Nat} {f : Cluster → Cluster} : (s.modCluster d f).core c k = s.core c k := rfl

theorem event_core {cls pid d0 d1 : Nat} {o : Obs} : (s.event cls st o pid d0 d1).core c k = s.core c k := by
  simp only [State.core, State.event_cores]

/-- A core with a fault of a queue: QFAULT is written, and the queue halted. -/
def CoreSt.faults (y : CoreSt) (q : Queue) (f : QFault) : CoreSt :=
  { y with qfault := y.qfault.set f q, halted := y.halted.set true q, run := if y.run = .offline then .offline else .faulted }

/-- A queue's fault reaches the core as the MMAs stopped leave it; its interrupt and its event leave the core alone. -/
theorem queueFault_core : (s.queueFault c k q word bank addr st).core c k
    = ((if q = .m then s.stopMmas c k else s).core c k).faults q
        { status := st, word := word % 4096, bank := bank, valid := true } := by
  unfold State.queueFault
  dsimp only
  generalize (if q = .m then s.stopMmas c k else s) = t
  split
  · rw [event_core, modCluster_core, State.modCore_core_self, CoreSt.faults]
  · rw [modCluster_core, State.modCore_core_self, CoreSt.faults]

theorem queueFault_qfault : ((s.queueFault c k q word bank addr st).core c k).qfault.get q
    = { status := st, word := word % 4096, bank := bank, valid := true } := by
  rw [queueFault_core, CoreSt.faults, Quad.get_set]

theorem queueFault_halted : ((s.queueFault c k q word bank addr st).core c k).halted.get q = true := by
  rw [queueFault_core, CoreSt.faults, Quad.get_set]

end

/-! ### Credits -/

theorem grantCredit_other (hx : ∀ p, station x ≠ .serving p) : s.grantCredit x source = s.modStationPort x fun p =>
    if p.producer = false ∨ p.peer = source then { p with credits := p.credits.upd 0 source (· + 1) } else p := by
  unfold State.grantCredit
  split
  · next h => exact absurd h (hx _)
  · simp

theorem revokeCredits_core {c k n : Nat} (hx : station x = .core c k n) (hstaged : ((s.core c k).port n).staged = []) :
    s.revokeCredits x source = (s.modCore c k fun y => y.modPort n fun p =>
      { p with credits := p.credits.filter (·.1 != source) }).modStationPort source fun q => { q with revoking := false } := by
  simp [State.revokeCredits, State.stationPort, State.modStationPort, hx, hstaged]

/-- Credits of a consumer on their way before its revocation go with it (R82). -/
theorem takeRevoke_afterCredits {y : Nat} :
    takeRevoke y (.credit x y :: .credit x y :: .revoke x y :: ts) = some (x, ts) := by
  simp [takeRevoke]

theorem exec_tileSend : exec (.tileSend x) s = .next (s.tileSend x) := rfl

theorem exec_tileArrival {u : Upset} : exec (.tileArrival x u) s = .next (s.tileArrival x u) := rfl

theorem exec_creditArrival (h : takeCredit x s.transit = some (source, rest)) :
    exec (.creditArrival x) s = .next (State.grantCredit { s with transit := rest } x source) := by
  show execCreditArrival x s = _
  simp only [execCreditArrival, h]

theorem exec_creditArrival_none (h : takeCredit x s.transit = none) : exec (.creditArrival x) s = .next s := by
  show execCreditArrival x s = _
  simp only [execCreditArrival, h]

theorem exec_creditRevoke (h : takeRevoke x s.transit = some (source, rest)) :
    exec (.creditRevoke x) s = .next (State.revokeCredits { s with transit := rest } x source) := by
  show execCreditRevoke x s = _
  simp only [execCreditRevoke, h]

theorem exec_creditRevoke_none (h : takeRevoke x s.transit = none) : exec (.creditRevoke x) s = .next s := by
  show execCreditRevoke x s = _
  simp only [execCreditRevoke, h]

end

end Sys2Proof.Machine
end

section
open Sys2Proof Sys2Proof.Machine

theorem Sys2Proof.Claims.tilesLeave : Sys2Proof.Claims.TilesLeave := by
  intro x owner tile rest p s hp hstaged taken spent
  refine ⟨fun halted => ⟨_, exec_tileSend, tileSend_halted hp halted⟩, fun hruns => ⟨fun st h => ?_, fun hreach =>
    ⟨fun hxomon h => ?_, fun hcredit hflow hxomon => ?_, fun f n hcredit hpeer => ?_, fun n hpeer => ?_⟩⟩⟩
  · exact ⟨_, exec_tileSend, tileSend_refused hp hstaged hruns h⟩
  · exact ⟨_, exec_tileSend, tileSend_noCredit hp hstaged hruns hreach hxomon h⟩
  · exact ⟨_, exec_tileSend, tileSend_transit hp hstaged hruns hreach hcredit hflow hxomon⟩
  · exact ⟨_, exec_tileSend, tileSend_flow hp hstaged hruns hreach hcredit hpeer⟩
  · exact ⟨_, exec_tileSend, tileSend_xomon hp hstaged hruns hreach hpeer⟩

theorem Sys2Proof.Claims.tilesArrive : Sys2Proof.Claims.TilesArrive := by
  intro x source tile rest u s htile s0
  refine ⟨fun c k n hx => ?_, fun n ch hx => ⟨_, exec_tileArrival, ?_⟩, fun p g hx hcore hsize => ?_⟩
  · intro p id a landed from_
    refine ⟨fun offline => ⟨_, exec_tileArrival, ?_⟩, fun online h => ⟨_, exec_tileArrival, ?_⟩, fun online hc hpeer hsize => ?_⟩
    · rw [tileArrival_core htile hx, coreTile_offline (s := s0) offline]
      rfl
    · rw [tileArrival_core htile hx, coreTile_mismatch (s := s0) online h]
      rfl
    · have fits : TileFits s0 c k n source tile := ⟨online, hc, hpeer, hsize⟩
      refine ⟨fun done s1 h => ⟨_, exec_tileArrival, ?_⟩, fun st s1 h => ⟨_, exec_tileArrival, ?_⟩⟩
      · rw [tileArrival_core htile hx, coreTile_landed fits h]
        cases done <;> rfl
      · obtain ⟨t, word, bank, addr, fault⟩ := coreTile_failed (u := u) fits h
        have ends : s.tileArrival x u = t.queueFault c k p.queue word bank addr st := by
          rw [tileArrival_core htile hx, fault]
          rfl
        rw [ends, queueFault_qfault, queueFault_halted]
        exact ⟨rfl, rfl, rfl⟩
  · rw [tileArrival_unit htile hx, unitTile_intake]
    rfl
  · intro s1 hg hport
    obtain ⟨table, result⟩ := resultTile_result (s := s0) hcore hsize hg hport
    refine ⟨_, exec_tileArrival, ?_⟩
    rw [tileArrival_serving htile hx, result]
    exact ⟨Tbl.look_put_self .., rfl⟩

theorem Sys2Proof.Claims.creditsReturn : Sys2Proof.Claims.CreditsReturn := by
  refine ⟨fun x source rest s h hx => ⟨_, exec_creditArrival h, grantCredit_other hx⟩,
    fun c k n source rest s hx h hstaged => ⟨_, exec_creditRevoke h, revokeCredits_core hx hstaged⟩,
    fun x y ts => takeRevoke_afterCredits, fun x s => ⟨fun htile hx u => ?_, fun c k n m p hx hp hpeer hc hup hroom hnone => ?_,
      exec_creditArrival_none, exec_creditRevoke_none⟩⟩
  · rw [exec_tileArrival, tileArrival_none htile hx]
  · exact xomonArrival_core hx hp hpeer hc hup hroom hnone

/-- Settles O26: what each of the four commands does, by the station concerned and the peer bound. -/
theorem tilesAndCreditsTravel : Obligations.TilesAndCreditsTravel :=
  ⟨Sys2Proof.Claims.tilesLeave, Sys2Proof.Claims.tilesArrive, Sys2Proof.Claims.creditsReturn⟩

end

/-! ## Cores: faults of queues, loads of banks, the dispatcher, completion, and the common and scalar verbs (R84, R85, R91, R95 to R100,
R104, R105, R108 to R114, R180) -/

section
namespace Sys2Proof.Machine

section
variable {s : State} {c k word bank addr : Nat} {q : Queue} {st : Status}

/-! ### Faults of queues (R98, R104) -/

/-- The state with a queue of a core, other than M's, at fault: its register written, the queue halted, the control core interrupted. -/
def State.trapped (s : State) (c k : Nat) (q : Queue) (f : QFault) : State :=
  (s.modCore c k fun x => x.faults q f).modCluster c fun x => { x with irq := true }

/-- A fault of a queue other than M's traps it, and is recorded where CORE_CTL.EVENT is set. -/
theorem queueFault_eq (hq : q ≠ .m) : s.queueFault c k q word bank addr st =
    let t := s.trapped c k q { status := st, word := word % 4096, bank := bank, valid := true }
    if (s.core c k).event = true then
      t.event Cls.verb st (Obs.ofCore c k) (pidField (s.corePid c k)) (queueNum q + 4 * (word % 4096) + 0x4000 * bank) addr
    else t := by
  unfold State.queueFault
  rw [if_neg hq]
  dsimp only
  rw [modCluster_core, State.modCore_core_self]
  rfl

theorem queueFault_core_eq (hq : q ≠ .m) : (s.queueFault c k q word bank addr st).core c k
    = (s.core c k).faults q { status := st, word := word % 4096, bank := bank, valid := true } := by
  rw [queueFault_core, if_neg hq]

theorem queueFault_silent (hq : q ≠ .m) (h : (s.core c k).event = false) : s.queueFault c k q word bank addr st
    = s.trapped c k q { status := st, word := word % 4096, bank := bank, valid := true } := by
  rw [queueFault_eq hq]
  exact if_neg (Bool.eq_false_iff.1 h)

theorem queueFault_told (hq : q ≠ .m) (h : (s.core c k).event = true) : s.queueFault c k q word bank addr st
    = (s.trapped c k q { status := st, word := word % 4096, bank := bank, valid := true }).event Cls.verb st (Obs.ofCore c k)
        (pidField (s.corePid c k)) (queueNum q + 4 * (word % 4096) + 0x4000 * bank) addr := by
  rw [queueFault_eq hq]
  exact if_pos h

theorem queueFault_irq (hq : q ≠ .m) : ((s.queueFault c k q word bank addr st).cluster c).irq = true := by
  have trapped (f : QFault) : ((s.trapped c k q f).cluster c).irq = true := by
    rw [State.trapped, State.modCluster_cluster_self]
  cases told : (s.core c k).event with
  | false => rw [queueFault_silent hq told, trapped]
  | true => rw [queueFault_told hq told, State.cluster, State.event_clusters, ← State.cluster, trapped]

/-- A JOIN that waits with a limit set times out. -/
theorem exec_joinTimeout_waiting {e : QEntry} {rest : List QEntry} (present : s.corePresent c k = true)
    (sound : (s.core c k).halted.get q = false) (limit : (s.core c k).joinLimit ≠ 0) (hq : (s.core c k).queues.get q = e :: rest)
    (started : e.phase = .started) (hjoin : e.verb.isJoin = true) :
    exec (.joinTimeout c k q) s = .next (s.queueFault c k q e.word e.bank 0 Code.joinTimeout) := by
  show execJoinTimeout c k q s = _
  simp [execJoinTimeout, present, sound, limit, hq, started, hjoin]

theorem exec_joinTimeout_unlimited (limit : (s.core c k).joinLimit = 0) : exec (.joinTimeout c k q) s = .next s := by
  show execJoinTimeout c k q s = _
  simp [execJoinTimeout, limit]

end

end Sys2Proof.Machine
end

section
open Sys2Proof Sys2Proof.Machine

theorem Sys2Proof.Claims.queueFaults : Sys2Proof.Claims.QueueFaults := by
  intro c k word bank addr q st s hq t
  refine ⟨queueFault_core_eq hq, queueFault_irq hq, fun silent => ?_, fun told => ?_⟩
  · rw [show t = _ from queueFault_silent hq silent]
    rfl
  · rw [show t = _ from queueFault_told hq told, State.event_cores, State.event_clusters]
    rfl

theorem Sys2Proof.Claims.joinTimesOut : Sys2Proof.Claims.JoinTimesOut := by
  refine ⟨fun c k q e rest s present sound limit hqueue started hjoin hq =>
    ⟨_, exec_joinTimeout_waiting present sound limit hqueue started hjoin, rfl, ?_⟩,
    fun c k q s limit => exec_joinTimeout_unlimited limit⟩
  rw [queueFault_core_eq hq]
  exact ⟨rfl, rfl⟩

/-- Settles O15, from what a fault of a queue writes, and the JOINs that JOIN_TIMEOUT faults. -/
theorem queuesFault : Obligations.QueuesFault := ⟨Sys2Proof.Claims.queueFaults, Sys2Proof.Claims.joinTimesOut⟩

end

section
namespace Sys2Proof.Machine

section
variable {s t r : State} {c k : Nat}

/-! ### What one core's change leaves alone -/

/-- From `s` to `t` at most one core has changed. -/
def OnlyCore (c k : Nat) (s t : State) : Prop :=
  t = { s with cores := t.cores } ∧ ∀ n, n ≠ 12 * c + k → t.cores.look {} n = s.cores.look {} n

theorem OnlyCore.refl (s : State) : OnlyCore c k s s := ⟨rfl, fun _ _ => rfl⟩

theorem OnlyCore.trans (h : OnlyCore c k s t) (h' : OnlyCore c k t r) : OnlyCore c k s r := by
  obtain ⟨eq, other⟩ := h
  obtain ⟨eq', other'⟩ := h'
  refine ⟨?_, fun n hn => (other' n hn).trans (other n hn)⟩
  rw [eq] at eq'
  exact eq'

theorem modCore_onlyCore (s : State) (f : CoreSt → CoreSt) : OnlyCore c k s (s.modCore c k f) :=
  ⟨rfl, fun _ hn => Tbl.look_upd_other {} f _ hn⟩

/-! ### Banks of a core -/

theorem bankOf_modBank_self (x : CoreSt) (b : Nat) (f : IBank → IBank) : (x.modBank b f).bankOf b = f (x.bankOf b) := by
  unfold CoreSt.modBank CoreSt.bankOf
  split <;> rfl

theorem modBank_queues (x : CoreSt) (b : Nat) (f : IBank → IBank) : (x.modBank b f).queues = x.queues := by
  unfold CoreSt.modBank
  split <;> rfl

theorem modBank_disp (x : CoreSt) (b : Nat) (f : IBank → IBank) : (x.modBank b f).disp = x.disp := by
  unfold CoreSt.modBank
  split <;> rfl

/-- A dispatcher at an entry of a bank that is READY. -/
def Dispatcher.entering (d : Dispatcher) (bank entry : Nat) : Dispatcher :=
  { d with fetching := true, pos := entry, bank := bank, stall := .none, fetched := bank }

theorem goTo_ready {bank entry : Nat} (h : ((s.core c k).bankOf bank).state = .ready) :
    s.goTo c k bank entry = s.modCore c k fun x => { x with disp := x.disp.entering bank entry } := by
  unfold State.goTo
  dsimp only
  rw [h]
  rfl

/-! ### The end of a bank's load (R108, R109, R111) -/

/-- A bank as the end of its load leaves it. -/
def IBank.loaded (b : IBank) : ClauseResult → IBank
  | .failed st n => { b with state := .failed, status := st, name := n % 256 }
  | .ready ws ns => { b with state := .ready, status := Code.ok, name := 0, words := ws, names := ns }

/-- The state with a digest accepted, where there is one. -/
def State.acceptDigest (s : State) : Option (List Byte) → State
  | none => s
  | some d => { s with sec := s.sec.acceptClause d }

theorem acceptDigest_core (d : Option (List Byte)) : (s.acceptDigest d).core c k = s.core c k := by
  cases d <;> rfl

section
variable {bank : Nat} {res : ClauseResult}

/-- The state with a bank's load at its end, the dispatcher as it was. -/
def State.bankLoaded (s : State) (c k bank : Nat) (res : ClauseResult) : State :=
  s.modCore c k fun x => x.modBank bank fun b => b.loaded res

theorem bankLoaded_core : (s.bankLoaded c k bank res).core c k = (s.core c k).modBank bank fun b => b.loaded res :=
  State.modCore_core_self ..

/-- A dispatcher once a bank is READY: at its entry where it waits for that bank. -/
def Dispatcher.resumed (d : Dispatcher) (bank : Nat) : Dispatcher :=
  match d.stall with
  | .bankLoad b entry => if b = bank then d.entering b entry else d
  | _ => d

theorem resumed_unstalled {d : Dispatcher} (h : d.stall = .none) : d.resumed bank = d := by
  unfold Dispatcher.resumed
  rw [h]

theorem resumed_awaited {d : Dispatcher} {entry : Nat} (h : d.stall = .bankLoad bank entry) :
    d.resumed bank = d.entering bank entry := by
  unfold Dispatcher.resumed
  rw [h]
  exact if_pos rfl

theorem endLoad_eq : s.endLoad c k bank res = match (s.core c k).disp.stall with
    | .bankLoad b entry => if b = bank then (s.bankLoaded c k bank res).goTo c k b entry else s.bankLoaded c k bank res
    | _ => s.bankLoaded c k bank res := by
  have disp : ((s.bankLoaded c k bank res).core c k).disp = (s.core c k).disp := by rw [bankLoaded_core, modBank_disp]
  rw [← disp]
  cases res <;> rfl

theorem endLoad_unstalled (h : (s.core c k).disp.stall = .none) : s.endLoad c k bank res = s.bankLoaded c k bank res := by
  rw [endLoad_eq, h]

/-- A load that ends READY changes its bank, and the dispatcher where it waits for that bank. -/
theorem endLoad_ready (s : State) (c k bank : Nat) (ws : List (List Byte)) (ns : List Nat) :
    OnlyCore c k s (s.endLoad c k bank (.ready ws ns))
    ∧ (s.endLoad c k bank (.ready ws ns)).core c k
        = { (s.core c k).modBank bank (·.loaded (.ready ws ns)) with disp := (s.core c k).disp.resumed bank } := by
  have only : OnlyCore c k s (s.bankLoaded c k bank (.ready ws ns)) := modCore_onlyCore s _
  have kept : (s.bankLoaded c k bank (.ready ws ns)).core c k
      = { (s.core c k).modBank bank (·.loaded (.ready ws ns)) with disp := (s.core c k).disp } := by
    rw [bankLoaded_core, ← modBank_disp (s.core c k) bank (·.loaded (.ready ws ns))]
  unfold Dispatcher.resumed
  rw [endLoad_eq]
  split
  · split
    · next b entry _ hb =>
      subst hb
      rw [goTo_ready (by rw [bankLoaded_core, bankOf_modBank_self]; rfl), State.modCore_core_self, kept]
      exact ⟨only.trans (modCore_onlyCore _ _), rfl⟩
    · exact ⟨only, kept⟩
  · exact ⟨only, kept⟩

/-- A clause image read whole is judged, its digest accepted where the judgement says so, and the load ends. -/
theorem exec_clauseLoadDone_read {u : Upset} {bytes : List Byte} {s1 : State} {d : Option (List Byte)}
    (present : s.corePresent c k = true) (hbank : bank < 2) (loading : ((s.core c k).bankOf bank).state = .loading)
    (hread : (s.strike u).readClause c k ((s.core c k).bankOf bank).jobSrc ((s.core c k).bankOf bank).jobLen = (.ok bytes, s1))
    (judged : s1.judgeClause c ((s.core c k).bankOf bank).jobLen bytes = (res, d)) :
    exec (.clauseLoadDone c k bank u) s = .next ((s1.acceptDigest d).endLoad c k bank res) := by
  show execClauseLoadDone c k bank u s = _
  simp only [execClauseLoadDone, Nat.mod_eq_of_lt hbank, present, loading, hread, judged]
  cases d <;> rfl

end

/-! ### The dispatcher (R84, R110) -/

/-- The dispatcher of a core fetches and is not stalled, in a cluster that nothing stops and whose power domains are on. -/
structure Dispatches (s : State) (c k : Nat) : Prop where
  present : s.corePresent c k = true
  online : (s.core c k).run ≠ .offline
  fetching : (s.core c k).disp.fetching = true
  unstalled : (s.core c k).disp.stall = .none
  free : s.clusterStopped c = false
  cluster : s.domainReady c = true
  cache : s.domainReady (16 + c) = true

/-- The bank a core's dispatcher fetches from. -/
def CoreSt.fetchBank (x : CoreSt) : IBank := x.bankOf x.disp.bank

/-- The verb at a core's fetch position. -/
def CoreSt.fetched (x : CoreSt) : Verb := parseVerb (x.fetchBank.word x.disp.pos) (x.fetchBank.word (x.disp.pos + 1))

section
variable (h : Dispatches s c k)
include h

theorem exec_verbDispatch_places (placeable : (s.core c k).fetchBank.placeable (s.core c k).disp.pos = true)
    (room : ((s.core c k).queues.get (queueOf (s.core c k).fetched.opcode)).length < 32) : exec (.verbDispatch c k .none) s
      = .next (s.place c k (nameIn (s.core c k).fetchBank (s.core c k).fetched).1
          (nameIn (s.core c k).fetchBank (s.core c k).fetched).2) := by
  obtain ⟨present, online, fetching, unstalled, free, cluster, cache⟩ := h
  unfold CoreSt.fetched CoreSt.fetchBank at *
  show execVerbDispatch c k .none s = _
  simp [execVerbDispatch, present, online, fetching, unstalled, free, cluster, cache, placeable, Nat.not_le.2 room]

theorem exec_verbDispatch_full (placeable : (s.core c k).fetchBank.placeable (s.core c k).disp.pos = true)
    (full : 32 ≤ ((s.core c k).queues.get (queueOf (s.core c k).fetched.opcode)).length) :
    exec (.verbDispatch c k .none) s = .next s := by
  obtain ⟨present, online, fetching, unstalled, free, cluster, cache⟩ := h
  unfold CoreSt.fetched CoreSt.fetchBank at *
  show execVerbDispatch c k .none s = _
  simp [execVerbDispatch, present, online, fetching, unstalled, free, cluster, cache, placeable, full]

theorem exec_verbDispatch_invalid (unplaceable : (s.core c k).fetchBank.placeable (s.core c k).disp.pos = false) :
    exec (.verbDispatch c k .none) s
      = .next ((s.stopFetch c k).queueFault c k .s (s.core c k).disp.pos (s.core c k).disp.bank 0 Code.verbInvalid) := by
  obtain ⟨present, online, fetching, unstalled, free, cluster, cache⟩ := h
  unfold CoreSt.fetchBank at unplaceable
  show execVerbDispatch c k .none s = _
  simp [execVerbDispatch, present, online, fetching, unstalled, free, cluster, cache, unplaceable]

end

/-- The name table changes what a verb names, not the queue it goes to. -/
theorem nameIn_opcode (b : IBank) (v : Verb) : (nameIn b v).1.opcode = v.opcode := by
  unfold nameIn
  split
  · split <;> rfl
  · rfl

theorem place_core (v : Verb) (badName : Bool) : (s.place c k v badName).core c k = { s.core c k with
    queues := (s.core c k).queues.set ((s.core c k).queues.get (queueOf v.opcode)
      ++ [{ verb := v, word := (s.core c k).disp.pos, bank := (s.core c k).disp.bank, badName := badName,
            id := (s.core c k).disp.nextId }]) (queueOf v.opcode)
    disp := { (s.core c k).disp with
      pos := (s.core c k).disp.pos + (if v.ext then 2 else 1), nextId := (s.core c k).disp.nextId + 1
      stall := if v.opcode = 0x8D then .jump else if v.opcode = 0x8F then .clauseEnd else .none } } :=
  State.modCore_core_self ..

end

end Sys2Proof.Machine
end

section
open Sys2Proof Sys2Proof.Machine

theorem Sys2Proof.Claims.clauseLoadEnds : Sys2Proof.Claims.ClauseLoadEnds := by
  intro c k bank u bytes s s1 present hbank loading hread
  refine ⟨fun ws ns d judged => ⟨_, exec_clauseLoadDone_read present hbank loading hread judged, ?_⟩,
    fun st n d judged unstalled => ⟨_, exec_clauseLoadDone_read present hbank loading hread judged, ?_⟩⟩
  · obtain ⟨⟨frame, -⟩, core⟩ := endLoad_ready (s1.acceptDigest (some d)) c k bank ws ns
    rw [acceptDigest_core] at core
    rw [core]
    refine ⟨frame, bankOf_modBank_self .., modBank_queues .., fun unstalled => resumed_unstalled unstalled,
      fun entry awaited => resumed_awaited awaited⟩
  · have accepted := acceptDigest_core (s := s1) (c := c) (k := k) d
    have core : ((s1.acceptDigest d).bankLoaded c k bank (.failed st n)).core c k
        = (s1.core c k).modBank bank (·.loaded (.failed st n)) := by rw [bankLoaded_core, accepted]
    rw [endLoad_unstalled (by rw [accepted, unstalled])]
    refine ⟨?_, by rw [core, bankOf_modBank_self]; rfl, by rw [core, modBank_disp]⟩
    cases d <;> rfl

theorem Sys2Proof.Claims.verbIsPlaced : Sys2Proof.Claims.VerbIsPlaced := by
  intro c k s present online fetching unstalled free cluster cache d b v q
  have dispatches : Dispatches s c k := ⟨present, online, fetching, unstalled, free, cluster, cache⟩
  refine ⟨fun placeable room => ?_, fun placeable full => exec_verbDispatch_full dispatches placeable full, fun unplaceable => ?_⟩
  · obtain ⟨frame, others⟩ := modCore_onlyCore (c := c) (k := k) s _
    refine ⟨_, exec_verbDispatch_places dispatches placeable room, frame, others, ?_⟩
    rw [place_core, nameIn_opcode]
    refine ⟨⟨_, rfl, rfl, rfl, rfl, rfl, rfl, rfl⟩, ?_⟩
    rw [← nameIn_opcode b]
    rfl
  · have core : ((s.stopFetch c k).queueFault c k .s d.pos d.bank 0 Code.verbInvalid).core c k = _ :=
      queueFault_core_eq (by decide)
    rw [State.stopFetch, State.modCore_core_self] at core
    refine ⟨_, exec_verbDispatch_invalid dispatches unplaceable, ?_⟩
    refine ⟨congrArg (·.qfault.s) core, (congrArg (·.run) core).trans (if_neg online), congrArg (·.halted.s) core,
      congrArg (·.disp.fetching) core, queueFault_irq (by decide)⟩

/-- Settles O14: a load's end, by what the judgement of the image read makes of the bank; a verb's placing, by the fetch position. -/
theorem clauseBanksDispatch : Obligations.ClauseBanksDispatch := ⟨Sys2Proof.Claims.clauseLoadEnds, Sys2Proof.Claims.verbIsPlaced⟩

end

section
namespace Sys2Proof.Machine

section
variable {s t r : State} {c k : Nat} {q : Queue} {e : QEntry}

/-! ### Signals (R96, R98) -/

/-- The counts a verb of a queue signals as it completes. -/
def Verb.targets (v : Verb) (q : Queue) : List Nat := (bitsSet 4 v.signal).map fun p => 4 * queueNum q + p

theorem targets_nodup (v : Verb) (q : Queue) : (v.targets q).Nodup :=
  List.Pairwise.map _ (fun _ _ apart same => apart (Nat.add_left_cancel same)) (List.Pairwise.filter _ List.nodup_range)

theorem mem_targets {v : Verb} {p : Nat} : 4 * queueNum q + p ∈ v.targets q ↔ p < 4 ∧ bit v.signal p = true := by
  simp [Verb.targets, bitsSet]

/-- Counts below their limit rise by one each, and none overflows. -/
theorem foldl_raiseSignal {targets : List Nat} (nodup : targets.Nodup) : ∀ signals : Tbl Nat,
    (∀ i ∈ targets, signals.look 0 i ≠ 255) → (targets.foldl raiseSignal (signals, false)).2 = false
      ∧ ∀ i, (targets.foldl raiseSignal (signals, false)).1.look 0 i = signals.look 0 i + b2n (decide (i ∈ targets)) := by
  induction targets with
  | nil => exact fun signals _ => ⟨rfl, fun i => rfl⟩
  | cons j targets ih =>
    intro signals room
    obtain ⟨fresh, nodup⟩ := List.nodup_cons.1 nodup
    have raised : raiseSignal (signals, false) j = (signals.upd 0 j (· + 1), false) := if_neg (room j List.mem_cons_self)
    have kept (i : Nat) (hi : i ∈ targets) : (signals.upd 0 j (· + 1)).look 0 i = signals.look 0 i :=
      Tbl.look_upd_other 0 _ _ fun h => fresh (h ▸ hi)
    obtain ⟨silent, counts⟩ := ih nodup (signals.upd 0 j (· + 1)) fun i hi => by
      rw [kept i hi]
      exact room i (List.mem_cons_of_mem _ hi)
    rw [List.foldl_cons, raised]
    refine ⟨silent, fun i => ?_⟩
    rw [counts, Tbl.look_upd]
    by_cases hi : i = j
    · subst hi
      simp [fresh, b2n]
    · simp [hi]

/-! ### Completion (R85, R92, R110) -/

/-- The verb at the front of a queue has finished its work, with nothing of it outstanding, unanswered or to be given back, on a core
that is there, online and not halted. -/
structure FrontDone (s : State) (c k : Nat) (q : Queue) (e : QEntry) (rest : List QEntry) : Prop where
  present : s.corePresent c k = true
  online : (s.core c k).run ≠ .offline
  sound : (s.core c k).halted.get q = false
  front : (s.core c k).queues.get q = e :: rest
  done : e.phase = .done
  releases : e.releases = []
  performed : s.outstanding (issuerOf s c k q {} e) = false
  answered : ∀ w ∈ s.answers, ¬ (w.1 = (issuerOf s c k q {} e).writer ∧ w.2.1 = e.id)

/-- A verb to which no base die has answered takes nothing up. -/
theorem takeAnswers_none {x : Ctx} (h : ∀ w ∈ s.answers, ¬ (w.1 = x.a.writer ∧ w.2.1 = x.a.id)) : Runs (takeAnswers x) s () s := by
  have notMine (w) (hw : w ∈ s.answers) : (w.1 == x.a.writer && w.2.1 == x.a.id) = false :=
    Bool.eq_false_iff.2 fun mine => h w hw (by simpa only [Bool.and_eq_true, beq_iff_eq] using mine)
  have none_mine : (s.answers.filter fun w => w.1 == x.a.writer && w.2.1 == x.a.id) = [] :=
    List.filter_eq_nil_iff.2 fun w hw => Bool.eq_false_iff.1 (notMine w hw)
  have all_kept : (s.answers.filter fun w => !(w.1 == x.a.writer && w.2.1 == x.a.id)) = s.answers :=
    List.filter_eq_self.2 fun w hw => by rw [notMine w hw, Bool.not_false]
  have kept := Runs.change (g := fun t : State => { t with answers := t.answers.filter fun w => !(w.1 == x.a.writer && w.2.1 == x.a.id) })
    (s := s)
  rw [all_kept] at kept
  refine Runs.get.bind ?_
  simp only [none_mine, List.find?_nil]
  exact kept

/-- The state in which a verb completes: its command clears the trap address. -/
def State.untrapped (s : State) (c k : Nat) : State := s.modCore c k fun y => { y with trapAddr := 0 }

theorem exec_verbComplete_done {rest : List QEntry} (h : FrontDone s c k q e rest) :
    exec (.verbComplete c k q) s = .next ((s.untrapped c k).finish c k q e) := by
  obtain ⟨present, online, sound, front, done, releases, performed, answered⟩ := h
  have taken : Runs (takeAnswers (ctxOf s c k q {} e)) (s.untrapped c k) () (s.untrapped c k) := takeAnswers_none answered
  unfold Runs ctxOf issuerOf State.untrapped at taken
  unfold issuerOf at performed
  have credited : (s.untrapped c k).creditNak c k e = none := by
    rw [State.creditNak, releases]
    rfl
  unfold State.untrapped at credited
  show execVerbComplete c k q s = _
  simp [execVerbComplete, present, online, sound, front, done, performed, taken, credited, State.untrapped]

theorem exec_verbComplete_started {rest : List QEntry} (front : (s.core c k).queues.get q = e :: rest) (started : e.phase = .started) :
    exec (.verbComplete c k q) s = .next s := by
  show execVerbComplete c k q s = _
  simp [execVerbComplete, front, started]

/-! ### What a completing verb leaves (R85, R96, R110) -/

/-- A completion touches its core, its partition's account, the free values and the atomics that have not completed. -/
def OnlyCompletes (c k : Nat) (s t : State) : Prop :=
  t = { s with cores := t.cores, sched := { s.sched with parts := t.sched.parts }, fresh := t.fresh, recent := t.recent }
    ∧ ∀ n, n ≠ 12 * c + k → t.cores.look {} n = s.cores.look {} n

theorem OnlyCompletes.trans (h : OnlyCompletes c k s t) (h' : OnlyCompletes c k t r) : OnlyCompletes c k s r := by
  obtain ⟨eq, other⟩ := h
  obtain ⟨eq', other'⟩ := h'
  refine ⟨?_, fun n hn => (other' n hn).trans (other n hn)⟩
  rw [eq] at eq'
  exact eq'

theorem modCore_onlyCompletes (s : State) (f : CoreSt → CoreSt) : OnlyCompletes c k s (s.modCore c k f) :=
  ⟨rfl, (modCore_onlyCore s f).2⟩

theorem charge_onlyCompletes (s : State) (q : Queue) : OnlyCompletes c k s (s.charge c k q) := by
  unfold State.charge
  split <;> exact ⟨rfl, fun _ _ => rfl⟩

theorem charge_core : (s.charge c k q).core c k = s.core c k := by
  unfold State.charge
  split <;> rfl

theorem settle_eq (x : CoreSt) : x.settle = { x with run := x.settle.run } := by
  unfold CoreSt.settle
  split
  · split <;> rfl
  · rfl

theorem queues_empty_iff {y : Quad (List QEntry)} :
    (y.m.isEmpty && y.v.isEmpty && y.s.isEmpty && y.d.isEmpty) = true ↔ y = ⟨[], [], [], []⟩ := by
  obtain ⟨m, v, s, d⟩ := y
  simp [and_assoc]

/-- A core that runs and whose dispatcher has stopped drains, and is quiescent once its queues are empty. -/
theorem settle_run {x : CoreSt} (stopped : x.disp.fetching = false) (running : x.run = .running) :
    x.settle.run = if x.queues = ⟨[], [], [], []⟩ then .quiescent else .draining := by
  unfold CoreSt.settle
  rw [if_pos (by simp [stopped, running]), apply_ite CoreSt.run]
  exact ite_congr (propext queues_empty_iff) (fun _ => rfl) fun _ => rfl

/-- The core with the front verb of a queue gone, and what it signals risen. -/
def CoreSt.leaves (x : CoreSt) (q : Queue) (e : QEntry) : CoreSt :=
  { x with signals := ((e.verb.targets q).foldl raiseSignal (x.signals, false)).1, queues := x.queues.set ((x.queues.get q).drop 1) q }

/-- The state with the front verb of a queue gone: its signals have risen, and its atomic has completed. -/
def State.left (s : State) (c k : Nat) (q : Queue) (e : QEntry) : State :=
  { s.modCore c k fun x => x.leaves q e with
    recent := s.recent.filter fun r => !(r.writer == Writer.verb c k q && r.tag == e.id) }

theorem left_core : (s.left c k q e).core c k = (s.core c k).leaves q e :=
  State.modCore_core_self s c k fun x => x.leaves q e

theorem left_onlyCompletes : OnlyCompletes c k s (s.left c k q e) := ⟨rfl, (modCore_onlyCore s fun x => x.leaves q e).2⟩

/-- A verb that gives nothing back and whose signals do not overflow completes: it leaves its queue, a scalar verb has its effect on the
dispatcher, and its cycles are charged if it ran. -/
theorem finish_eq (releases : e.releases = [])
    (room : ((e.verb.targets q).foldl raiseSignal ((s.core c k).signals, false)).2 = false) :
    s.finish c k q e =
      let t := if q = .s then (s.left c k q e).scalarEffect c k e else s.left c k q e
      (if e.taken ≥ 1 then t.charge c k q else t).modCore c k CoreSt.settle := by
  unfold Verb.targets at room
  unfold State.finish
  simp only [room, releases]
  rfl

/-- The core once a verb has completed. -/
theorem finish_core {y : CoreSt} (releases : e.releases = [])
    (room : ((e.verb.targets q).foldl raiseSignal ((s.core c k).signals, false)).2 = false)
    (effect : (if q = .s then (s.left c k q e).scalarEffect c k e else s.left c k q e).core c k = y) :
    (s.finish c k q e).core c k = y.settle := by
  rw [finish_eq releases room, State.modCore_core_self]
  split
  · rw [charge_core, effect]
  · rw [effect]

theorem finish_onlyCompletes (hq : q ≠ .s) (releases : e.releases = [])
    (room : ((e.verb.targets q).foldl raiseSignal ((s.core c k).signals, false)).2 = false) :
    OnlyCompletes c k s (s.finish c k q e) := by
  rw [finish_eq releases room]
  dsimp only
  rw [if_neg hq]
  refine OnlyCompletes.trans ?_ (modCore_onlyCompletes _ _)
  split
  · exact left_onlyCompletes.trans (charge_onlyCompletes _ q)
  · exact left_onlyCompletes

/-! ### What a scalar verb does to the dispatcher as it completes (R100, R110, R114) -/

theorem scalarEffect_sjmp (h : e.verb.opcode = 0x8D) : s.scalarEffect c k e = s.modCore c k fun x =>
    { x with disp := { x.disp with stall := .none, pos := if e.taken = 1 then e.verb.imm % 4096 else x.disp.pos } } := by
  unfold State.scalarEffect
  rw [h]
  simp

theorem scalarEffect_swap (h : e.verb.opcode = 0x8E) : s.scalarEffect c k e = if e.taken = 1 then
    s.modCore c k fun x => { x with disp := { x.disp with swap := some (e.verb.imm % 4096) } } else s := by
  unfold State.scalarEffect
  rw [h]
  simp

theorem scalarEffect_end (h : e.verb.opcode = 0x8F) (taken : e.taken = 1) : s.scalarEffect c k e = s.boundary c k := by
  unfold State.scalarEffect
  rw [h, taken]
  rfl

theorem boundary_stopped (stop : (s.core c k).disp.stop = true) : s.boundary c k = s.modCore c k fun x =>
    { x with nextValid := false
             disp := { (s.core c k).disp with fetching := false, stall := .none, stop := false, swap := none } } := by
  unfold State.boundary
  exact if_pos stop

/-- At a boundary with nothing but CORE_NEXT to follow, and its bank READY, the dispatcher goes on there. -/
theorem boundary_next_core (stop : (s.core c k).disp.stop = false) (swap : (s.core c k).disp.swap = none)
    (valid : (s.core c k).nextValid = true) (ready : ((s.core c k).bankOf (s.core c k).nextBank).state = .ready) :
    (s.boundary c k).core c k = { s.core c k with
      nextValid := false
      disp := { (s.core c k).disp with stall := .none }.entering (s.core c k).nextBank (s.core c k).nextEntry } := by
  unfold State.boundary
  dsimp only
  rw [if_neg (Bool.eq_false_iff.1 stop)]
  split
  · next pending => cases swap.symm.trans pending
  · rw [if_pos valid, goTo_ready, State.modCore_core_self, State.modCore_core_self]
    rw [State.modCore_core_self]
    exact ready

/-- The core that a completing verb has left. -/
def CoreSt.leftBy (x : CoreSt) (q : Queue) (e : QEntry) : CoreSt := { x with trapAddr := 0 }.leaves q e

theorem left_untrapped_core : ((s.untrapped c k).left c k q e).core c k = (s.core c k).leftBy q e := by
  rw [left_core, State.untrapped, State.modCore_core_self]
  rfl

/-- A scalar verb that signals nothing completes, and leaves its core as its effect on the dispatcher has it. -/
theorem verbComplete_scalar {rest : List QEntry} {y : CoreSt} {P : State → Prop} (h : FrontDone s c k .s e rest)
    (signal : e.verb.signal = 0) (effect : (((s.untrapped c k).left c k .s e).scalarEffect c k e).core c k = y)
    (hP : ∀ t, t.core c k = { y with run := y.settle.run } → P t) : Completes (.verbComplete c k .s) s P := by
  have silent : e.verb.targets .s = [] := by
    rw [Verb.targets, signal]
    rfl
  refine ⟨_, exec_verbComplete_done h, hP _ ?_⟩
  rw [finish_core h.releases (by rw [silent]; rfl) (by rw [if_pos rfl, effect])]
  exact settle_eq y

end

end Sys2Proof.Machine
end

section
open Sys2Proof Sys2Proof.Machine

theorem Sys2Proof.Claims.verbCompletes : Sys2Proof.Claims.VerbCompletes := by
  refine ⟨fun c k q e rest s hq present online sound front done releases performed answered below => ?_,
    fun c k q e rest s front started => exec_verbComplete_started front started⟩
  have hdone : FrontDone s c k q e rest := ⟨present, online, sound, front, done, releases, performed, answered⟩
  have room (i : Nat) (hi : i ∈ e.verb.targets q) : (s.core c k).signals.look 0 i ≠ 255 := by
    obtain ⟨p, hp, rfl⟩ := List.mem_map.1 hi
    obtain ⟨hp, signalled⟩ := mem_targets.1 hi
    exact below p hp signalled
  obtain ⟨silent, counts⟩ := foldl_raiseSignal (targets_nodup e.verb q) (s.core c k).signals room
  have silent' : ((e.verb.targets q).foldl raiseSignal (((s.untrapped c k).core c k).signals, false)).2 = false := by
    rw [State.untrapped, State.modCore_core_self]
    exact silent
  have left : (if q = .s then ((s.untrapped c k).left c k q e).scalarEffect c k e else (s.untrapped c k).left c k q e).core c k
      = (s.core c k).leftBy q e := by
    rw [if_neg hq, left_untrapped_core]
  have core := finish_core releases silent' left
  rw [settle_eq] at core
  obtain ⟨frame, others⟩ := (modCore_onlyCompletes s _).trans (finish_onlyCompletes hq releases silent')
  refine ⟨_, exec_verbComplete_done hdone, frame, others, ?_⟩
  rw [core]
  have queues : (s.core c k).queues.set (((s.core c k).queues.get q).drop 1) q = (s.core c k).queues.set rest q := by
    rw [front]
    rfl
  refine ⟨queues, fun p hp => ?_, rfl, rfl, rfl, rfl, fun stopped running => ?_⟩
  · refine (counts _).trans ?_
    simp [mem_targets, hp]
  · rw [← queues]
    exact settle_run stopped running

theorem Sys2Proof.Claims.branchesTakeEffect : Sys2Proof.Claims.BranchesTakeEffect := by
  intro c k e rest s present running sound front done releases signal performed answered fetching
  have hdone : FrontDone s c k .s e rest :=
    ⟨present, by rw [running]; decide, sound, front, done, releases, performed, answered⟩
  have left := left_untrapped_core (s := s) (c := c) (k := k) (q := .s) (e := e)
  refine ⟨fun sjmp => ?_, fun swap => ?_, fun ends taken stop => ?_, fun ends taken stop swap valid ready => ?_⟩
  · refine verbComplete_scalar hdone signal (by rw [scalarEffect_sjmp sjmp, State.modCore_core_self, left]) fun t core => ?_
    rw [core]
    rfl
  · refine verbComplete_scalar hdone signal (by rw [scalarEffect_swap swap]) fun t core => ?_
    rw [core]
    split
    · rw [State.modCore_core_self, left]
      rfl
    · rw [left]
      rfl
  · have boundary := boundary_stopped (s := (s.untrapped c k).left c k .s e) (c := c) (k := k) (by rw [left]; exact stop)
    refine verbComplete_scalar hdone signal (by rw [scalarEffect_end ends taken, boundary, State.modCore_core_self])
      fun t core => ?_
    rw [core]
    exact ⟨rfl, rfl, rfl, rfl⟩
  · have boundary := boundary_next_core (s := (s.untrapped c k).left c k .s e) (c := c) (k := k) (by rw [left]; exact stop)
      (by rw [left]; exact swap) (by rw [left]; exact valid) (by rw [left]; exact ready)
    rw [left] at boundary
    refine verbComplete_scalar hdone signal (by rw [scalarEffect_end ends taken, boundary]) fun t core => ?_
    rw [core]
    exact ⟨rfl, rfl, rfl, rfl, rfl⟩

/-- Settles O16: the completion of a verb as its queue, its signals and its effect on the dispatcher. -/
theorem verbsComplete : Obligations.VerbsComplete := ⟨Sys2Proof.Claims.verbCompletes, Sys2Proof.Claims.branchesTakeEffect⟩

end

section
namespace Sys2Proof.Machine

/-! ### A verb's own work finished (R85) -/

section
variable {s t : State} {a : Issuer} {f : QEntry → QEntry}

theorem modEntry_onlyCore (s : State) (a : Issuer) (f : QEntry → QEntry) : OnlyCore a.c a.k s (s.modEntry a f) := by
  unfold State.modEntry
  split
  · exact .refl s
  · exact modCore_onlyCore s _

theorem modEntry_core (s : State) (a : Issuer) (f : QEntry → QEntry) :
    (s.modEntry a f).core a.c a.k = { s.core a.c a.k with queues := ((s.modEntry a f).core a.c a.k).queues } := by
  unfold State.modEntry
  split
  · rfl
  · rw [State.modCore_core_self]

theorem modEntry_queues_congr (h : (s.core a.c a.k).queues = (t.core a.c a.k).queues) :
    ((s.modEntry a f).core a.c a.k).queues = ((t.modEntry a f).core a.c a.k).queues := by
  unfold State.modEntry
  split
  · exact h
  · rw [State.modCore_core_self, State.modCore_core_self, h]

theorem entry_congr (h : (s.core a.c a.k).queues = (t.core a.c a.k).queues) : s.entry a = t.entry a := by
  unfold State.entry
  rw [h]

theorem setBanks_core {c k : Nat} (s : State) (banks : List Nat) (kind : AccKind) : (s.setBanks c k banks kind).core c k
    = { s.core c k with banks := ((s.setBanks c k banks kind).core c k).banks } := by
  unfold State.setBanks
  rw [State.modCore_core_self]

theorem setBanks_queues {c k : Nat} (s : State) (banks : List Nat) (kind : AccKind) :
    ((s.setBanks c k banks kind).core c k).queues = (s.core c k).queues := by rw [setBanks_core]

/-- A verb's end touches its core alone, and there its entry and accumulator banks. -/
theorem done_onlyCore (s : State) (a : Issuer) : OnlyCore a.c a.k s (s.done a) := by
  unfold State.done State.settleVerb
  dsimp only
  split
  · exact (modCore_onlyCore s _).trans (modEntry_onlyCore _ a _)
  · exact modEntry_onlyCore s a _

theorem done_core (s : State) (a : Issuer) : (s.done a).core a.c a.k
    = { s.core a.c a.k with queues := ((s.done a).core a.c a.k).queues, banks := ((s.done a).core a.c a.k).banks } := by
  unfold State.done State.settleVerb
  dsimp only
  split
  · rw [modEntry_core, setBanks_core]
  · rw [modEntry_core]

theorem done_queues_congr (h : (s.core a.c a.k).queues = (t.core a.c a.k).queues) :
    ((s.done a).core a.c a.k).queues = ((t.done a).core a.c a.k).queues := by
  unfold State.done State.settleVerb
  dsimp only
  rw [entry_congr h]
  split
  · refine modEntry_queues_congr ?_
    rw [setBanks_queues, setBanks_queues, h]
  · exact modEntry_queues_congr h

end

/-! ### The commands of verbs (R91, R95) -/

section
variable {s : State} {c k : Nat} {q : Queue} {u : Upset}

/-- The command, with its opcode, is that of a verb: it issues the verb with some body. -/
def Issues (s : State) (c k : Nat) (q : Queue) (u : Upset) (x : Instr × Nat) : Prop :=
  ∃ body, exec x.1 s = .next (s.issue c k q x.2 u body)

theorem issues_common : ∀ x ∈ [(Instr.nop ⟨c, k⟩ q u, 64 * queueNum q), (.join ⟨c, k⟩ q u, 64 * queueNum q + 1),
    (.bind ⟨c, k⟩ q u, 64 * queueNum q + 2), (.unbind ⟨c, k⟩ q u, 64 * queueNum q + 3), (.fence ⟨c, k⟩ q u, 64 * queueNum q + 4)],
    Issues s c k q u x := by
  simp only [List.forall_mem_cons, List.not_mem_nil, false_implies, implies_true, and_true]
  exact ⟨⟨nopBody, rfl⟩, ⟨joinBody, rfl⟩, ⟨bindBody, rfl⟩, ⟨unbindBody, rfl⟩, ⟨fenceBody, rfl⟩⟩

theorem issues_matrix : ∀ x ∈ [(Instr.mma c k u, 0x08), (.mdrain c k u, 0x09), (.mzero c k u, 0x0A)], Issues s c k .m u x := by
  simp only [List.forall_mem_cons, List.not_mem_nil, false_implies, implies_true, and_true]
  exact ⟨⟨mmaBody, rfl⟩, ⟨mdrainBody, rfl⟩, ⟨mzeroBody, rfl⟩⟩

theorem issues_vector : ∀ x ∈ [(Instr.vmap c k u, 0x48), (.vred c k u, 0x49), (.vsmax c k u, 0x4A), (.vnorm c k u, 0x4B),
    (.vsample c k u, 0x4C)], Issues s c k .v u x := by
  simp only [List.forall_mem_cons, List.not_mem_nil, false_implies, implies_true, and_true]
  exact ⟨⟨vmapBody, rfl⟩, ⟨vredBody, rfl⟩, ⟨vsmaxBody, rfl⟩, ⟨vnormBody, rfl⟩, ⟨vsampleBody, rfl⟩⟩

theorem issues_scalar : ∀ x ∈ [(Instr.sset ⟨c, k⟩ u, 0x88), (.sinc ⟨c, k⟩ u, 0x89), (.sadd ⟨c, k⟩ u, 0x8A), (.sload c k u, 0x8B),
    (.scmp ⟨c, k⟩ u, 0x8C), (.sjmp ⟨c, k⟩ u, 0x8D), (.swap ⟨c, k⟩ u, 0x8E), (.endVerb ⟨c, k⟩ u, 0x8F), (.strap ⟨c, k⟩ u, 0x90)],
    Issues s c k .s u x := by
  simp only [List.forall_mem_cons, List.not_mem_nil, false_implies, implies_true, and_true]
  exact ⟨⟨ssetBody, rfl⟩, ⟨sincBody, rfl⟩, ⟨saddBody, rfl⟩, ⟨sloadBody, rfl⟩, ⟨scmpBody, rfl⟩, ⟨sjmpBody, rfl⟩, ⟨swapBody, rfl⟩,
    ⟨endBody, rfl⟩, ⟨strapBody, rfl⟩⟩

theorem issues_dma : ∀ x ∈ [(Instr.dcopy c k u, 0xC8), (.dgather c k u, 0xC9), (.dscatter c k u, 0xCA), (.dak2 c k u, 0xCB),
    (.dflush c k u, 0xCC), (.datom c k u, 0xCD), (.dcvcfg c k u, 0xCE)], Issues s c k .d u x := by
  simp only [List.forall_mem_cons, List.not_mem_nil, false_implies, implies_true, and_true]
  exact ⟨⟨dcopyBody, rfl⟩, ⟨dgatherBody, rfl⟩, ⟨dscatterBody, rfl⟩, ⟨dak2Body, rfl⟩, ⟨dflushBody, rfl⟩, ⟨datomBody, rfl⟩,
    ⟨dcvcfgBody, rfl⟩⟩

end

section
variable {s t : State} {c k op : Nat} {q : Queue} {u : Upset} {e : QEntry} {starts : Bool} {body : Ctx → VM Bool} {i : Instr}
  {P : State → Prop} (hi : exec i s = .next (s.issue c k q op u body)) (h : Begins s c k q op u e starts)
include hi h

/-- The command of a verb whose body finishes completes with the verb done. -/
theorem completes_done (hb : Runs (body (ctxOf s c k q u e)) (begun s c k q u e starts) true t)
    (hP : P (t.done (issuerOf s c k q u e))) : Completes i s P :=
  ⟨_, hi, by rwa [issue_done h hb]⟩

/-- The command of a verb whose body goes on completes with the verb started. -/
theorem completes_started (hb : Runs (body (ctxOf s c k q u e)) (begun s c k q u e starts) false t)
    (hP : P (t.modEntry (issuerOf s c k q u e) fun x => { x with phase := .started, worked := false })) : Completes i s P :=
  ⟨_, hi, by rwa [issue_started h hb]⟩

end

/-! ### NOP, JOIN and FENCE (R91, R96, R180) -/

section
variable {s : State} {x : Ctx}

theorem nopBody_runs (hform : ({} : Form).ok x.a.q x.v = true) (hstart : x.a.decode = false) : Runs (nopBody x) s true s :=
  (require_runs hform).bind ((decoded_runs hstart).bind .pure)

theorem core_runs : Runs x.core s (s.core x.a.c x.a.k) s := Runs.get.bind .pure

/-- The counts that a JOIN of queue number `p` waits for have been reached. -/
def Verb.reached (v : Verb) (p : Nat) (signals : Tbl Nat) : Bool :=
  (List.range 4).all fun q => decide (v.waits.getD q 0 ≤ signals.look 0 (4 * q + p))

theorem reached_iff {v : Verb} {p : Nat} {signals : Tbl Nat} :
    v.reached p signals = true ↔ ∀ q < 4, v.waits.getD q 0 ≤ signals.look 0 (4 * q + p) := by
  simp [Verb.reached]

/-- The counts with those of some queues lowered by what a JOIN of queue number `p` waits for. -/
def Verb.lowered (v : Verb) (p : Nat) (queues : List Nat) (signals : Tbl Nat) : Tbl Nat :=
  queues.foldl (fun t q => if v.waits.getD q 0 = 0 then t else t.upd 0 (4 * q + p) (· - v.waits.getD q 0)) signals

theorem lowered_look (v : Verb) (p q : Nat) {queues : List Nat} (nodup : queues.Nodup) : ∀ signals : Tbl Nat,
    (v.lowered p queues signals).look 0 (4 * q + p)
      = signals.look 0 (4 * q + p) - if q ∈ queues then v.waits.getD q 0 else 0 := by
  induction queues with
  | nil => exact fun _ => rfl
  | cons j queues ih =>
    intro signals
    obtain ⟨fresh, nodup⟩ := List.nodup_cons.1 nodup
    refine (ih nodup _).trans ?_
    by_cases hj : q = j
    · subst hj
      rw [if_neg fresh, if_pos List.mem_cons_self]
      dsimp only
      split
      · next zero => rw [zero]
      · exact Tbl.look_upd_self ..
    · have kept : Tbl.look 0 (if v.waits.getD j 0 = 0 then signals else signals.upd 0 (4 * j + p) (· - v.waits.getD j 0)) (4 * q + p)
          = signals.look 0 (4 * q + p) := by
        split
        · rfl
        · exact Tbl.look_upd_other 0 _ _ (by omega)
      rw [kept]
      simp [hj]

/-- The state with the counts of a JOIN lowered. -/
def State.joined (s : State) (x : Ctx) : State :=
  s.modCore x.a.c x.a.k fun y => { y with signals := x.v.lowered (queueNum x.a.q) (List.range 4) y.signals }

section
variable (hform : ({ ext := .no, imm := 0xFFFFFFFF } : Form).ok x.a.q x.v = true) (hown : x.v.waits.getD (queueNum x.a.q) 0 = 0)
  (hstart : x.a.decode = false)
include hform hown hstart

theorem joinBody_reached (h : x.v.reached (queueNum x.a.q) (s.core x.a.c x.a.k).signals = true) :
    Runs (joinBody x) s true (s.joined x) := by
  refine (require_runs (by rw [hform, hown]; rfl)).bind ((decoded_runs hstart).bind (core_runs.bind ?_))
  unfold Verb.reached at h
  rw [if_pos h]
  exact Runs.change.bind .pure

theorem joinBody_waits (h : x.v.reached (queueNum x.a.q) (s.core x.a.c x.a.k).signals = false) :
    Runs (joinBody x) s false s := by
  refine (require_runs (by rw [hform, hown]; rfl)).bind ((decoded_runs hstart).bind (core_runs.bind ?_))
  unfold Verb.reached at h
  rw [if_neg (Bool.eq_false_iff.1 h)]
  exact .pure

end

theorem awaitPeersDone_runs (h : s.sentFailed (s.core x.a.c x.a.k).sent = none) :
    Runs (awaitPeersDone x) s (s.sentDone (s.core x.a.c x.a.k).sent) s := by
  refine Runs.get.bind ?_
  rw [h]
  exact .pure

theorem fenceBody_runs (hform : ({ ext := .no, scope := true } : Form).ok x.a.q x.v = true) (hstart : x.a.decode = false)
    (h : x.v.scope ≠ 4 ∨ s.sentFailed (s.core x.a.c x.a.k).sent = none ∧ s.sentDone (s.core x.a.c x.a.k).sent = true) :
    Runs (fenceBody x) s true s := by
  refine (require_runs hform).bind ((decoded_runs hstart).bind ?_)
  split
  · next system =>
    obtain ⟨sound, acknowledged⟩ := h.resolve_left (· system)
    have awaited := awaitPeersDone_runs sound
    rwa [acknowledged] at awaited
  · exact .pure

end

end Sys2Proof.Machine
end

section
open Sys2Proof Sys2Proof.Machine

theorem Sys2Proof.Claims.nopAndPredicates : Sys2Proof.Claims.NopAndPredicates := by
  refine ⟨fun c k q u e s begins hform => ⟨_, rfl, issue_done begins (nopBody_runs hform rfl)⟩, ?_⟩
  intro c k op q i u e s verb present online sound first free off
  have issues : Issues s c k q u (i, op) := by
    rcases verb with verb | ⟨rfl, verb⟩ | ⟨rfl, verb⟩ | ⟨rfl, verb⟩ | ⟨rfl, verb⟩
    · exact issues_common _ verb
    · exact issues_matrix _ verb
    · exact issues_vector _ verb
    · exact issues_scalar _ verb
    · exact issues_dma _ verb
  obtain ⟨body, runs⟩ := issues
  exact ⟨_, runs, issue_skipped present online sound first free off⟩

theorem Sys2Proof.Claims.joinAndFence : Sys2Proof.Claims.JoinAndFence := by
  refine ⟨?_, ?_⟩
  · intro c k q u e starts s begins hform hown b
    let x := ctxOf s c k q u e
    cases reached : e.verb.reached (queueNum q) (b.core c k).signals with
    | true =>
      obtain ⟨frame, others⟩ := (modCore_onlyCore b _).trans (done_onlyCore (b.joined x) x.a)
      refine completes_done rfl begins (joinBody_reached (x := x) hform hown rfl reached) ⟨frame, others, ?_⟩
      have joined : (b.joined x).core c k
          = { b.core c k with signals := e.verb.lowered (queueNum q) (List.range 4) (b.core c k).signals } :=
        State.modCore_core_self ..
      have queues : (((b.joined x).done x.a).core c k).queues = ((b.done x.a).core c k).queues :=
        done_queues_congr (congrArg (·.queues) joined)
      have core : ((b.joined x).done x.a).core c k = _ := done_core ..
      rw [show (b.joined x).core x.a.c x.a.k = _ from joined] at core
      refine ⟨congrArg (·.counters) core, congrArg (·.localStore) core, fun _ => ⟨fun p hp => ?_, queues⟩,
        fun unreached => absurd (reached_iff.1 reached) unreached⟩
      refine (congrArg (·.signals.look 0 (4 * p + queueNum q)) core).trans
        ((lowered_look e.verb (queueNum q) p List.nodup_range _).trans ?_)
      rw [if_pos (List.mem_range.2 hp)]
    | false =>
      obtain ⟨frame, others⟩ := modEntry_onlyCore b x.a fun y => { y with phase := .started, worked := false }
      refine completes_started rfl begins (joinBody_waits (x := x) hform hown rfl reached) ⟨frame, others, ?_⟩
      have core : (b.modEntry x.a fun y => { y with phase := .started, worked := false }).core c k = _ := modEntry_core ..
      rw [show issuerOf s c k q u e = x.a from rfl, core]
      refine ⟨rfl, rfl, fun all => ?_, fun _ => ⟨rfl, rfl⟩⟩
      cases (reached_iff.2 all).symm.trans reached
  · intro c k q u e starts s begins hform b hscope
    exact ⟨_, rfl, issue_done begins (fenceBody_runs hform rfl hscope)⟩

/-- Settles O17: a verb that starts with its predicate not holding is skipped whatever its body; the bodies of NOP, JOIN and FENCE. -/
theorem predicatesJoinsAndFences : Obligations.PredicatesJoinsAndFences :=
  ⟨Sys2Proof.Claims.nopAndPredicates, Sys2Proof.Claims.joinAndFence⟩

end

section
namespace Sys2Proof.Machine

/-! ### Counters as a verb reads and sets them (R99) -/

section
variable {s t : State} {x : Ctx} {field n v : Nat}

/-- What a verb sees of a counter. -/
def State.seen (s : State) (x : Ctx) (n : Nat) : Nat := Tbl.look 0 ((s.entry x.a).sees (s.core x.a.c x.a.k)).1 n

theorem counter_runs : Runs (x.counter n) s (s.seen x n) s := Runs.get.bind (core_runs.bind .pure)

theorem counterOf_eq (h : parseOperand field = .counter n) : counterOf field = some n := by
  rw [counterOf, h]

theorem getCounter_runs (h : parseOperand field = .counter n) : Runs (getCounter x field) s (s.seen x n) s := by
  rw [getCounter, counterOf_eq h]
  exact counter_runs

theorem setCounter_runs (h : parseOperand field = .counter n) :
    Runs (setCounter x field v) s () (s.putCounter x.a.c x.a.k n v) := by
  rw [setCounter, counterOf_eq h]
  exact Runs.change

/-! ### SSET, SINC, SADD and SLOAD (R99) -/

section
variable (hstart : x.a.decode = false) (hdst : parseOperand x.v.dst = .counter n)
include hstart hdst

theorem ssetBody_runs (hform : (counterForm 0xFFFFFFFF).ok x.a.q x.v = true) :
    Runs (ssetBody x) s true (s.putCounter x.a.c x.a.k n x.v.imm) :=
  (require_runs hform).bind ((decoded_runs hstart).bind ((setCounter_runs hdst).bind .pure))

theorem sincBody_runs (hform : (counterForm 0).ok x.a.q x.v = true) :
    Runs (sincBody x) s true (s.putCounter x.a.c x.a.k n (s.seen x n + 1)) :=
  (require_runs hform).bind ((decoded_runs hstart).bind ((getCounter_runs hdst).bind ((setCounter_runs hdst).bind .pure)))

theorem saddBody_runs (hform : (counterForm 0xFFFFFFFF).ok x.a.q x.v = true) :
    Runs (saddBody x) s true (s.putCounter x.a.c x.a.k n (s.seen x n + x.v.imm)) :=
  (require_runs hform).bind ((decoded_runs hstart).bind ((getCounter_runs hdst).bind ((setCounter_runs hdst).bind .pure)))

/-- A noun an SLOAD may read at its index: flat, of 32-bit integers, in row order, with that element. -/
structure Loadable (v : Verb) (noun : Noun) : Prop where
  flat : noun.compress = 0
  layout : noun.layout = 0
  format : noun.format = fmtINT32 ∨ noun.format = fmtUINT32
  inside : v.imm < noun.count

theorem sloadBody_runs {w : View} {raw : Nat} {s1 s2 : State}
    (hform : ({ dst := kCounter, srca := kNoun, imm := 0xFFFFFFFF } : Form).ok x.a.q x.v = true)
    (hnoun : Runs (flatNoun x x.v.srca x.v.offsA {}) s w s1) (hload : Loadable x.v w.noun)
    (hread : Runs (readElems x.a w w.noun.path [unlinear w.noun.exts x.v.imm]) s1 [raw] s2) :
    Runs (sloadBody x) s true (s2.putCounter x.a.c x.a.k n raw) := by
  obtain ⟨flat, layout, format, inside⟩ := hload
  exact (require_runs hform).bind (hnoun.bind ((require_runs (by simp [flat, layout, format, inside])).bind
    ((decoded_runs hstart).bind (hread.bind ((setCounter_runs hdst).bind .pure)))))

end

/-! ### SCMP (R99) -/

/-- What an SCMP compares its counter with: another counter, or the immediate. -/
def State.comparand (s : State) (x : Ctx) : Nat :=
  match counterOf x.v.srcb with
  | some m => s.seen x m
  | none => x.v.imm

/-- The state with an SCMP's predicate written. -/
def State.compared (s : State) (x : Ctx) (n : Nat) : State :=
  (s.latch x.a.c x.a.k).modCore x.a.c x.a.k fun y =>
    { y with preds := (putBit y.preds (bits x.v.mode 4 3)
        (compare (bits x.v.mode 0 3) (bit x.v.mode 3) (s.seen x n) (s.comparand x))) }

theorem scmpBody_runs (hstart : x.a.decode = false) (hsrc : parseOperand x.v.srca = .counter n)
    (hform : ({ srca := kCounter, srcb := kCounter + kNone, mode := 0x7F, imm := 0xFFFFFFFF, ext := .no } : Form).ok x.a.q x.v = true)
    (hrel : bits x.v.mode 0 3 ≤ 5) : Runs (scmpBody x) s true (s.compared x n) := by
  refine (require_runs (by simp [hform, hrel])).bind ((decoded_runs hstart).bind ((getCounter_runs hsrc).bind ?_))
  unfold State.compared State.comparand
  cases counterOf x.v.srcb with
  | some m => exact counter_runs.bind (Runs.change.bind .pure)
  | none => exact Runs.pure.bind (Runs.change.bind .pure)

/-! ### SJMP, SWAP, END and STRAP (R100, R105, R110) -/

section
variable (hstart : x.a.decode = false)
include hstart

theorem sjmpBody_runs (hform : jumpForm.ok x.a.q x.v = true) : Runs (sjmpBody x) s true s :=
  (require_runs hform).bind ((decoded_runs hstart).bind .pure)

theorem swapBody_runs (hform : jumpForm.ok x.a.q x.v = true) : Runs (swapBody x) s true s :=
  (require_runs hform).bind ((decoded_runs hstart).bind .pure)

theorem endBody_runs (hform : ({ ext := .no } : Form).ok x.a.q x.v = true) : Runs (endBody x) s true s :=
  (require_runs hform).bind ((decoded_runs hstart).bind .pure)

variable (hform : ({ imm := 0xFFFFFFFF, ext := .no } : Form).ok x.a.q x.v = true)
include hform

/-- The state with a STRAP's code written and pending, and the control core interrupted. -/
def State.strapped (s : State) (x : Ctx) : State :=
  (s.modCore x.a.c x.a.k fun y => { y with strapCode := x.v.imm, strapPend := true }).modCluster x.a.c fun y => { y with irq := true }

theorem strapBody_waits (pending : (s.core x.a.c x.a.k).strapPend = true) : Runs (strapBody x) s false s := by
  refine (require_runs hform).bind ((decoded_runs hstart).bind (Runs.get.bind ?_))
  rw [if_pos pending]
  exact .pure

variable (free : (s.core x.a.c x.a.k).strapPend = false)
include free

theorem strapBody_silent (silent : (s.core x.a.c x.a.k).event = false) : Runs (strapBody x) s true (s.strapped x) := by
  refine (require_runs hform).bind ((decoded_runs hstart).bind (Runs.get.bind ?_))
  simp only [free, silent, Bool.false_eq_true, if_false]
  exact Runs.change.bind (Runs.change.bind .pure)

theorem strapBody_told (told : (s.core x.a.c x.a.k).event = true) : Runs (strapBody x) s true
    ((s.strapped x).event Cls.verb Code.ok (Obs.ofCore x.a.c x.a.k) x.a.pid x.v.imm
      ((s.entry x.a).word % 4096 + 4096 * (s.entry x.a).bank)) := by
  refine (require_runs hform).bind ((decoded_runs hstart).bind (Runs.get.bind ?_))
  simp only [free, told, Bool.false_eq_true, if_false, if_true]
  exact Runs.change.bind (Runs.change.bind (Runs.change.bind .pure))

end

end

end Sys2Proof.Machine
end

section
open Sys2Proof Sys2Proof.Machine

theorem Sys2Proof.Claims.scalarVerbs : Sys2Proof.Claims.ScalarVerbs := by
  intro c k u e starts s s0 a seen puts
  let x := ctxOf s c k .s u e
  refine ⟨fun n hdst hform => ⟨fun begins => ?_, fun begins => ?_⟩, fun n hdst hform begins => ?_,
    fun n hsrc begins hform hrel => ?_, fun hform => ⟨fun begins => ?_, fun begins => ?_⟩, fun hform begins => ?_,
    fun hform begins => ?_⟩
  · exact completes_done rfl begins (ssetBody_runs (x := x) rfl hdst hform) rfl
  · exact completes_done rfl begins (saddBody_runs (x := x) rfl hdst hform) rfl
  · exact completes_done rfl begins (sincBody_runs (x := x) rfl hdst hform) rfl
  · exact completes_done rfl begins (scmpBody_runs (x := x) rfl hsrc hform hrel) rfl
  · exact completes_done rfl begins (sjmpBody_runs (x := x) rfl hform) rfl
  · exact completes_done rfl begins (swapBody_runs (x := x) rfl hform) rfl
  · exact completes_done rfl begins (endBody_runs (x := x) rfl hform) rfl
  · cases pending : (s0.core c k).strapPend with
    | true =>
      exact completes_started rfl begins (strapBody_waits (x := x) rfl hform pending) ⟨nofun, nofun, fun _ => rfl⟩
    | false =>
      cases told : (s0.core c k).event with
      | false =>
        exact completes_done rfl begins (strapBody_silent (x := x) rfl hform pending told) ⟨fun _ _ => rfl, nofun, nofun⟩
      | true =>
        exact completes_done rfl begins (strapBody_told (x := x) rfl hform pending told) ⟨nofun, fun _ _ => rfl, nofun⟩

theorem Sys2Proof.Claims.scalarLoad : Sys2Proof.Claims.ScalarLoad := by
  intro c k n raw u e starts v s s1 s2 begins hdst hform x hnoun flat layout format inside hread
  exact completes_done rfl begins (sloadBody_runs (x := x) rfl hdst hform hnoun ⟨flat, layout, format, inside⟩ hread) rfl

/-- Settles O18: the bodies of the scalar verbs run step by step, a counter read as the verb saw it at the head of its queue. -/
theorem scalarQueueVerbs : Obligations.ScalarQueueVerbs := ⟨Sys2Proof.Claims.scalarVerbs, Sys2Proof.Claims.scalarLoad⟩

end

/-! ## DGATHER and DSCATTER (R93) -/

section
namespace Sys2Proof.Machine

section
variable {α β γ : Type} {m : VM α} {f : α → VM β} {s t r : State} {v : α} {w : β}

/-- A computation that answers does so behind its first part's answer. -/
theorem Runs.exists_of_bind (h : Runs (m >>= f) s w r) : ∃ v t, Runs m s v t ∧ Runs (f v) t w r := by
  unfold Runs at h
  rw [run_bind] at h
  generalize ends : m.run s = p at h
  obtain ⟨halt | v, t⟩ := p
  · cases h
  · exact ⟨v, t, ends, h⟩

/-- Three computations one after another, each with its answer. -/
theorem Runs.exists_of_triple {m₁ : VM α} {m₂ : VM β} {m₃ : VM γ} {a : α} {b : β} {c : γ}
    (h : Runs (do let a ← m₁; let b ← m₂; return (a, b, ← m₃)) s (a, b, c) r) :
    ∃ t₁ t₂, Runs m₁ s a t₁ ∧ Runs m₂ t₁ b t₂ ∧ Runs m₃ t₂ c r := by
  obtain ⟨_, t₁, h₁, h⟩ := h.exists_of_bind
  obtain ⟨_, t₂, h₂, h⟩ := h.exists_of_bind
  obtain ⟨_, _, h₃, h⟩ := h.exists_of_bind
  cases h
  exact ⟨t₁, t₂, h₁, h₂, h₃⟩

end

section
variable {s s1 s2 s3 s4 t1 t2 : State} {x : Ctx} {at_ : List Int} {raws : List Nat}

/-- A place along a table's dimension that lies in the table. -/
def inTable (table : Noun) (dim : Nat) (j : Int) : Bool := decide (0 ≤ j) && decide (j < table.ext dim)

/-- The place that the indices read select for an element. -/
def selected (at_ : List Int) (dim : Nat) (o : List Int) : Int := at_.getD (o.getD dim 0).toNat 0

/-- The table, the operand of the table's format and the index noun of a gather or a scatter along a dimension fit each other. -/
structure TableFits (dim : Nat) (table places : Noun) (other : Tensor) : Prop where
  layouts : tableLayouts table places dim = true
  dim_lt : dim < table.rank
  index : indexFormat places.format = true
  format : other.fmt = table.format
  exts : other.exts = table.exts.set dim places.count

/-- The indices of an operand whose element lies in the table. -/
def gathered (dim : Nat) (table : Noun) (other : Tensor) (at_ : List Int) : List (List Int) :=
  (indices other.exts).filter fun o => inTable table dim (selected at_ dim o)

/-- The places in the table that those indices select. -/
def placed (dim : Nat) (at_ : List Int) (os : List (List Int)) : List (List Int) := os.map fun o => o.set dim (selected at_ dim o)

/-- The indices of a DGATHER's destination that select no place, with the padding. -/
def padded (dim : Nat) (table : Noun) (d : Tensor) (at_ : List Int) : List (List Int × Nat) :=
  ((indices d.exts).filter fun o => !inTable table dim (selected at_ dim o)).map fun o =>
    (o, (padRaw table.format table.padval).getD 0)

/-- The elements a DSCATTER stores, each with its place in the table. -/
def scattered (dim : Nat) (table : Noun) (a : Tensor) (at_ : List Int) (raws : List Nat) : List (List Int × Nat) :=
  (((indices a.exts).zip raws).filter fun (o, _) => inTable table dim (selected at_ dim o)).map fun (o, r) =>
    (o.set dim (selected at_ dim o), r)

section
variable {m n : VM Bool} {v clamp all : Bool} {halt : Halt} {t : State}

/-- A check of the indices that CLAMP waives, or that none of them fails, is passed. -/
theorem Runs.of_checked (h : clamp = true ∨ all = true) (hn : Runs n s v t) :
    Runs (if (!clamp && !all) = true then m else n) s v t := by
  rwa [if_neg]
  rcases h with rfl | rfl <;> simp

theorem Halts.of_checked (hclamp : clamp = false) (hall : all = false) (hm : Halts m s halt t) :
    Halts (if (!clamp && !all) = true then m else n) s halt t := by
  subst hclamp hall
  exact hm

end

/-! ### DGATHER -/

section
variable {dim : Nat} {d : Tensor} {a i : View}
  (hform : ({ dst := kNoun + kPort, srca := kNoun, srcb := kNoun, mode := 0x0F } : Form).ok x.a.q x.v = true)
  (hdim : bits x.v.mode 0 3 = dim) (hstart : x.a.decode = false)
  (hd : Runs (gatherDest x) s d t1) (ha : Runs (flatNoun x x.v.srca x.v.offsA {}) t1 a t2)
  (hi : Runs (flatNoun x x.v.srcb x.v.offsB {}) t2 i s1) (hflat : allFlat [d.view.noun, a.noun, i.noun] = true)
  (hfits : TableFits dim a.noun i.noun d) (hat : Runs (readIndices x i) s1 at_ s2)
include hform hdim hstart hd ha hi hflat hfits hat

theorem dgatherBody_runs (inside : bit x.v.mode 3 = true ∨ at_.all (inTable a.noun dim) = true)
    (hread : Runs (readElems x.a a a.noun.path (placed dim at_ (gathered dim a.noun d at_))) s2 raws s3)
    (hwrite : Runs (writeTensor x d ((gathered dim a.noun d at_).zip raws ++ padded dim a.noun d at_) true) s3 () s4) :
    Runs (dgatherBody x) s true s4 := by
  subst hdim
  obtain ⟨layouts, dim_lt, index, format, exts⟩ := hfits
  refine (require_runs hform).bind (hd.bind (ha.bind (hi.bind ((require_runs ?_).bind ((decoded_runs hstart).bind (hat.bind ?_))))))
  · simp [hflat, layouts, dim_lt, index, format, exts]
  · exact .of_checked inside (hread.bind (hwrite.bind .pure))

theorem dgatherBody_outside (clamp : bit x.v.mode 3 = false) (outside : at_.all (inTable a.noun dim) = false) :
    Halts (dgatherBody x) s (.fault Code.indexRange) s2 := by
  subst hdim
  obtain ⟨layouts, dim_lt, index, format, exts⟩ := hfits
  refine (require_runs hform).bind_halts (hd.bind_halts (ha.bind_halts (hi.bind_halts ((require_runs ?_).bind_halts
    ((decoded_runs hstart).bind_halts (hat.bind_halts ?_))))))
  · simp [hflat, layouts, dim_lt, index, format, exts]
  · exact .of_checked clamp outside rfl

end

/-! ### DSCATTER -/

section
variable {dim : Nat} {d i : View} {a : Tensor} (hform : (dscatterForm x.v).ok x.a.q x.v = true)
  (hdim : bits x.v.mode 0 3 = dim) (hstart : x.a.decode = false)
  (hd : Runs (flatNoun x x.v.dst x.v.offsDst { written := true }) s d t1) (ha : Runs (flatSource x x.v.srca x.v.offsA) t1 a t2)
  (hi : Runs (flatNoun x x.v.srcb x.v.offsB {}) t2 i s1) (hflat : allFlat [d.noun, a.view.noun, i.noun] = true)
  (hfits : TableFits dim d.noun i.noun a) (hat : Runs (readIndices x i) s1 at_ s2)
include hform hdim hstart hd ha hi hflat hfits hat

theorem dscatterBody_runs (inside : bit x.v.mode 3 = true ∨ at_.all (inTable d.noun dim) = true)
    (hread : Runs (readTensor x a (indices a.exts)) s2 raws s3)
    (hmoves : let moves := scattered dim d.noun a at_ raws
      let order := State.shuffle moves.length moves s3
      Runs (scatterMoves x d order.1 (bit x.v.mode 4)) order.2 () s4) :
    Runs (dscatterBody x) s true s4 := by
  subst hdim
  obtain ⟨layouts, dim_lt, index, format, exts⟩ := hfits
  refine (require_runs hform).bind (hd.bind (ha.bind (hi.bind ((require_runs ?_).bind ((decoded_runs hstart).bind (hat.bind ?_))))))
  · simp [hflat, layouts, dim_lt, index, format, exts]
  · exact .of_checked inside (hread.bind (Runs.modifyGet.bind (hmoves.bind .pure)))

theorem dscatterBody_outside (clamp : bit x.v.mode 3 = false) (outside : at_.all (inTable d.noun dim) = false) :
    Halts (dscatterBody x) s (.fault Code.indexRange) s2 := by
  subst hdim
  obtain ⟨layouts, dim_lt, index, format, exts⟩ := hfits
  refine (require_runs hform).bind_halts (hd.bind_halts (ha.bind_halts (hi.bind_halts ((require_runs ?_).bind_halts
    ((decoded_runs hstart).bind_halts (hat.bind_halts ?_))))))
  · simp [hflat, layouts, dim_lt, index, format, exts]
  · exact .of_checked clamp outside rfl

end

end

end Sys2Proof.Machine
end

section
open Sys2Proof Sys2Proof.Machine

theorem Sys2Proof.Claims.gathersElements : Sys2Proof.Claims.GathersElements := by
  intro c k u e starts d a i at_ s s1 s2 begins hform x dim good source out real pad hoperands hflat layouts dim_lt index format exts hat
  obtain ⟨t1, t2, hd, ha, hi⟩ := hoperands.exists_of_triple
  have hfits : TableFits dim a.noun i.noun d := ⟨layouts, dim_lt, index, format, exts⟩
  refine ⟨fun raws s3 s4 inside hread hwrite => ?_, fun clamp outside => ?_⟩
  · exact completes_done rfl begins (dgatherBody_runs (x := x) hform rfl rfl hd ha hi hflat hfits hat inside hread hwrite) rfl
  · exact ⟨_, rfl, issue_faulted begins (dgatherBody_outside (x := x) hform rfl rfl hd ha hi hflat hfits hat clamp outside)⟩

theorem Sys2Proof.Claims.scattersElements : Sys2Proof.Claims.ScattersElements := by
  intro c k u e starts d i a at_ s s1 s2 begins hform x dim add good target src hoperands hflat layouts dim_lt index format exts hat
  obtain ⟨t1, t2, hd, ha, hi⟩ := hoperands.exists_of_triple
  have hfits : TableFits dim d.noun i.noun a := ⟨layouts, dim_lt, index, format.symm, exts⟩
  refine ⟨?_, fun clamp outside => ?_⟩
  · intro raws s3 s4 inside hread moves order hmoves
    exact completes_done rfl begins (dscatterBody_runs (x := x) hform rfl rfl hd ha hi hflat hfits hat inside hread hmoves) rfl
  · exact ⟨_, rfl, issue_faulted begins (dscatterBody_outside (x := x) hform rfl rfl hd ha hi hflat hfits hat clamp outside)⟩

/-- Settles O24: the bodies of DGATHER and DSCATTER run step by step, up to the check of the indices read and behind it. -/
theorem gathersAndScatters : Obligations.GathersAndScatters :=
  ⟨Sys2Proof.Claims.gathersElements, Sys2Proof.Claims.scattersElements⟩

end

/-! ## ABORT of a core and the cycles it charges (R113, R319) -/

section
namespace Sys2Proof.Machine

section
variable {s : State} {c k p : Nat} {q : Queue}

theorem scramble_sched (s : State) (c k : Nat) (banks : List Nat) : (s.scramble c k banks).sched = s.sched := by
  unfold State.scramble
  induction banks generalizing s with
  | nil => rfl
  | cons b banks ih => exact ih _

theorem stopMmas_sched : (s.stopMmas c k).sched = s.sched := scramble_sched ..

/-- A free number of cycles is charged to the account of class M of the partition whose core set holds the core. -/
theorem charge_acctM (hp : s.corePid c k = some p) :
    ((s.charge c k .m).psched p).acctM = ((s.psched p).acctM + Config.freeNat s.fresh) % 2 ^ 64 := by
  rw [State.charge, hp]
  exact congrArg PartSched.acctM (State.modPsched_psched_self ..)

/-- The verbs of a queue that had started before an ABORT are charged as they go. -/
def State.charged (s : State) (c k : Nat) (q : Queue) : State :=
  if ((s.core c k).queues.get q).any fun e => decide (1 ≤ e.taken) then s.charge c k q else s

theorem charged_started (h : (((s.core c k).queues.get q).any fun e => decide (1 ≤ e.taken)) = true) :
    s.charged c k q = s.charge c k q := if_pos h

theorem charged_waiting (h : (((s.core c k).queues.get q).any fun e => decide (1 ≤ e.taken)) = false) :
    s.charged c k q = s := if_neg (Bool.eq_false_iff.1 h)

/-- Of the SCHED block an ABORT changes what the started verbs of queues M, V and D charge. -/
theorem coreAbort_sched : ∃ answers recent, (s.coreAbort c k).sched
    = (((({ s with answers := answers, recent := recent } : State).charged c k .m).charged c k .v).charged c k .d).sched := by
  rw [State.coreAbort, State.coreStatus, State.modCore_sched, State.abandon, State.modCore_sched, stopMmas_sched]
  exact ⟨_, _, rfl⟩

/-- An ABORT of a core with a verb of M started, and none of V or D, charges that verb's cycles. -/
theorem coreAbort_acctM (hp : s.corePid c k = some p)
    (hm : ((s.core c k).queues.m.any fun e => decide (1 ≤ e.taken)) = true)
    (hv : ((s.core c k).queues.v.any fun e => decide (1 ≤ e.taken)) = false)
    (hd : ((s.core c k).queues.d.any fun e => decide (1 ≤ e.taken)) = false) :
    ((s.coreAbort c k).psched p).acctM = ((s.psched p).acctM + Config.freeNat s.fresh) % 2 ^ 64 := by
  obtain ⟨answers, recent, sched⟩ := coreAbort_sched (s := s) (c := c) (k := k)
  let r : State := { s with answers := answers, recent := recent }
  have m : r.charged c k .m = r.charge c k .m := charged_started hm
  have v : (r.charge c k .m).charged c k .v = r.charge c k .m := charged_waiting (by rw [charge_core]; exact hv)
  have d : (r.charge c k .m).charged c k .d = r.charge c k .m := charged_waiting (by rw [charge_core]; exact hd)
  rw [m, v, d] at sched
  rw [State.psched, sched]
  exact charge_acctM (s := r) hp

/-- Core 0 of cluster 0, of partition 0, with a verb of queue M started; the partition's account of class M stands at 2^64, which no
charge leaves there. -/
def accountFull : State :=
  { gram := { image := some {} }, sched := { parts := [(0, { cores := 1, acctM := 2 ^ 64 })] }
    cores := [(0, { queues := ⟨[{ taken := 1 }], [], [], []⟩ })] }

end

end Sys2Proof.Machine
end

section
open Sys2Proof Sys2Proof.Machine

/-- Refutes O13: ABORT charges the cycles of the verbs it abandons to the core's partition (R319), where the statement has it touch
nothing beside the cores, the free values, and the answers and atomics of the core's verbs. The cycles charged are a free value; on
an account at 2^64 every value of it shows. -/
theorem not_coreControlRegisters : ¬ Obligations.CoreControlRegisters := by
  rintro ⟨⟨-, -, aborts, -⟩, -⟩
  obtain ⟨t, ht, frame, -⟩ := aborts 0 0 accountFull (by decide)
  have abort : exec (.coreAbort 0 0) accountFull = .next (accountFull.coreAbort 0 0) := rfl
  obtain rfl : accountFull.coreAbort 0 0 = t := by
    rw [abort] at ht
    exact Host.Outcome.next.inj ht
  have kept : ((accountFull.coreAbort 0 0).psched 0).acctM = 2 ^ 64 := by rw [State.psched, congrArg State.sched frame]; rfl
  have charged := coreAbort_acctM (s := accountFull) (c := 0) (k := 0) (p := 0) rfl rfl rfl rfl
  have below := Nat.mod_lt ((accountFull.psched 0).acctM + Config.freeNat accountFull.fresh) (Nat.two_pow_pos 64)
  rw [← charged, kept] at below
  exact Nat.lt_irrefl _ below

end

/-! ## MMA, MDRAIN and MZERO (R119 to R135) -/

section
namespace Sys2Proof.Machine

/-! ### Loops, attempts and changes of a computation -/

section
variable {α β σ : Type} {m n : VM α} {f : β → VM α} {g : State → State} {s t r : State} {v : α}

/-- Two computations in a row may be run as one, as for an operand that a verb must have. -/
theorem Runs.bind_pair {m : VM σ} {p : σ → VM β} {w : β} (hm : Runs (m >>= p) s w t) (hf : Runs (f w) t v r) :
    Runs (m >>= fun y => p y >>= f) s v r := by
  rw [← bind_assoc]
  exact hm.bind hf

theorem Runs.of_not {c : Prop} [Decidable c] (h : ¬ c) (hn : Runs n s v t) : Runs (if c then m else n) s v t := by
  rwa [if_neg h]

/-- A change made on a condition. -/
theorem Runs.change_of {c : Prop} [Decidable c] {f : Unit → VM α} (h : Runs (f ()) (if c then g s else s) v t) :
    Runs (if c then Machine.change g >>= f else f ()) s v t := by
  by_cases hc : c
  · rw [if_pos hc] at h ⊢
    exact Runs.change.bind h
  · rw [if_neg hc] at h ⊢
    exact h

/-- An attempt that ends with an answer leaves its handler aside. -/
theorem Runs.tryCatch {handler : Halt → VM α} (h : Runs m s v t) : Runs (MonadExcept.tryCatch m handler) s v t := by
  unfold Runs at *
  rw [ExceptT.run_tryCatch]
  change StateT.run (m.run >>= _) s = _
  rw [StateT.run_bind, StateT.run, h]
  rfl

/-- A loop whose rounds change the state is the fold of those changes. -/
theorem Runs.forIn {body : σ → PUnit → VM (ForInStep PUnit)} {change : State → σ → State}
    (round : ∀ i s, Runs (body i ⟨⟩) s (.yield ⟨⟩) (change s i)) (l : List σ) :
    ∀ s, Runs (ForIn.forIn l ⟨⟩ body) s ⟨⟩ (l.foldl change s) := by
  induction l with
  | nil => exact fun _ => .pure
  | cons i l ih =>
    intro s
    rw [List.forIn_cons]
    exact (round i s).bind (ih _)

end

/-! ### Accumulator banks and the end of a verb (R126, R127, R133, R134) -/

section
variable {s : State} {c k : Nat} {a : Issuer}

theorem foldl_put_look {α : Type} {x d : α} (banks : List Nat) (i : Nat) : ∀ table : Tbl α,
    (banks.foldl (fun t b => t.put b x) table).look d i = if i ∈ banks then x else table.look d i := by
  induction banks with
  | nil => exact fun _ => rfl
  | cons b banks ih =>
    intro table
    rw [List.foldl_cons, ih, Tbl.look_put]
    by_cases hi : i ∈ banks <;> simp [hi]

/-- A bank after some have been set: those hold the kind and zero in every position, the others what they held. -/
theorem setBanks_look (s : State) (banks : List Nat) (kind : AccKind) (i : Nat) :
    ((s.setBanks c k banks kind).core c k).banks.look {} i
      = if i ∈ banks then { kind := kind } else (s.core c k).banks.look {} i := by
  unfold State.setBanks
  rw [State.modCore_core_self]
  exact foldl_put_look banks i _

theorem modEntry_banks (s : State) (a : Issuer) (f : QEntry → QEntry) :
    ((s.modEntry a f).core a.c a.k).banks = (s.core a.c a.k).banks := by rw [modEntry_core]

/-- A verb with nothing left to write and no peer's answer missing sets the banks it clears to NONE as it ends (R127). -/
theorem done_banks_written (todo : (s.entry a).todo = []) (answered : (s.entry a).unanswered = false) :
    ((s.done a).core a.c a.k).banks = ((s.setBanks a.c a.k (s.entry a).clear .none).core a.c a.k).banks := by
  have finished : (true && (s.entry a).todo.isEmpty && !(s.entry a).unanswered) = true := by rw [todo, answered]; rfl
  unfold State.done State.settleVerb
  dsimp only
  rw [if_pos finished, modEntry_banks]

/-- A verb that clears no bank leaves the banks alone as it ends. -/
theorem done_banks_kept (clear : (s.entry a).clear = []) : ((s.done a).core a.c a.k).banks = (s.core a.c a.k).banks := by
  unfold State.done State.settleVerb
  dsimp only
  split
  · rw [modEntry_banks, clear, State.setBanks, State.modCore_core_self]
    rfl
  · rw [modEntry_banks]

end

/-! ### MMA (R119 to R132) -/

section
variable {x : Ctx} {s s1 s2 : State} {a b : Tensor} {xa xb : Option View} {la lb : Loaded} {kind : AccKind} {four scaled : Bool}

/-- The operands of an MMA, looked up. -/
def mmaOperands (x : Ctx) : VM (Tensor × Tensor × Option View × Option View) := do
  let a ← given (← useSource x x.v.srca x.v.offsA {})
  let b ← given (← useSource x x.v.srcb x.v.offsB {})
  pure (a, b, ← useScale x x.v.xa, ← useScale x x.v.xb)

theorem exists_of_mmaOperands (h : Runs (mmaOperands x) s (a, b, xa, xb) s1) : ∃ t1 t2 t3,
    Runs (useSource x x.v.srca x.v.offsA {} >>= given) s a t1 ∧ Runs (useSource x x.v.srcb x.v.offsB {} >>= given) t1 b t2
    ∧ Runs (useScale x x.v.xa) t2 xa t3 ∧ Runs (useScale x x.v.xb) t3 xb s1 := by
  obtain ⟨_, _, source, h⟩ := h.exists_of_bind
  obtain ⟨_, t1, have_a, h⟩ := h.exists_of_bind
  obtain ⟨_, _, source', h⟩ := h.exists_of_bind
  obtain ⟨_, t2, have_b, h⟩ := h.exists_of_bind
  obtain ⟨_, t3, scale, h⟩ := h.exists_of_bind
  obtain ⟨_, _, scale', h⟩ := h.exists_of_bind
  cases h
  exact ⟨t1, t2, t3, source.bind have_a, source'.bind have_b, scale, scale'⟩

/-- The operands of an MMA load, are a pair of R119 in a grade that has it, agree along K, and fit their scales and banks. -/
structure MmaFits (s : State) (x : Ctx) (a b : Tensor) (xa xb : Option View) (kind : AccKind) (four scaled : Bool) : Prop where
  pair : mmaClass a.fmt b.fmt = some (kind, four, scaled)
  grade : (a.fmt ≠ fmtFP64 ∧ b.fmt ≠ fmtFP64) ∨ s.fuses.fp64 = true
  loadableA : loadable a.view.noun = true
  loadableB : loadable b.view.noun = true
  inner : a.mext (if bit x.v.mode 2 then 1 else 0) = b.mext (if bit x.v.mode 3 then 0 else 1)
  scalesA : scaleFits a xa (!bit x.v.mode 2) = true
  scalesB : scaleFits b xb (bit x.v.mode 3) = true
  banks : (banksOf x.v.dst).length
    = ceilDiv (a.mext (if bit x.v.mode 2 then 0 else 1)) 32 * ceilDiv (b.mext (if bit x.v.mode 3 then 1 else 0)) 32
  kinds : bit x.v.mode 1 = true → ∀ i ∈ banksOf x.v.dst, s.bankKind x.a i = kind

/-- An MMA has waited for its ports' head slots and for the MMAs ahead of it into its banks. -/
structure MmaReady (s : State) (x : Ctx) (a b : Tensor) : Prop where
  arrived : ∀ p, a.port = some p ∨ b.port = some p → ((s.core x.a.c x.a.k).port p).arrived ≠ 0
  alone : ((s.aheadOf x.a).any fun e => e.mmaInFlight && (banksOf x.v.dst).any fun b => (banksOf e.verb.dst).contains b) = false

/-- The banks as an MMA of a kind finds them: set to it and to zero, unless it accumulates. -/
def State.openBanks (s : State) (x : Ctx) (kind : AccKind) : State :=
  if bit x.v.mode 1 = true then s else s.setBanks x.a.c x.a.k (banksOf x.v.dst) kind

theorem openBanks_eq : s.openBanks x kind
    = if (!bit x.v.mode 1) = true then s.setBanks x.a.c x.a.k (banksOf x.v.dst) kind else s := by
  unfold State.openBanks
  cases bit x.v.mode 1 <;> rfl

/-- Every output position of an MMA has received its products. -/
def State.multiplied (s : State) (x : Ctx) (a b : Tensor) (kind : AccKind) (four : Bool) (la lb : Loaded) : State :=
  let m := a.mext (if bit x.v.mode 2 then 0 else 1)
  let n := b.mext (if bit x.v.mode 3 then 1 else 0)
  (List.range m).foldl (fun s i => (List.range n).foldl (fun s j =>
    s.accumulate x.a.c x.a.k kind la lb (kBlock four (bit x.v.mode 0)) ((banksOf x.v.dst).headD 0) (ceilDiv n 32) i j) s) s

theorem awaitSlot_runs (h : ∀ p, a.port = some p → ((s.core x.a.c x.a.k).port p).arrived ≠ 0) : Runs (awaitSlot x a) s () s := by
  unfold awaitSlot
  split
  · next p named => exact core_runs.bind (.of_not (h p named) .pure)
  · exact .pure

theorem awaitBanks_runs {banks : List Nat}
    (h : ((s.aheadOf x.a).any fun e => e.mmaInFlight && banks.any fun b => (banksOf e.verb.dst).contains b) = false) :
    Runs (awaitBanks x banks) s () s :=
  Runs.get.bind (.of_not (Bool.eq_false_iff.1 h) .pure)

theorem mmaBody_runs (hform : mmaForm.ok x.a.q x.v = true) (hstart : x.a.decode = false) (sound : x.a.upset.accumulator = false)
    (operands : Runs (mmaOperands x) s (a, b, xa, xb) s1) (fits : MmaFits s1 x a b xa xb kind four scaled)
    (ready : MmaReady s1 x a b)
    (loads : Runs (do pure (← load x a xa (!bit x.v.mode 2), ← load x b xb (bit x.v.mode 3))) (s1.openBanks x kind) (la, lb) s2) :
    Runs (mmaBody x) s true (s2.multiplied x a b kind four la lb) := by
  obtain ⟨t1, t2, t3, ha, hb, hxa, hxb⟩ := exists_of_mmaOperands operands
  obtain ⟨pair, grade, loadableA, loadableB, inner, scalesA, scalesB, banks, kinds⟩ := fits
  rw [openBanks_eq] at loads
  have graded : ¬ ((decide (a.fmt = fmtFP64) || decide (b.fmt = fmtFP64)) && !s1.fuses.fp64) = true := by
    rcases grade with ⟨fa, fb⟩ | fp64
    · simp [fa, fb]
    · simp [fp64]
  refine (require_runs hform).bind (ha.bind_pair (hb.bind_pair (hxa.bind (hxb.bind (Runs.get.bind (.of_not graded
    ((given_runs pair).bind ((require_runs ?checks).bind ((decoded_runs hstart).bind
      ((awaitSlot_runs fun p h => ready.arrived p (.inl h)).bind ((awaitSlot_runs fun p h => ready.arrived p (.inr h)).bind
        ((awaitBanks_runs ready.alone).bind (.change_of (.of_not (Bool.eq_false_iff.1 sound)
          (loads.tryCatch.bind ?products)))))))))))))))
  case checks =>
    cases acc : bit x.v.mode 1 with
    | true => simpa [loadableA, loadableB, inner, scalesA, scalesB, banks] using kinds acc
    | false => simp [loadableA, loadableB, inner, scalesA, scalesB, banks]
  case products =>
    refine .bind (.forIn (fun i s => ?_) _ s2) .pure
    refine .bind (.forIn (fun j s => ?_) _ s) .pure
    exact Runs.change.bind .pure

end

/-! ### MDRAIN and MZERO (R126, R127, R133, R135) -/

section
variable {x : Ctx} {s s1 s2 : State} {d : Tensor} {kind : AccKind}

/-- How MDRAIN rounds, as MODE says. -/
def Verb.drainRounding (v : Verb) : Rnd := if bits v.mode 0 2 = 0 then .ne else if bits v.mode 0 2 = 1 then .tz else .sat

/-- The coordinates of the elements an MDRAIN writes, in their order. -/
def drainPlaces (d : Tensor) : List (Nat × Nat) :=
  (List.range (d.view.noun.ext 1)).flatMap fun i => (List.range (d.view.noun.ext 0)).map fun j => (j, i)

/-- What MDRAIN makes of the positions it drains, and the state behind the reading. -/
def State.drainResult (s : State) (x : Ctx) (d : Tensor) (kind : AccKind) : List (Rounded × Bool) × State :=
  s.drainAll x.a.c x.a.k kind d.fmt x.v.drainRounding
    ((drainPlaces d).map fun (j, i) => placeOf ((banksOf x.v.srca).headD 0) (ceilDiv (d.view.noun.ext 0) 32) i j)

/-- MSTAT has taken what a drain gave (R135). -/
def State.drainNoted (s : State) (x : Ctx) (d : Tensor) (kind : AccKind) (out : List (Rounded × Bool)) : State :=
  s.modCore x.a.c x.a.k fun y =>
    { y with stat := y.stat.noteDrain d.fmt (out.map (·.1)) (bits x.v.mode 0 2) (kindNum kind)
                       ((out.any (·.2)) || (banksOf x.v.srca).any fun i => (y.banks.look {} i).wrapped) }

/-- With CLEAR the banks are marked to be cleared when every line has been written. -/
def State.clearMarked (s : State) (x : Ctx) : State :=
  if bit x.v.mode 2 = true then s.modEntry x.a fun e => { e with clear := banksOf x.v.srca } else s

/-- The destination of an MDRAIN fits the banks, which are of one kind that drains to its format. -/
structure DrainFits (s : State) (x : Ctx) (d : Tensor) (kind : AccKind) : Prop where
  rank : d.view.noun.rank = 2
  layout : d.view.noun.layout ≠ 4
  banks : (banksOf x.v.srca).length = ceilDiv (d.view.noun.ext 1) 32 * ceilDiv (d.view.noun.ext 0) 32
  first : s.bankKind x.a ((banksOf x.v.srca).headD 0) = kind
  kinds : ∀ i ∈ banksOf x.v.srca, s.bankKind x.a i = kind
  format : drainOk kind d.fmt (bits x.v.mode 0 2) = true

theorem mdrainBody_runs (hform : mdrainForm.ok x.a.q x.v = true) (hrounding : bits x.v.mode 0 2 ≠ 3)
    (hstart : x.a.decode = false) (sound : x.a.upset.accumulator = false)
    (hdest : Runs (useDest x x.v.dst x.v.offsDst {} >>= given) s d s1) (fits : DrainFits s1 x d kind)
    (hwrite : Runs (writeTensor x d (((drainPlaces d).zip (s1.drainResult x d kind).1).map fun ((j, i), r) =>
      ([Int.ofNat j, Int.ofNat i], r.1.raw)) true) (s1.drainResult x d kind).2 () s2) :
    Runs (mdrainBody x) s true ((s2.drainNoted x d kind (s1.drainResult x d kind).1).clearMarked x) := by
  obtain ⟨rank, layout, banks, rfl, kinds, format⟩ := fits
  refine (require_runs ?_).bind (hdest.bind_pair (Runs.get.bind ((require_runs ?_).bind ((decoded_runs hstart).bind
    (.of_not (Bool.eq_false_iff.1 sound) (Runs.modifyGet.bind (hwrite.bind (Runs.change.bind (.change_of .pure)))))))))
  · simp [hform, hrounding]
  · have same : ((banksOf x.v.srca).all fun i => s1.bankKind x.a i == s1.bankKind x.a ((banksOf x.v.srca).headD 0)) = true :=
      List.all_eq_true.2 fun i hi => beq_iff_eq.2 (kinds i hi)
    rw [same, format]
    simp [rank, layout, banks]

theorem mzeroBody_runs (hform : ({ dst := kAcc, ext := .no } : Form).ok x.a.q x.v = true) (hstart : x.a.decode = false) :
    Runs (mzeroBody x) s true (s.setBanks x.a.c x.a.k (banksOf x.v.dst) .none) :=
  (require_runs hform).bind ((decoded_runs hstart).bind (Runs.change.bind .pure))

end

end Sys2Proof.Machine
end

section
open Sys2Proof Sys2Proof.Machine

theorem Sys2Proof.Claims.matrixMultiply : Sys2Proof.Claims.MatrixMultiply := by
  intro c k u e starts a b xa xb la lb kind four scaled s s1 s2 begins hform sound x acc ta tb m n banks operands pair grade
    loadableA loadableB inner scalesA scalesB fit kinds arrived alone loads
  have fits : MmaFits s1 x a b xa xb kind four scaled :=
    ⟨pair, grade, loadableA, loadableB, inner, scalesA, scalesB, fit, kinds⟩
  exact completes_done rfl begins (mmaBody_runs (x := x) hform rfl sound operands fits ⟨arrived, alone⟩ loads) rfl

theorem Sys2Proof.Claims.matrixDrain : Sys2Proof.Claims.MatrixDrain := by
  intro c k u e starts d s s1 s2 begins hform sound x rounding banks kind n m rnd places drained hrounding hdest rank layout fit kinds
    format hwrite noted marked
  have fits : DrainFits s1 x d kind := ⟨rank, layout, fit, rfl, kinds, format⟩
  refine completes_done rfl begins (mdrainBody_runs (x := x) hform hrounding rfl sound hdest fits hwrite) ⟨rfl, ?_⟩
  intro clear todo answered i hi
  have cleared : ((marked.done x.a).core c k).banks = _ := done_banks_written todo answered
  show ((marked.done x.a).core c k).banks.look {} i = _
  rw [cleared, setBanks_look, clear, if_pos hi]

theorem Sys2Proof.Claims.matrixZero : Sys2Proof.Claims.MatrixZero := by
  intro c k u e starts s begins hform m
  refine completes_done rfl begins (mzeroBody_runs (x := ctxOf s c k .m u e) hform rfl)
    ⟨rfl, fun b hb => ?_, fun b hb => ?_, done_banks_kept⟩
  · rw [setBanks_look, if_pos hb]
  · rw [setBanks_look, if_neg hb]

/-- Settles O20: the bodies of the three verbs run step by step, and the banks that the end of a verb sets. -/
theorem matrixVerbs : Obligations.MatrixVerbs :=
  ⟨Sys2Proof.Claims.matrixMultiply, Sys2Proof.Claims.matrixDrain, Sys2Proof.Claims.matrixZero⟩

end

/-! ## The vector verbs: VMAP, VRED, VSMAX, VNORM and VSAMPLE (R136 to R147) -/

section
namespace Sys2Proof.Machine

/-! ### Operands looked up, a core changed twice, and functions of free values over a list -/

section
variable {α β : Type}

/-- A member of a family set twice is set to the later value. -/
theorem Tbl.put_put {x y : α} {n : Nat} (t : Tbl α) : Tbl.put n y (Tbl.put n x t) = Tbl.put n y t := by
  induction t with
  | nil => simp [Tbl.put]
  | cons kv r ih =>
    by_cases below : n < kv.1
    · simp [Tbl.put, below]
    · by_cases here : n = kv.1
      · simp [Tbl.put, here]
      · simp [Tbl.put, below, here, ih]

theorem modCore_modCore {s : State} {c k : Nat} {f g : CoreSt → CoreSt} :
    (s.modCore c k f).modCore c k g = s.modCore c k fun y => g (f y) := by
  simp only [State.modCore, Tbl.upd, Tbl.look_put_self, Tbl.put_put]

/-- A function that leaves the free values alone, over a list. -/
theorem mapList_eq_map {f : α → State → β × State} {g : α → β} (h : ∀ a s, f a s = (g a, s)) (l : List α) (s : State) :
    State.mapList f l s = (l.map g, s) := by
  induction l with
  | nil => rfl
  | cons a l ih =>
    simp only [State.mapList, h]
    rw [ih]
    rfl

theorem beq_decide_of_iff {m n : Nat} {p : Prop} [Decidable p] (h : m = n ↔ p) : ((m == n) == decide p) = true := by
  rw [beq_iff_eq, Bool.beq_eq_decide_eq, decide_eq_decide]
  exact h

variable {s t r : State} {x : Ctx} {d a : Tensor} {v : α}

theorem Runs.exists_of_given {m : VM (Option β)} {f : β → VM α} (h : Runs (do let y ← given (← m); f y) s v r) :
    ∃ y t, Runs (m >>= given) s y t ∧ Runs (f y) t v r := by
  obtain ⟨_, _, found, h⟩ := h.exists_of_bind
  obtain ⟨y, t, have_y, h⟩ := h.exists_of_bind
  exact ⟨y, t, found.bind have_y, h⟩

/-- The destination and the first source of a verb that has both. -/
def LooksUp (x : Ctx) (s : State) (d a : Tensor) (s1 : State) : Prop :=
  ∃ t, Runs (useDest x x.v.dst x.v.offsDst {} >>= given) s d t ∧ Runs (useSource x x.v.srca x.v.offsA {} >>= given) t a s1

theorem LooksUp.bind {f : Tensor → Tensor → VM α} (h : LooksUp x s d a t) (hf : Runs (f d a) t v r) :
    Runs (do
      let d ← given (← useDest x x.v.dst x.v.offsDst {})
      let a ← given (← useSource x x.v.srca x.v.offsA {})
      f d a) s v r := by
  obtain ⟨_, hd, ha⟩ := h
  exact hd.bind_pair (ha.bind_pair hf)

theorem LooksUp.exists_of_bind {f : Tensor → Tensor → VM α} (h : Runs (do
      let d ← given (← useDest x x.v.dst x.v.offsDst {})
      let a ← given (← useSource x x.v.srca x.v.offsA {})
      f d a) s v r) : ∃ d a t, LooksUp x s d a t ∧ Runs (f d a) t v r := by
  obtain ⟨d, _, hd, h⟩ := h.exists_of_given
  obtain ⟨a, t, ha, h⟩ := h.exists_of_given
  exact ⟨d, a, t, ⟨_, hd, ha⟩, h⟩

/-- VSTAT has taken what a vector verb wrote (R147). -/
def State.vectorNoted (s : State) (x : Ctx) (fmt : Nat) (out : List Nat) (clipped sampleNan : Bool) : State :=
  s.modCore x.a.c x.a.k fun y => { y with stat := y.stat.noteVector fmt out clipped sampleNan }

theorem noteVector_runs {fmt : Nat} {out : List Nat} {clipped sampleNan : Bool} :
    Runs (noteVector x fmt out clipped sampleNan) s () (s.vectorNoted x fmt out clipped sampleNan) := Runs.change

end

/-! ### VMAP (R137 to R141) -/

section
variable {x : Ctx} {s t1 t2 t3 s1 s2 s3 : State} {d a : Tensor} {oa ob oc : Option Tensor}

/-- The work of a VMAP with its operands, by the kind of its function. -/
def VmapWorks (x : Ctx) (d : Tensor) (oa ob oc : Option Tensor) (s t : State) : Prop :=
  if x.v.mode = 0x40 then Runs (urandBody x d) s () t
  else ∃ a, oa = some a ∧
    if x.v.mode = 0x39 then ∃ b, ob = some b ∧ Runs (mxqBody x d a b.view) s () t
    else if x.v.mode = 0x3A then ∃ b, ob = some b ∧ Runs (mxdqBody x d a b.view) s () t
    else if 0x30 ≤ x.v.mode ∧ x.v.mode ≤ 0x34 then ∃ b, ob = some b ∧ Runs (integerBody x x.v.mode d a b) s () t
    else Runs (laneBody x x.v.mode d a ob oc) s () t

/-- A FUNC code of a function on lanes. -/
structure OnLanes (func : Nat) : Prop where
  no_draw : func ≠ 0x40
  no_quantise : func ≠ 0x39
  no_restore : func ≠ 0x3A
  no_integer : ¬ (0x30 ≤ func ∧ func ≤ 0x34)

theorem vmapWorks_of_lanes (h : OnLanes x.v.mode) (lanes : Runs (laneBody x x.v.mode d a ob oc) s () s1) :
    VmapWorks x d (some a) ob oc s s1 := by
  obtain ⟨no_draw, no_quantise, no_restore, no_integer⟩ := h
  rw [VmapWorks, if_neg no_draw]
  refine ⟨a, rfl, ?_⟩
  rwa [if_neg no_quantise, if_neg no_restore, if_neg no_integer]

/-- A VMAP has the sources its function takes, and MXQ and MXDQ their scales in a noun. -/
structure VmapSources (v : Verb) (sources : Nat) (wide : Bool) : Prop where
  func : funcSources v.mode = some (sources, wide)
  first : (parseOperand v.srca).kind = kNone ↔ sources < 1
  second : (parseOperand v.srcb).kind = kNone ↔ sources < 2
  third : (parseOperand v.srcc).kind = kNone ↔ sources < 3
  scale : v.mode = 0x39 ∨ v.mode = 0x3A → (parseOperand v.srcb).kind = kNoun

/-- The work of a VMAP on an operand that it must have. -/
theorem given_works {work : Tensor → VM Unit} (h : ∃ b, ob = some b ∧ Runs (work b) s () s1) :
    Runs (do work (← given ob); pure true) s true s1 := by
  obtain ⟨b, rfl, h⟩ := h
  exact (given_runs rfl).bind (h.bind .pure)

theorem vmapBody_runs {sources : Nat} {wide : Bool} (hform : vmapForm.ok x.a.q x.v = true) (takes : VmapSources x.v sources wide)
    (hd : Runs (useDest x x.v.dst x.v.offsDst {} >>= given) s d t1) (ha : Runs (useSource x x.v.srca x.v.offsA {}) t1 oa t2)
    (hb : Runs (useSource x x.v.srcb x.v.offsB { written := x.v.mode == 0x39 }) t2 ob t3)
    (hc : Runs (useSource x x.v.srcc x.v.offsC {}) t3 oc s1) (layouts : vectorLayouts (d :: [oa, ob, oc].filterMap id) = true)
    (works : VmapWorks x d oa ob oc s1 s2) : Runs (vmapBody x) s true s2 := by
  obtain ⟨func, first, second, third, scale⟩ := takes
  unfold vmapBody
  simp only [func]
  refine (require_runs ?checks).bind (hd.bind_pair (ha.bind (hb.bind (hc.bind ((require_runs layouts).bind ?work)))))
  case checks =>
    have scaled : (!(x.v.mode == 0x39 || x.v.mode == 0x3A) || (parseOperand x.v.srcb).kind == kNoun) = true := by
      by_cases mx : x.v.mode = 0x39 ∨ x.v.mode = 0x3A
      · simp [scale mx]
      · simp [not_or.1 mx]
    rw [hform, beq_decide_of_iff first, beq_decide_of_iff second, beq_decide_of_iff third, scaled]
    rfl
  case work =>
    unfold VmapWorks at works
    by_cases draw : x.v.mode = 0x40
    · rw [if_pos draw] at works ⊢
      exact works.bind .pure
    rw [if_neg draw] at works ⊢
    obtain ⟨a, rfl, works⟩ := works
    refine (given_runs rfl).bind ?_
    by_cases quantise : x.v.mode = 0x39
    · rw [if_pos quantise] at works ⊢
      exact given_works works
    rw [if_neg quantise] at works ⊢
    by_cases restore : x.v.mode = 0x3A
    · rw [if_pos restore] at works ⊢
      exact given_works works
    rw [if_neg restore] at works ⊢
    by_cases integer : 0x30 ≤ x.v.mode ∧ x.v.mode ≤ 0x34
    · rw [if_pos integer] at works
      rw [if_pos (by simpa using integer)]
      exact given_works works
    · rw [if_neg integer] at works
      rw [if_neg (by simpa using integer)]
      exact works.bind .pure

/-- The formats of a lane function's operands. -/
def laneFormats (d a : Tensor) (ob oc : Option Tensor) : List Nat := d.fmt :: a.fmt :: ([ob, oc].filterMap id).map Tensor.fmt

/-- The elements of a source, broadcast, at some indices of the destination; none of an operand not named. -/
def readBroadcast (x : Ctx) (idx : List (List Int)) : Option Tensor → VM (List Nat)
  | none => pure []
  | some t => readTensor x t (idx.map t.broadcast)

/-- The lane values of a source's elements; NaN for an operand not named. -/
def laneValues (lane : Nat) (idx : List (List Int)) (raws : List Nat) : Option Tensor → List Num
  | none => idx.map fun _ => .nan
  | some t => raws.map (laneValue lane t.fmt)

/-- The operands of a lane function fit its destination and lanes (R137, R138). -/
structure LanesFit (func : Nat) (wide : Bool) (d a : Tensor) (ob oc : Option Tensor) : Prop where
  formats : ∀ f ∈ laneFormats d a ob oc, vectorFormat f = true
  exts : a.exts = d.exts
  others : ∀ t ∈ [ob, oc].filterMap id, t.fits d = true
  lanes : laneFormat (laneFormats d a ob oc) = fmtFP64 → wide = true
  quantised : func = 0x38 → d.fmt = fmtINT4 ∨ d.fmt = fmtINT8 ∨ d.fmt = fmtINT32

/-- The function of the lane values found at each index, with the state behind its free values. -/
def State.laneResult (s : State) (x : Ctx) (d a : Tensor) (ob oc : Option Tensor) (ra rb rc : List Nat) : List Num × State :=
  let lane := laneFormat (laneFormats d a ob oc)
  let values := laneValues lane (indices d.exts)
  State.mapList (fun (t : Num × Num × Num) s => s.lane lane x.v.mode t.1 t.2.1 t.2.2 (valueOf fmtFP32 x.v.imm))
    ((values ra (some a)).zip ((values rb ob).zip (values rc oc))) s

/-- Lane results rounded once into the destination's format. -/
def laneRounded (x : Ctx) (d : Tensor) (ys : List Num) : List Rounded := ys.map (roundInto d.fmt (if x.v.mode = 0x01 then .sat else .ne))

theorem laneBody_runs {sources : Nat} {wide : Bool} {ra rb rc : List Nat} (func : funcSources x.v.mode = some (sources, wide))
    (hstart : x.a.decode = false) (fits : LanesFit x.v.mode wide d a ob oc)
    (ha : Runs (readBroadcast x (indices d.exts) (some a)) s ra t1) (hb : Runs (readBroadcast x (indices d.exts) ob) t1 rb t2)
    (hc : Runs (readBroadcast x (indices d.exts) oc) t2 rc s1)
    (hwrite : let ys := s1.laneResult x d a ob oc ra rb rc
      Runs (writeTensor x d ((indices d.exts).zip ((laneRounded x d ys.1).map (·.raw))) true) ys.2 () s2) :
    let out := laneRounded x d (s1.laneResult x d a ob oc ra rb rc).1
    Runs (laneBody x x.v.mode d a ob oc) s ()
      (s2.vectorNoted x d.fmt (out.map (·.raw)) ((x.v.mode = 0x01 || x.v.mode = 0x38) && out.any (·.clipped)) false) := by
  obtain ⟨formats, exts, others, lanes, quantised⟩ := fits
  have values {o : Option Tensor} {lane : Nat} {raws : List Nat} {s t : State} (h : Runs (readBroadcast x (indices d.exts) o) s raws t) :
      Runs (match o with
        | none => pure ((indices d.exts).map fun _ => Num.nan)
        | some t => do
          let raws ← readTensor x t ((indices d.exts).map t.broadcast)
          pure (raws.map (laneValue lane t.fmt))) s (laneValues lane (indices d.exts) raws o) t := by
    cases o with
    | none => cases h; exact .pure
    | some t => exact Runs.bind h .pure
  refine (require_runs ?checks).bind ((decoded_runs hstart).bind ((values ha).bind ((values hb).bind ((values hc).bind
    (Runs.modifyGet.bind (hwrite.bind noteVector_runs))))))
  case checks =>
    have runnable : (laneFormat (laneFormats d a ob oc) != fmtFP64 || (match funcSources x.v.mode with
        | some (_, ok) => ok
        | none => false)) = true := by
      rw [func]
      by_cases fp64 : laneFormat (laneFormats d a ob oc) = fmtFP64
      · simp [lanes fp64]
      · simp [fp64]
    have quantisable : (x.v.mode != 0x38 || [fmtINT4, fmtINT8, fmtINT32].contains d.fmt) = true := by
      by_cases quantise : x.v.mode = 0x38
      · simpa using Or.inr (quantised quantise)
      · simp [quantise]
    have fitting : (((laneFormats d a ob oc).all vectorFormat && a.exts == d.exts) && ([ob, oc].filterMap id).all (·.fits d)) = true := by
      rw [List.all_eq_true.2 formats, List.all_eq_true.2 others, exts]
      simp
    exact Bool.and_eq_true_iff.2 ⟨Bool.and_eq_true_iff.2 ⟨fitting, runnable⟩, quantisable⟩

end

/-! ### VRED (R142) -/

section
variable {x : Ctx} {s s1 s2 s3 : State} {op dim : Nat} {d a : Tensor} {raws : List Nat}

/-- The indices of a VRED's source, row after row. -/
def reducedIndices (dim : Nat) (d a : Tensor) : List (List Int) :=
  (indices d.exts).flatMap fun i => (List.range (a.ext dim)).map fun (j : Nat) => setAt i dim (j : Int)

/-- The lane values of a VRED's source, row by row. -/
def laneRows (dim : Nat) (d a : Tensor) (raws : List Nat) : List (List Num) :=
  (List.range (indices d.exts).length).map fun i =>
    ((raws.drop (a.ext dim * i)).take (a.ext dim)).map (laneValue (laneFormat [a.fmt, d.fmt]) a.fmt)

/-- Each row reduced to the bit pattern of one element. -/
def State.reduceRows (s : State) (op dim : Nat) (d a : Tensor) (raws : List Nat) : List Nat × State :=
  State.mapList (fun xs s => s.reduceRow op (laneFormat [a.fmt, d.fmt]) d.fmt xs) (laneRows dim d a raws) s

/-- A largest or smallest element takes no free value. -/
theorem reduceRow_extreme {lane fmt : Nat} (hop : op = 1 ∨ op = 2) (xs : List Num) (s : State) :
    s.reduceRow op lane fmt xs = ((roundInto fmt .ne (xs.foldl (Num.pick (op == 1)) (xs.headD .nan))).raw, s) := by
  rcases hop with rfl | rfl <;> rfl

/-- The place of a largest or smallest element takes no free value. -/
theorem reduceRow_place {lane fmt : Nat} (hop : op = 3 ∨ op = 4) (xs : List Num) (s : State) :
    s.reduceRow op lane fmt xs = (argExtreme (op == 3) xs, s) := by
  rcases hop with rfl | rfl <;> rfl

/-- The operands of a VRED fit each other and the reduction. -/
structure VredFits (op dim : Nat) (d a : Tensor) : Prop where
  layouts : vectorLayouts [d, a] = true
  dim_lt : dim < a.rank
  exts : d.exts = a.exts.set dim 1
  source : vectorFormat a.fmt = true
  dest : vectorFormat d.fmt = true
  index : op = 3 ∨ op = 4 → d.fmt = fmtUINT32

theorem vredBody_runs (hform : vredForm.ok x.a.q x.v = true) (hstart : x.a.decode = false) (hop : bits x.v.mode 0 3 ≤ 5)
    (operands : LooksUp x s d a s1) (fits : VredFits (bits x.v.mode 0 3) (bits x.v.mode 3 3) d a)
    (hread : Runs (readTensor x a (reducedIndices (bits x.v.mode 3 3) d a)) s1 raws s2)
    (hwrite : let out := s2.reduceRows (bits x.v.mode 0 3) (bits x.v.mode 3 3) d a raws
      Runs (writeTensor x d ((indices d.exts).zip out.1) true) out.2 () s3) :
    Runs (vredBody x) s true
      (s3.vectorNoted x d.fmt (s2.reduceRows (bits x.v.mode 0 3) (bits x.v.mode 3 3) d a raws).1 false false) := by
  obtain ⟨layouts, dim_lt, exts, source, dest, index⟩ := fits
  refine (require_runs ?form).bind (operands.bind ((require_runs ?fits).bind ((decoded_runs hstart).bind (hread.bind
    (Runs.modifyGet.bind (hwrite.bind (noteVector_runs.bind .pure)))))))
  case form => simp [hform, hop]
  case fits =>
    have indexed : ((bits x.v.mode 0 3 != 3 && bits x.v.mode 0 3 != 4) || d.fmt == fmtUINT32) = true := by
      by_cases place : bits x.v.mode 0 3 = 3 ∨ bits x.v.mode 0 3 = 4
      · simp [index place]
      · simp [not_or.1 place]
    rw [indexed]
    simp [layouts, dim_lt, exts, source, dest]

end

/-! ### VSMAX (R143) -/

section
variable {x : Ctx} {s t s1 s2 s3 : State} {d a : Tensor} {st : Option Tensor} {raws : List Nat}

/-- An index that the causal mask hides (R143). -/
def softmaxMasked (x : Ctx) (i : List Int) : Bool := bit x.v.mode 0 && decide (i.getD 0 0 > i.getD 1 0 + signed 32 x.v.imm)

/-- Each row's softmax, maximum and sum over its unmasked elements. -/
def State.softmaxRows (s : State) (x : Ctx) (a : Tensor) (raws : List Nat) : List (List Num × Num × Num) × State :=
  let vals := ((indices a.exts).zip raws).map fun (i, r) => if softmaxMasked x i then none else some (laneValue fmtFP32 a.fmt r)
  State.mapList (fun (r : Nat) s => s.softmaxRow ((vals.drop (a.ext 0 * r)).take (a.ext 0))) (List.range (a.ext 1)) s

/-- The quotients rounded into the destination's format. -/
def softmaxOut (d : Tensor) (rows : List (List Num × Num × Num)) : List Nat :=
  rows.flatMap fun r => r.1.map fun v => (roundInto d.fmt .ne v).raw

/-- The rows' maxima and sums with their places in the statistics operand. -/
def softmaxStats (a : Tensor) (rows : List (List Num × Num × Num)) : List (List Int × Nat) :=
  (List.range (a.ext 1)).flatMap fun (i : Nat) =>
    [([0, Int.ofNat i], (roundInto fmtFP32 .ne (rows.getD i ([], .nan, .nan)).2.1).raw),
     ([1, Int.ofNat i], (roundInto fmtFP32 .ne (rows.getD i ([], .nan, .nan)).2.2).raw)]

/-- What a VSMAX writes: its rows, and their statistics where an operand for them is named. -/
def softmaxPlans (d a : Tensor) (st : Option Tensor) (rows : List (List Num × Num × Num)) : List Plan :=
  planVia d d.view.noun.path ((indices a.exts).zip (softmaxOut d rows)) true ::
    (st.map fun t => planVia t t.view.noun.path (softmaxStats a rows) true).toList

/-- VSTAT has taken what a VSMAX wrote to either operand. -/
def State.softmaxNoted (s : State) (x : Ctx) (d a : Tensor) (st : Option Tensor) (rows : List (List Num × Num × Num)) : State :=
  s.modCore x.a.c x.a.k fun y =>
    let noted := y.stat.noteVector d.fmt (softmaxOut d rows) false false
    { y with stat := if st.isSome then noted.noteVector fmtFP32 ((softmaxStats a rows).map (·.2)) false false else noted }

theorem softmaxNoted_some {rows : List (List Num × Num × Num)} {t : Tensor} : s.softmaxNoted x d a (some t) rows
    = (s.vectorNoted x d.fmt (softmaxOut d rows) false false).vectorNoted x fmtFP32 ((softmaxStats a rows).map (·.2)) false false := by
  unfold State.vectorNoted
  rw [modCore_modCore]
  rfl

/-- The operands of a VSMAX are matrices of one shape in formats of FP32 lanes, with two statistics for each row (R143). -/
structure VsmaxFits (d a : Tensor) (st : Option Tensor) : Prop where
  layouts : vectorLayouts (d :: a :: [st].filterMap id) = true
  rank : a.rank = 2
  exts : d.exts = a.exts
  source : vectorFormat a.fmt = true
  dest : vectorFormat d.fmt = true
  source_narrow : a.fmt ≠ fmtFP64
  dest_narrow : d.fmt ≠ fmtFP64
  stats : ∀ t, st = some t → t.fmt = fmtFP32 ∧ t.exts = [2, a.ext 1]

theorem vsmaxBody_runs (hform : vsmaxForm.ok x.a.q x.v = true) (hstart : x.a.decode = false)
    (causal : bit x.v.mode 0 = true ∨ x.v.imm = 0) (operands : LooksUp x s d a t)
    (hstats : Runs (useSource x x.v.srcc x.v.offsC { written := true }) t st s1) (fits : VsmaxFits d a st)
    (hread : Runs (readTensor x a (indices a.exts)) s1 raws s2)
    (hwrite : Runs (commitAll x (softmaxPlans d a st (s2.softmaxRows x a raws).1)) (s2.softmaxRows x a raws).2 () s3) :
    Runs (vsmaxBody x) s true (s3.softmaxNoted x d a st (s2.softmaxRows x a raws).1) := by
  obtain ⟨layouts, rank, exts, source, dest, source_narrow, dest_narrow, stats⟩ := fits
  have form : (vsmaxForm.ok x.a.q x.v && (bit x.v.mode 0 || x.v.imm == 0)) = true := by
    rcases causal with h | h <;> simp [hform, h]
  cases st with
  | none =>
    refine (require_runs form).bind (operands.bind (hstats.bind ((require_runs ?_).bind ((decoded_runs hstart).bind (hread.bind
      (Runs.modifyGet.bind (hwrite.bind (noteVector_runs.bind (.of_not Bool.false_ne_true .pure)))))))))
    rw [layouts]
    simp [rank, exts, source, dest, source_narrow, dest_narrow]
  | some t =>
    obtain ⟨stats_fmt, stats_exts⟩ := stats t rfl
    rw [softmaxNoted_some]
    refine (require_runs form).bind (operands.bind (hstats.bind ((require_runs ?_).bind ((decoded_runs hstart).bind (hread.bind
      (Runs.modifyGet.bind (hwrite.bind (noteVector_runs.bind (noteVector_runs.bind .pure)))))))))
    rw [layouts]
    simp [rank, exts, source, dest, source_narrow, dest_narrow, stats_fmt, stats_exts]

end

/-! ### VNORM (R144) -/

section
variable {x : Ctx} {s t1 t2 t3 t4 s1 s2 s3 : State} {d a g : Tensor} {b : Option Tensor} {raws gains : List Nat}
  {biases : Option (List Nat)}

/-- The indices of a row's gains, and of its biases. -/
def paramIndices (a : Tensor) : List (List Int) := (List.range (a.ext 0)).map fun (i : Nat) => [Int.ofNat i]

/-- The elements of a VNORM's bias, where one is named. -/
def readBias (x : Ctx) (a : Tensor) : Option Tensor → VM (Option (List Nat))
  | none => pure none
  | some t => do return some (← readTensor x t (paramIndices a))

/-- A bias for each place of a row, or none for any. -/
def biasValues (a : Tensor) : Option Tensor → Option (List Nat) → List (Option Num)
  | some t, some raws => raws.map fun r => some (laneValue fmtFP32 t.fmt r)
  | _, _ => (paramIndices a).map fun _ => none

theorem biasValues_some {t : Tensor} {rs : List Nat} :
    biasValues a (some t) (some rs) = (rs.map (laneValue fmtFP32 t.fmt)).map some := List.map_map.symm

/-- The rows normalised. -/
def State.normRows (s : State) (x : Ctx) (a : Tensor) (raws : List Nat) : List (List Num) × State :=
  let vals := raws.map (laneValue fmtFP32 a.fmt)
  State.mapList (fun (r : Nat) s => s.normRow (x.v.mode = 1) (valueOf fmtFP32 x.v.imm) ((vals.drop (a.ext 0 * r)).take (a.ext 0)))
    (List.range (if a.rank = 2 then a.ext 1 else 1)) s

/-- The rows times the gain and plus the bias, rounded into the destination's format. -/
def normOut (d : Tensor) (rows : List (List Num)) (gain : List Num) (bias : List (Option Num)) : List Nat :=
  rows.flatMap fun ys => (ys.zip (gain.zip bias)).map fun (y, g, b) =>
    (roundInto d.fmt .ne (match b with
      | none => y.mul g
      | some b => (roundTo fmtFP32 (y.mul g)).add b)).raw

/-- The operands of a VNORM fit each other (R144). -/
structure VnormFits (d a g : Tensor) (b : Option Tensor) : Prop where
  layouts : vectorLayouts (d :: a :: g :: [b].filterMap id) = true
  rank : a.rank ≤ 2
  exts : d.exts = a.exts
  formats : ∀ f ∈ d.fmt :: a.fmt :: (g :: [b].filterMap id).map Tensor.fmt, vectorFormat f = true ∧ f ≠ fmtFP64
  params : ∀ t ∈ g :: [b].filterMap id, t.exts = [a.ext 0]

theorem VnormFits.ok (h : VnormFits d a g b) :
    (vectorLayouts (d :: a :: g :: [b].filterMap id) && decide (a.rank ≤ 2) && d.exts == a.exts
      && (d.fmt :: a.fmt :: (g :: [b].filterMap id).map Tensor.fmt).all vectorFormat
      && !(d.fmt :: a.fmt :: (g :: [b].filterMap id).map Tensor.fmt).contains fmtFP64
      && (g :: [b].filterMap id).all fun t => t.exts == [a.ext 0]) = true := by
  obtain ⟨layouts, rank, exts, formats, params⟩ := h
  have narrow : (d.fmt :: a.fmt :: (g :: [b].filterMap id).map Tensor.fmt).contains fmtFP64 = false := by
    rw [List.contains_eq_mem]
    exact decide_eq_false fun h => (formats _ h).2 rfl
  rw [layouts, decide_eq_true rank, exts, List.all_eq_true.2 fun f hf => (formats f hf).1, narrow,
    List.all_eq_true.2 fun t ht => beq_iff_eq.2 (params t ht)]
  simp

theorem vnormBody_runs (hform : vnormForm.ok x.a.q x.v = true) (hstart : x.a.decode = false) (hmode : x.v.mode ≤ 1)
    (operands : LooksUp x s d a t1) (hg : Runs (useSource x x.v.srcb x.v.offsB {} >>= given) t1 g t2)
    (hb : Runs (useSource x x.v.srcc x.v.offsC {}) t2 b s1) (fits : VnormFits d a g b)
    (hread : Runs (readTensor x a (indices a.exts)) s1 raws t3) (hgains : Runs (readTensor x g (paramIndices a)) t3 gains t4)
    (hbias : Runs (readBias x a b) t4 biases s2)
    (hwrite : let rows := s2.normRows x a raws
      Runs (writeTensor x d ((indices a.exts).zip (normOut d rows.1 (gains.map (laneValue fmtFP32 g.fmt)) (biasValues a b biases))) true)
        rows.2 () s3) :
    Runs (vnormBody x) s true (s3.vectorNoted x d.fmt
      (normOut d (s2.normRows x a raws).1 (gains.map (laneValue fmtFP32 g.fmt)) (biasValues a b biases)) false false) := by
  have values {t : Tensor} {rs : List Nat} {r r' : State} (h : Runs (readTensor x t (paramIndices a)) r rs r') :
      Runs (do pure ((← readTensor x t (paramIndices a)).map (laneValue fmtFP32 t.fmt))) r (rs.map (laneValue fmtFP32 t.fmt)) r' :=
    h.bind .pure
  refine (require_runs (by simp [hform, hmode])).bind (operands.bind (hg.bind_pair (hb.bind ((require_runs fits.ok).bind
    ((decoded_runs hstart).bind (hread.bind ((values hgains).bind ?_)))))))
  cases b with
  | none =>
    cases hbias
    exact Runs.pure.bind (Runs.modifyGet.bind (hwrite.bind (noteVector_runs.bind .pure)))
  | some t =>
    obtain ⟨rs, _, hbias, done⟩ := hbias.exists_of_bind
    cases done
    rw [biasValues_some] at hwrite ⊢
    exact (values hbias).bind (Runs.pure.bind (Runs.modifyGet.bind (hwrite.bind (noteVector_runs.bind .pure))))

end

/-! ### VSAMPLE (R145) -/

section
variable {x : Ctx} {s t1 t2 s1 s2 s3 : State} {d a : Tensor} {u : Option Tensor} {raws draws : List Nat}

/-- The draws of a VSAMPLE's rows, where it names them. -/
def readDraws (x : Ctx) (a : Tensor) : Option Tensor → VM (List Nat)
  | none => pure ((List.range (a.ext 1)).map fun _ => 0)
  | some t => readTensor x t (indices t.exts)

/-- Each row sampled. -/
def State.sampleRows (s : State) (x : Ctx) (a : Tensor) (raws draws : List Nat) : List (Nat × Bool) × State :=
  let vals := raws.map (laneValue fmtFP32 a.fmt)
  State.mapList (fun (r : Nat) s =>
    let row := (vals.drop (a.ext 0 * r)).take (a.ext 0)
    if bit x.v.mode 0 then (if row.any Num.isNan then (0xFFFFFFFF, true) else (argExtreme true row, false), s)
    else s.sampleRow x.v.imm row (draws.getD r 0)) (List.range (a.ext 1)) s

/-- The operands of a VSAMPLE fit each other (R145). -/
structure VsampleFits (d a : Tensor) (u : Option Tensor) : Prop where
  layouts : vectorLayouts (d :: a :: [u].filterMap id) = true
  rank : a.rank = 2
  dest : d.fmt = fmtUINT32
  count : d.count = a.ext 1
  source : vectorFormat a.fmt = true
  narrow : a.fmt ≠ fmtFP64
  draws : ∀ t, u = some t → t.fmt = fmtFP32 ∧ t.count = a.ext 1

theorem vsampleBody_runs (hform : vsampleForm.ok x.a.q x.v = true) (hstart : x.a.decode = false)
    (drawn : (parseOperand x.v.srcb).kind = kNone ↔ bit x.v.mode 0 = true) (operands : LooksUp x s d a t1)
    (hr : Runs (useSource x x.v.srcb x.v.offsB {}) t1 u s1) (fits : VsampleFits d a u)
    (hread : Runs (readTensor x a (indices a.exts)) s1 raws t2) (hdraws : Runs (readDraws x a u) t2 draws s2)
    (hwrite : let rows := s2.sampleRows x a raws draws
      Runs (writeTensor x d ((indices d.exts).zip (rows.1.map (·.1))) true) rows.2 () s3) :
    let rows := (s2.sampleRows x a raws draws).1
    Runs (vsampleBody x) s true (s3.vectorNoted x d.fmt (rows.map (·.1)) false (rows.any (·.2))) := by
  obtain ⟨layouts, rank, dest, count, source, narrow, draws⟩ := fits
  refine (require_runs ?form).bind (operands.bind (hr.bind ((require_runs ?fits).bind ((decoded_runs hstart).bind (hread.bind ?_)))))
  case form =>
    have agrees := beq_decide_of_iff drawn
    rw [Bool.decide_eq_true] at agrees
    rw [hform, agrees]
    rfl
  case fits =>
    rw [layouts]
    cases u with
    | none => simp [rank, dest, count, source, narrow]
    | some t =>
      obtain ⟨draws_fmt, draws_count⟩ := draws t rfl
      simp [rank, dest, count, source, narrow, draws_fmt, draws_count]
  cases u <;> exact hdraws.bind (Runs.modifyGet.bind (hwrite.bind (noteVector_runs.bind .pure)))

end
end Sys2Proof.Machine
end

section
open Sys2Proof Sys2Proof.Machine

theorem Sys2Proof.Claims.vectorMap : Sys2Proof.Claims.VectorMap := by
  intro c k sources wide u e starts d oa ob oc s s1 s2 begins hform func first second third scale x mode operands layouts
  have takes : VmapSources x.v sources wide := ⟨func, first, second, third, scale⟩
  have works {t : State} (h : VmapWorks x d oa ob oc s1 t) : Completes (.vmap c k u) s fun r => r = t.done x.a := by
    obtain ⟨_, _, hd, operands⟩ := operands.exists_of_given
    obtain ⟨_, _, ha, operands⟩ := operands.exists_of_bind
    obtain ⟨_, _, hb, operands⟩ := operands.exists_of_bind
    obtain ⟨_, _, hc, operands⟩ := operands.exists_of_bind
    cases operands
    exact completes_done rfl begins (vmapBody_runs (x := x) hform takes hd ha hb hc layouts h) rfl
  refine ⟨works, ?_⟩
  rintro a ra rb rc s3 rfl no_draw no_quantise no_restore no_integer fmts lane idx read values formats exts others lanes quantised
    reads ys out hwrite
  have fits : LanesFit x.v.mode wide d a ob oc := ⟨formats, exts, others, lanes, quantised⟩
  obtain ⟨_, _, ha, hb, hc⟩ := Runs.exists_of_triple (m₁ := readBroadcast x idx (some a)) (m₂ := readBroadcast x idx ob)
    (m₃ := readBroadcast x idx oc) reads
  exact works (vmapWorks_of_lanes ⟨no_draw, no_quantise, no_restore, no_integer⟩ (laneBody_runs func rfl fits ha hb hc hwrite))

theorem Sys2Proof.Claims.vectorReduce : Sys2Proof.Claims.VectorReduce := by
  intro c k u e starts d a raws s s1 s2 begins hform x op dim n idx lane rows hop operands layouts dim_lt exts source dest index hread ends
  have fits : VredFits op dim d a := ⟨layouts, dim_lt, exts, source, dest, index⟩
  obtain ⟨_, _, _, found, operands⟩ := LooksUp.exists_of_bind operands
  cases operands
  have reduces (s4 : State) : ends (s2.reduceRows op dim d a raws).1 (s2.reduceRows op dim d a raws).2 s4 := fun hwrite =>
    completes_done rfl begins (vredBody_runs (x := x) hform rfl hop found fits hread hwrite) rfl
  refine ⟨reduces, fun extreme s4 => ?_, fun place s4 => ?_⟩
  · have reduced : s2.reduceRows op dim d a raws = (_, s2) := mapList_eq_map (reduceRow_extreme extreme) rows s2
    simpa only [reduced] using reduces s4
  · have reduced : s2.reduceRows op dim d a raws = (_, s2) := mapList_eq_map (reduceRow_place place) rows s2
    simpa only [reduced] using reduces s4

/-- Settles O21: the bodies of VMAP and VRED run step by step; a largest, a smallest and an index take no free value. -/
theorem vectorMapsAndReductions : Obligations.VectorMapsAndReductions :=
  ⟨Sys2Proof.Claims.vectorMap, Sys2Proof.Claims.vectorReduce⟩

theorem Sys2Proof.Claims.vectorSoftmax : Sys2Proof.Claims.VectorSoftmax := by
  intro c k u e starts d a st raws s s1 s2 s4 begins hform causal x idx masked vals rows out stats operands layouts rank exts source dest
    source_narrow dest_narrow stats_fit hread hwrite
  have fits : VsmaxFits d a st := ⟨layouts, rank, exts, source, dest, source_narrow, dest_narrow, stats_fit⟩
  obtain ⟨_, _, _, found, operands⟩ := LooksUp.exists_of_bind operands
  obtain ⟨_, _, hstats, operands⟩ := operands.exists_of_bind
  cases operands
  exact completes_done rfl begins (vsmaxBody_runs (x := x) hform rfl causal found hstats fits hread hwrite) rfl

theorem Sys2Proof.Claims.vectorNormalise : Sys2Proof.Claims.VectorNormalise := by
  intro c k u e starts d a g b raws gains biases s s1 s2 s4 begins hform hmode x params idx cols line vals gain bias rows out operands
    layouts rank exts formats params_fit reads hwrite
  have fits : VnormFits d a g b := ⟨layouts, rank, exts, formats, params_fit⟩
  obtain ⟨_, _, _, found, operands⟩ := LooksUp.exists_of_bind operands
  obtain ⟨_, _, hg, operands⟩ := operands.exists_of_given
  obtain ⟨_, _, hb, operands⟩ := operands.exists_of_bind
  cases operands
  obtain ⟨_, _, hread, reads⟩ := reads.exists_of_bind
  obtain ⟨_, t4, hgains, reads⟩ := reads.exists_of_bind
  cases b with
  | none =>
    cases reads
    exact completes_done rfl begins (vnormBody_runs (x := x) hform rfl hmode found hg hb fits hread hgains .pure hwrite) rfl
  | some t =>
    obtain ⟨_, _, hbias, reads⟩ := reads.exists_of_bind
    cases reads
    exact completes_done rfl begins (vnormBody_runs (x := x) hform rfl hmode found hg hb fits hread hgains (hbias.bind .pure) hwrite) rfl

theorem Sys2Proof.Claims.vectorSample : Sys2Proof.Claims.VectorSample := by
  intro c k u e starts d a r raws draws s s1 s2 s4 begins hform x arg cols vals rows drawn operands layouts rank dest count source narrow
    draws_fit reads hwrite
  have fits : VsampleFits d a r := ⟨layouts, rank, dest, count, source, narrow, draws_fit⟩
  obtain ⟨_, _, _, found, operands⟩ := LooksUp.exists_of_bind operands
  obtain ⟨_, _, hr, operands⟩ := operands.exists_of_bind
  cases operands
  obtain ⟨_, t2, hread, reads⟩ := reads.exists_of_bind
  cases r with
  | none =>
    cases reads
    exact completes_done rfl begins (vsampleBody_runs (x := x) hform rfl drawn found hr fits hread .pure hwrite) rfl
  | some t =>
    obtain ⟨_, _, hdraws, reads⟩ := reads.exists_of_bind
    cases reads
    exact completes_done rfl begins (vsampleBody_runs (x := x) hform rfl drawn found hr fits hread hdraws hwrite) rfl

/-- Settles O22: the bodies of VSMAX, VNORM and VSAMPLE run step by step, what they read and draw named row by row. -/
theorem vectorRowVerbs : Obligations.VectorRowVerbs :=
  ⟨Sys2Proof.Claims.vectorSoftmax, Sys2Proof.Claims.vectorNormalise, Sys2Proof.Claims.vectorSample⟩

end

/-! ## DCOPY, DFLUSH and DAK2 (R101, R102, R163, R174) -/

section
namespace Sys2Proof.Machine

/-- The command of a verb whose body answers completes with the verb done or, where it has work left, started. -/
theorem completes_as {s t : State} {c k op : Nat} {q : Queue} {u : Upset} {e : QEntry} {starts finished : Bool}
    {body : Ctx → VM Bool} {i : Instr} (hi : exec i s = .next (s.issue c k q op u body)) (h : Begins s c k q op u e starts)
    (hb : Runs (body (ctxOf s c k q u e)) (begun s c k q u e starts) finished t) :
    Completes i s fun r => r = if finished = true then t.done (issuerOf s c k q u e)
      else t.modEntry (issuerOf s c k q u e) fun x => { x with phase := .started, worked := false } := by
  cases finished with
  | true => exact completes_done hi h hb rfl
  | false => exact completes_started hi h hb rfl

/-! ### DCOPY (R163) -/

section
variable {x : Ctx} {s s1 s2 s3 : State} {d a : Tensor} {b : Option Tensor} {raws : List Nat}

theorem dcopyBody_runs (hform : (dcopyForm x.v).ok x.a.q x.v = true) (hmode : x.v.mode ≠ 3)
    (operands : Runs (dcopyOperands x) s (d, a, b) s1) (hwork : Runs (dcopyWork x d a b) s1 () s2) :
    Runs (dcopyBody x) s true s2 :=
  (require_runs (by simp [hform, hmode])).bind (operands.bind (hwork.bind .pure))

/-- A verb that releases nothing waits for no peer (R177). -/
theorem awaitPeers_runs (unordered : x.v.ordered 0 = false) : Runs (awaitPeers x) s () s := by
  unfold awaitPeers
  rw [unordered]
  exact .pure

/-- The compressed form an operand of a DCOPY has, 0 where it has none: a port's tiles have none (R281). -/
def Tensor.packing (t : Tensor) : Nat := if t.port.isSome then 0 else t.view.noun.compress

theorem packing_eq_zero {t : Tensor} (h : t.port.isSome = true ∨ t.view.noun.compress = 0) : t.packing = 0 := by
  unfold Tensor.packing
  split
  · rfl
  · next named => exact h.resolve_left named

/-- The operands of a plain DCOPY fit each other (R163). -/
structure CopyFits (d a : Tensor) : Prop where
  dest : d.packing = 0
  source : a.packing = 0
  format : a.fmt = d.fmt
  shape : if a.port.isSome || d.port.isSome then a.count = d.count else a.exts = d.exts

theorem CopyFits.checked (fits : CopyFits d a) :
    (a.fmt == d.fmt && if a.port.isSome || d.port.isSome then a.count == d.count else a.exts == d.exts) = true := by
  obtain ⟨_, _, format, shape⟩ := fits
  split at shape
  · next port => simp [format, port, shape]
  · next nouns => simp [format, nouns, shape]

theorem dcopyWork_plain (hmode : x.v.mode = 0) (unordered : x.v.ordered 0 = false) (hstart : x.a.decode = false)
    (fits : CopyFits d a) (hread : Runs (readVia x a (orderedPath x a.view.noun false) (indices a.exts)) s1 raws s2)
    (hwrite : Runs (writeVia x d (orderedPath x d.view.noun true) ((indices d.exts).zip raws) true) s2 () s3) :
    Runs (dcopyWork x d a none) s1 () s3 := by
  have no_cv : ¬ x.v.usesCv = true := by simp [Verb.usesCv, hmode, bits]
  have dest := fits.dest
  have source := fits.source
  unfold Tensor.packing at dest source
  unfold dcopyWork
  rw [dest, source]
  exact (require_runs rfl).bind (.of_not no_cv ((require_runs fits.checked).bind ((decoded_runs hstart).bind
    ((awaitPeers_runs unordered).bind (hread.bind hwrite)))))

end

/-! ### DFLUSH (R174) -/

section
variable {x : Ctx} {s s1 s2 : State} {v : View} {lines : List Nat}

/-- The device physical lines that begin to be written back for a DFLUSH. -/
def State.flushed (s : State) (x : Ctx) (lines : List Nat) : State :=
  lines.foldl (fun s l => s.writeBackLine x.a.c l x.a.writer x.a.id (bit x.v.mode 0)) s

/-- The lines of a virtual space that a view's footprint touches. -/
def View.footprintLines (v : View) : List Nat :=
  let first := (v.footprint none).1.toNat / 128
  (List.range ((v.footprint none).2.toNat / 128 - first + 1)).map (· + first)

section
variable (hform : ({ srca := kNoun, mode := 1 } : Form).ok x.a.q x.v = true) (hstart : x.a.decode = false)
  (hnoun : Runs (flatNoun x x.v.srca x.v.offsA {}) s v s1) (hflat : v.noun.compress = 0)
include hform hstart hnoun hflat

theorem dflushBody_local (space : v.noun.space ≠ 0) : Runs (dflushBody x) s true s1 :=
  (require_runs hform).bind (hnoun.bind ((require_runs (by simp [allFlat, hflat])).bind ((decoded_runs hstart).bind
    (.of_not space .pure))))

theorem dflushBody_virtual (space : v.noun.space = 0) (hlines : Runs (dramLines x.a v.footprintLines) s1 lines s2) :
    Runs (dflushBody x) s (!(lines.any fun l => (s2.flushed x lines).writingBack x.a.c l)) (s2.flushed x lines) := by
  refine (require_runs hform).bind (hnoun.bind ((require_runs (by simp [allFlat, hflat])).bind ((decoded_runs hstart).bind ?_)))
  rw [if_pos space]
  refine hlines.bind (.bind (.forIn (fun l s => ?_) lines s2) (Runs.get.bind .pure))
  exact Runs.change.bind .pure

end

end

/-! ### DAK2 (R101, R102) -/

section
variable {x : Ctx} {s s1 s2 : State} {v : View} {first size count fuel : Nat} {out finished : Bool}

theorem dak2Loop_taken (taken : count ≤ (s.entry x.a).taken - 1) :
    Runs (dak2Loop x v first size out count (fuel + 1)) s true s := by
  unfold dak2Loop
  refine Runs.get.bind ?_
  rw [if_pos taken]
  exact .pure

theorem dak2Loop_waits (left : (s.entry x.a).taken - 1 < count) (empty : (s.core x.a.c x.a.k).afifo = []) :
    Runs (dak2Loop x v first size out count (fuel + 1)) s false s := by
  unfold dak2Loop
  refine Runs.get.bind (.of_not (Nat.not_le.2 left) ?_)
  rw [empty]
  exact .pure

theorem dak2Body_runs
    (hform : ({ srca := kNoun, mode := 0x1F, imm := 0xFFFF, ext := .no } : Form).ok x.a.q x.v = true)
    (block : bits x.v.mode 0 4 ≤ 6) (blocks : 1 ≤ x.v.imm) (hstart : x.a.decode = false)
    (hnoun : Runs (flatNoun x x.v.srca 0 { written := !bit x.v.mode 4 }) s v s1) (hflat : v.noun.compress = 0)
    (space : v.noun.space = 1)
    (inside : (v.footprint none).1 + x.v.imm * (64 * 2 ^ bits x.v.mode 0 4 : Nat) ≤ (v.footprint none).2 + 1)
    (hloop : Runs (dak2Loop x v (v.footprint none).1.toNat (64 * 2 ^ bits x.v.mode 0 4) (bit x.v.mode 4) x.v.imm 65) s1 finished s2) :
    Runs (dak2Body x) s finished s2 :=
  (require_runs (by simp [hform, block, blocks])).bind (hnoun.bind ((require_runs (by simp [allFlat, hflat, space])).bind
    ((decoded_runs hstart).bind (.of_not (Int.not_lt.2 inside) hloop))))

end

end Sys2Proof.Machine
end

section
open Sys2Proof Sys2Proof.Machine

theorem Sys2Proof.Claims.copiesData : Sys2Proof.Claims.CopiesData := by
  intro c k u e starts d a b s s1 s2 begins hform hmode x operands
  have works {t : State} (hwork : Runs (dcopyWork x d a b) s1 () t) : Completes (.dcopy c k u) s fun r => r = t.done x.a :=
    completes_done rfl begins (dcopyBody_runs (x := x) hform hmode operands hwork) rfl
  refine ⟨works, ?_⟩
  rintro raws s3 plain unordered rfl dest source format shape hread hwrite
  have fits : CopyFits d a := ⟨packing_eq_zero dest, packing_eq_zero source, format, shape⟩
  exact works (dcopyWork_plain plain unordered rfl fits hread hwrite)

theorem Sys2Proof.Claims.flushesLines : Sys2Proof.Claims.FlushesLines := by
  intro c k u e starts v lines s s1 s2 begins hform x hnoun hflat first
  refine ⟨fun space => ?_, fun space hlines => ?_⟩
  · exact completes_done rfl begins (dflushBody_local (x := x) hform rfl hnoun hflat space) rfl
  · have flushes := completes_as (i := .dflush c k u) rfl begins (dflushBody_virtual (x := x) hform rfl hnoun hflat space hlines)
    simp only [Bool.not_eq_true', ← Bool.not_eq_true, ite_not] at flushes
    exact flushes

theorem Sys2Proof.Claims.addressStreamCopies : Sys2Proof.Claims.AddressStreamCopies := by
  intro c k u e starts v s s1 begins hform block blocks x size first hnoun hflat space inside
  have loops {finished : Bool} {t : State} (hloop : Runs (dak2Loop x v first size (bit e.verb.mode 4) e.verb.imm 65) s1 finished t) :=
    completes_as (i := .dak2 c k u) rfl begins (dak2Body_runs (x := x) hform block blocks rfl hnoun hflat space inside hloop)
  exact ⟨fun empty left => loops (dak2Loop_waits left empty), fun taken => loops (dak2Loop_taken taken), fun _ _ => loops⟩

/-- Settles O23: the bodies of DCOPY, DFLUSH and DAK2 run step by step; a DAK2's loop by the blocks left and the FIFO's head. -/
theorem copiesAndFlushes : Obligations.CopiesAndFlushes :=
  ⟨Sys2Proof.Claims.copiesData, Sys2Proof.Claims.flushesLines, Sys2Proof.Claims.addressStreamCopies⟩

end

/-! ## The end of a bank-side sequence and its summary (R186, R224, R229, R231, R242) -/

section
namespace Sys2Proof

/-! ### Numbers read out of little-endian fields laid one after another (R6) -/

section
variable {n m off v : Nat} {r : List Byte}

theorem leNat_leBytes (n v : Nat) : leNat (leBytes n v) = v % 2 ^ (8 * n) := by
  induction n generalizing v with
  | zero => exact (Nat.mod_one v).symm
  | succ n ih =>
    have low : (BitVec.ofNat 8 v).toNat = v % 256 := rfl
    rw [leBytes, leNat, ih, low, show 8 * (n + 1) = 8 + 8 * n by omega, Nat.pow_add, Nat.mod_mul]

/-- A number laid down as bytes is read back as much of it as they hold. -/
theorem leAt_here : leAt (leBytes n v ++ r) 0 n = v % 2 ^ (8 * n) := by
  have whole : (leBytes n v ++ r).take n = leBytes n v := List.take_left' (Machine.leBytes_length n v)
  simp [leAt, slice, whole, Machine.leBytes_length, leNat_leBytes]

theorem leAt_last : leAt (leBytes n v) 0 n = v % 2 ^ (8 * n) := by
  simpa using leAt_here (r := [])

/-- Bytes after a field are read at their offset less the field's length. -/
theorem leAt_after (h : n ≤ off) : leAt (leBytes n v ++ r) off m = leAt r (off - n) m := by
  have rest : (leBytes n v ++ r).drop off = r.drop (off - n) := by
    rw [List.drop_append, List.drop_eq_nil_of_le (by rwa [Machine.leBytes_length]), List.nil_append, Machine.leBytes_length]
  simp only [leAt, slice, rest]

end
end Sys2Proof

namespace Sys2Proof.Machine

/-! ### The summary (R224) -/

/-- FLAGS of a summary. -/
def summaryFlags (overlap full doubled shareCut cut : Bool) : Nat :=
  b2n overlap + 2 * b2n full + 4 * b2n doubled + 8 * b2n shareCut + 16 * b2n cut + 0x8000

theorem summaryFlags_bits : ∀ overlap full doubled shareCut cut : Bool,
    let flags := summaryFlags overlap full doubled shareCut cut % 2 ^ 16
    bit flags 0 = overlap ∧ bit flags 1 = full ∧ bit flags 2 = doubled ∧ bit flags 3 = shareCut ∧ bit flags 4 = cut
      ∧ bits flags 5 10 = 0 ∧ bit flags 15 = true := by
  decide

/-- The fields of a summary in their order. -/
theorem summaryBytes_eq (q : Machine.Seq) (st : Status) (lead : Nat) : q.summaryBytes st lead
    = leBytes 4 q.desc.tag ++ (leBytes 1 st ++ (leBytes 1 q.desc.op
      ++ (leBytes 2 (summaryFlags q.overlap q.full q.doubled q.shareCut q.cut)
      ++ (leBytes 2 (q.readers.foldl (fun a g => putBit a (g / 32) true) 0) ++ (leBytes 2 q.readers.length
      ++ (leBytes 4 q.held ++ (leBytes 8 q.linesRead ++ (leBytes 8 q.linesWritten ++ (leBytes 8 q.cycles
      ++ (leBytes 8 q.faultVa ++ (leBytes 4 q.slices ++ (leBytes 4 q.pauses ++ (leBytes 4 lead ++ leBytes 4 0))))))))))))) := by
  unfold Seq.summaryBytes summaryFlags
  simp only [List.append_assoc]

section
variable {s : State} {id : Nat} {q : Machine.Seq} {u : Upset} {st : Status}

/-- What every step of a fold leaves, the fold leaves. -/
theorem foldl_leaves {α β : Type} (g : State → β) {f : State → α → State} (h : ∀ s x, g (f s x) = g s) (l : List α)
    (s : State) : g (l.foldl f s) = g s :=
  List.foldlRecOn (motive := fun t => g t = g s) l f rfl fun _ ih x _ => (h _ x).trans ih

/-! ### Sequences as the state holds them -/

theorem seq_of_seek (h : s.seqs.seek id = some q) : s.seq id = q := by
  rw [State.seq, Tbl.look_eq_seek, h]
  rfl

theorem modSeq_seek {f : Machine.Seq → Machine.Seq} : (s.modSeq id f).seqs.seek id = some (f (s.seq id)) := Tbl.seek_put_self ..

theorem modSeq_congr {f g : Machine.Seq → Machine.Seq} (h : f (s.seq id) = g (s.seq id)) : s.modSeq id f = s.modSeq id g := by
  unfold State.seq at h
  simp only [State.modSeq, Tbl.upd, h]

/-! ### Errors met at the base dies -/

theorem fixCells_eq (line : Nat) : s.fixCells line = { s with upsets := (s.fixCells line).upsets } := by
  unfold State.fixCells
  split <;> rfl

theorem fixCells_seqs (line : Nat) : (s.fixCells line).seqs = s.seqs := by
  rw [fixCells_eq]

theorem strikeCombining_seqs (line : Nat) : (s.strikeCombining line).seqs = s.seqs := by
  unfold State.strikeCombining
  split
  · split
    · exact fixCells_seqs line
    · rfl
  · rfl

/-- Errors in the memory change no sequence. -/
theorem strike_seqs (u : Upset) : (s.strike u).seqs = s.seqs := by
  unfold State.strike
  extract_lets cells stuck transfers combining
  have hcells : cells.seqs = s.seqs := foldl_leaves State.seqs (fun _ _ => by rfl) u.cells s
  have hstuck : stuck.seqs = s.seqs := (foldl_leaves State.seqs (fun _ _ => by exact fixCells_seqs _) u.stuck cells).trans hcells
  have htransfers : transfers.seqs = s.seqs := (foldl_leaves State.seqs (fun _ _ => by rfl) u.transfers stuck).trans hstuck
  have hcombining : combining.seqs = s.seqs := by
    unfold combining
    split
    · exact htransfers
    · exact (strikeCombining_seqs _).trans htransfers
  split <;> exact hcombining

/-! ### SEQUENCE_END by the phase of its sequence (R229, R231, R242) -/

theorem sequenceEnd_completes {t : State} (h : s.seqEnd id u = t) : Completes (.sequenceEnd id u) s (· = t.issueAll) :=
  ⟨_, rfl, congrArg State.issueAll h⟩

/-- A sequence with the failure its lost producers make of it (R242). -/
def Seq.failing (q : Machine.Seq) (s : State) : Machine.Seq := { q with failure := q.failure.or (s.lostPeer q) }

/-- What becomes of a sequence that is being read, as far as its units have come (R229, R231, R242). -/
def State.readingEnd (s : State) (id : Nat) (q : Machine.Seq) : State :=
  if !(s.unitsEnded id q) || (q.failure.isNone && !q.vectorsHere) then s
  else match q.failure with
    | some st => s.endSeq id st q.faultVa true
    | none =>
      if q.desc.ystream then (s.stageResults id q).modSeq id fun q => { q with phase := .sending }
      else match (seqResults id q).run s with
        | (.ok _, s) => s.endSeq id Code.ok q.faultVa false
        | (.error .wait, s) => s
        | (.error (.fault st va), s) => s.endSeq id st va true

section
variable (seek : s.seqs.seek id = some q)
include seek

theorem seqEnd_waiting (phase : q.phase = .waiting) : s.seqEnd id u = s.strike u := by
  simp only [State.seqEnd, strike_seqs, seek, phase]

theorem seqEnd_closing (phase : q.phase = .closing) : s.seqEnd id u = (s.strike u).closeSeq id := by
  simp only [State.seqEnd, strike_seqs, seek, phase]

theorem seqEnd_sending_failed (phase : q.phase = .sending) (failure : q.failure = some st) :
    s.seqEnd id u = (s.strike u).endSeq id st q.faultVa true := by
  simp [State.seqEnd, strike_seqs, seek, phase, failure]

theorem seqEnd_reading (phase : q.phase = .reading) :
    s.seqEnd id u = ((s.strike u).modSeq id fun _ => q.failing (s.strike u)).readingEnd id (q.failing (s.strike u)) := by
  unfold State.seqEnd
  simp only [strike_seqs, seek]
  split
  case h_4 => rfl
  all_goals next other => cases phase.symm.trans other

end

theorem readingEnd_unended (going : s.unitsEnded id q = false) : s.readingEnd id q = s := by
  simp [State.readingEnd, going]

section
variable (ended : s.unitsEnded id q = true)
include ended

theorem readingEnd_failed (failure : q.failure = some st) : s.readingEnd id q = s.endSeq id st q.faultVa true := by
  simp [State.readingEnd, ended, failure]

variable (sound : q.failure = none) (here : q.vectorsHere = true)
include sound here

theorem readingEnd_streams (stream : q.desc.ystream = true) :
    s.readingEnd id q = (s.stageResults id q).modSeq id fun q => { q with phase := .sending } := by
  simp [State.readingEnd, ended, sound, here, stream]

variable {t : State} (stored : q.desc.ystream = false)
include stored

theorem readingEnd_stored (results : (seqResults id q).run s = (.ok (), t)) :
    s.readingEnd id q = t.endSeq id Code.ok q.faultVa false := by
  simp [State.readingEnd, ended, sound, here, stored, results]

theorem readingEnd_unstored {va : Nat} (results : (seqResults id q).run s = (.error (.fault st va), t)) :
    s.readingEnd id q = t.endSeq id st va true := by
  simp [State.readingEnd, ended, sound, here, stored, results]

end

/-! ### The end of a sequence whose claim holds no write (R186, R225, R242) -/

/-- The sequences in flight, and the writes that their claims hold at each stack. -/
def State.claims (s : State) : Tbl Machine.Seq × (Nat → List (Nat × WriteOp)) :=
  (s.seqs, fun n => (s.stack n).held ++ (s.stack n).heldWaiting)

theorem modUnitPort_claims {n ch p : Nat} {f : Port → Port} : (s.modUnitPort n ch p f).claims = s.claims := by
  refine Prod.ext rfl (funext fun m => ?_)
  by_cases h : m = n
  · subst h
    simp [State.claims, State.modUnitPort, State.modChan]
  · simp [State.claims, State.modUnitPort, State.modChan, State.modStack_stack_other _ _ h]

theorem flowSend_claims {f n : Nat} {p : Packet} {w : Waiter} : (s.flowSend f n p w).claims = s.claims := by
  unfold State.flowSend
  dsimp only
  split <;> rfl

theorem sendCredit_claims {pid source target : Nat} : (s.sendCredit pid source target).claims = s.claims := by
  unfold State.sendCredit
  split
  · rfl
  · split
    · exact flowSend_claims
    · rfl
    · rfl

theorem intakeCredit_claims {pid n ch src : Nat} : (s.intakeCredit pid n ch src).claims = s.claims := by
  unfold State.intakeCredit
  split
  · exact sendCredit_claims
  · rfl

theorem unbindLead_claims : (s.unbindLead q).claims = s.claims := by
  unfold State.unbindLead
  extract_lets n ch self t
  have vectors : t.claims = s.claims := by
    unfold t
    split
    · rfl
    · refine foldl_leaves State.claims (fun s j => ?_) _ s
      have bare : (s.modUnitPort n ch (1 + j) fun _ => {}).claims = s.claims := modUnitPort_claims
      dsimp only
      split
      · exact bare
      · split <;> exact bare
  split
  · exact vectors
  · exact (foldl_leaves State.claims (fun _ _ => modUnitPort_claims) _ t).trans vectors

/-- No stack holds a write for a sequence's claim. -/
def State.HoldsNone (s : State) (id : Nat) : Prop := ∀ n < 12, ∀ w ∈ s.claims.2 n, w.1 ≠ id

/-- A claim that holds no write releases none. -/
theorem releaseClaim_none (h : s.HoldsNone id) : s.releaseClaim id = s := by
  refine List.foldlRecOn (motive := (· = s)) _ _ rfl fun t ht n hn => ?_
  subst ht
  have mine : ((t.stack n).held ++ (t.stack n).heldWaiting).filter (·.1 == id) = [] :=
    List.filter_eq_nil_iff.2 fun w hw => by simpa using h n (List.mem_range.1 hn) w hw
  simp only [mine]
  rfl

/-- The state in which a sequence has given up its credit or its ports, before its claim ends. -/
def State.givenUp (s : State) (q : Machine.Seq) : State :=
  if q.phase = .waiting then s.intakeCredit q.pid q.leadStack q.leadChannel q.issuer else s.unbindLead q

theorem givenUp_claims : (s.givenUp q).claims = s.claims := by
  unfold State.givenUp
  split
  · exact intakeCredit_claims
  · exact unbindLead_claims

/-- A sequence whose claim has ended. -/
def Seq.closed (q : Machine.Seq) (st : Status) (va : Nat) (cut : Bool) : Machine.Seq :=
  { q with phase := .closing, failure := if st = Code.ok then none else some st, faultVa := va, cut := cut }

theorem endSeq_unclaimed {va : Nat} {cut : Bool} (seek : s.seqs.seek id = some q) (unclaimed : s.HoldsNone id) :
    s.endSeq id st va cut = ((s.givenUp q).modSeq id fun _ => q.closed st va cut).closeSeq id := by
  have claims : (s.givenUp q).claims = s.claims := givenUp_claims
  have same : (s.givenUp q).seq id = q := seq_of_seek ((congrArg (fun c => Tbl.seek c.1 id) claims).trans seek)
  have closing : (s.givenUp q).modSeq id (fun q => q.closed st va cut) = (s.givenUp q).modSeq id fun _ => q.closed st va cut :=
    modSeq_congr (by rw [same])
  have held : ((s.givenUp q).modSeq id fun _ => q.closed st va cut).HoldsNone id := by
    intro n hn w hw
    refine unclaimed n hn w ?_
    rw [← claims]
    exact hw
  have ends : s.endSeq id st va cut = (((s.givenUp q).modSeq id fun q => q.closed st va cut).releaseClaim id).closeSeq id := by
    unfold State.endSeq State.givenUp Seq.closed
    simp only [seq_of_seek seek, beq_iff_eq]
  rw [ends, closing, releaseClaim_none held]

theorem closeSeq_released {t : State} {target : Option Nat} (seek : s.seqs.seek id = some q)
    (found : (summaryTarget q).run s = (.ok target, t)) (released : t.releasing id = false) :
    s.closeSeq id = ({ t with seqs := t.seqs.drop id } : State).writeSummary id q target := by
  simp [State.closeSeq, seek, found, released]

end
end Sys2Proof.Machine
end

section
open Sys2Proof Sys2Proof.Machine

theorem Sys2Proof.Claims.sequenceEnds : Sys2Proof.Claims.SequenceEnds := by
  constructor
  · intro id q u s seek s1 failed s2
    refine ⟨fun st phase ended failure => ?_, fun phase ended sound here stream => ?_,
      fun phase ended sound here stored => ⟨fun s3 results => ?_, fun st va s3 results => ?_⟩, fun phase going => ?_,
      fun st phase failure => ?_, fun phase => ?_, fun phase => ?_⟩
    · exact sequenceEnd_completes ((seqEnd_reading seek phase).trans (readingEnd_failed ended failure))
    · exact sequenceEnd_completes ((seqEnd_reading seek phase).trans (readingEnd_streams ended sound here stream))
    · exact sequenceEnd_completes ((seqEnd_reading seek phase).trans (readingEnd_stored ended sound here stored results))
    · exact sequenceEnd_completes ((seqEnd_reading seek phase).trans (readingEnd_unstored ended sound here stored results))
    · exact sequenceEnd_completes ((seqEnd_reading seek phase).trans (readingEnd_unended going))
    · exact sequenceEnd_completes (seqEnd_sending_failed seek phase failure)
    · exact sequenceEnd_completes (seqEnd_closing seek phase)
    · exact sequenceEnd_completes (seqEnd_waiting seek phase)
  · intro id va st cut q s seek unclaimed left closing target s1 found released
    exact (endSeq_unclaimed seek unclaimed).trans (closeSeq_released modSeq_seek found released)

theorem Sys2Proof.Claims.summaryLayout : Sys2Proof.Claims.SummaryLayout := by
  intro q st lead b
  have hb : b = _ := summaryBytes_eq q st lead
  have flags : leAt b 6 2 = summaryFlags q.overlap q.full q.doubled q.shareCut q.cut % 2 ^ 16 := by
    rw [hb]
    simp [leAt_after, leAt_here]
  have length : b.length = 64 := by
    rw [hb]
    simp [leBytes_length]
  obtain ⟨overlap, full, doubled, shareCut, cut, zero, valid⟩ := summaryFlags_bits q.overlap q.full q.doubled q.shareCut q.cut
  rw [← flags] at overlap full doubled shareCut cut zero valid
  refine ⟨length, ?_, ?_, ?_, overlap, full, doubled, shareCut, cut, zero, valid, ?_⟩
  all_goals simp [hb, leAt_after, leAt_here, leAt_last]

/-- Settles O33: a sequence's end by its phase and its units, the end of a claim that holds no write, and the summary field by field. -/
theorem sequencesEndWithSummary : Obligations.SequencesEndWithSummary :=
  ⟨Sys2Proof.Claims.sequenceEnds, Sys2Proof.Claims.summaryLayout⟩

end

/-! ## Cache lines evicted, stacks woken, channels mapped out and returned (R69, R169, R174, R192, R204 to R206) -/

section
namespace Sys2Proof.Machine

section
variable {s : State}

/-! ### Cache lines given up (R169, R174) -/

section
variable {c line : Nat} {x : CacheLine}

/-- Every write of a write-back is of one half of the line, with that half's dirty bytes. -/
theorem mem_writeBack {w : Writer} {tag : Nat} {op : WriteOp} (h : op ∈ x.writeBack line w tag) :
    op.line / 2 = line ∧ op.writer = w ∧ op.mask = bits x.dirty (64 * (op.line % 2)) 64
      ∧ op.bytes = slice x.bytes (64 * (op.line % 2)) 64 ∧ op.back = true := by
  obtain ⟨half, hhalf, hop⟩ := List.mem_filterMap.1 h
  have small : half < 2 := by
    simp only [List.mem_cons, List.not_mem_nil, or_false] at hhalf
    omega
  have whole : (2 * line + half) / 2 = line := by omega
  have rest : (2 * line + half) % 2 = half := by omega
  dsimp only at hop
  split at hop
  · cases hop
  · cases hop
    exact ⟨whole, rfl, by rw [rest], by rw [rest], rfl⟩

theorem writeBack_clean {w : Writer} {tag : Nat} (h : x.dirty = 0) : x.writeBack line w tag = [] := by
  simp [CacheLine.writeBack, h, bits]

/-- A line on its way out, which its cluster reads until the writes of its dirty bytes are performed (R169, R174). -/
def CacheLine.leave (x : CacheLine) (ops : List WriteOp) : CacheLine :=
  { x with dirty := 0, leaving := true, back := ops.foldl (fun m op => putBit m (op.line % 2) true) x.back }

theorem writeBackLine_none {w : Writer} {tag : Nat} {drop : Bool} (h : (s.cluster c).cache.seek line = none) :
    s.writeBackLine c line w tag drop = s := by
  simp only [State.writeBackLine, h]

section
variable (h : (s.cluster c).cache.seek line = some x)
include h

/-- A line with nothing to write back, and nothing being written back, is given up. -/
theorem writeBackLine_clean {w : Writer} {tag : Nat} (clean : x.writeBack line w tag = []) (settled : x.back = 0) :
    s.writeBackLine c line w tag true = s.modCluster c fun cl => { cl with cache := cl.cache.drop line } := by
  simp [State.writeBackLine, h, clean, settled]

theorem writeBackLine_dirty {w : Writer} {tag : Nat} (left : x.writeBack line w tag ≠ [] ∨ x.back ≠ 0) :
    s.writeBackLine c line w tag true = (x.writeBack line w tag).foldl (fun s op => State.submit s op)
      (s.modCluster c fun cl => { cl with cache := cl.cache.put line (x.leave (x.writeBack line w tag)) }) := by
  have stays : ¬ (x.writeBack line w tag = [] ∧ x.back = 0) := by
    rintro ⟨clean, settled⟩
    exact left.elim (· clean) (· settled)
  simp [State.writeBackLine, CacheLine.leave, h, stays]

end
end

/-! ### A stack's wake (R192) -/

section
variable {n : Nat}

theorem wakeStack_wakes (asleep : (s.stack n).asleep = true) (trained : (s.stack n).trained = true)
    (ready : s.domainReady (32 + n) = true) : s.wakeStack n
    = (s.stack n).wakeQueue.foldl (fun s op => State.submit s op) (s.modStack n fun x =>
        { x with asleep := false, wakeWaits := false, wakeQueue := [], state := .inService }) := by
  unfold State.domainReady at ready
  simp [State.wakeStack, asleep, trained, ready]

theorem wakeStack_stays (h : (s.stack n).asleep = false ∨ (s.stack n).trained = false ∨ s.domainReady (32 + n) = false) :
    s.wakeStack n = s := by
  have not_all : ((s.stack n).asleep && (s.stack n).trained && bit s.pwr.domOn (32 + n)) = false := by
    unfold State.domainReady at h
    rcases h with h | h | h <;> simp [h]
  simp [State.wakeStack, not_all]

end

section
variable {n ch reason : Nat}

/-! ### A stack's channels and its last command's status -/

theorem modChan_modChan {f g : Channel → Channel} : (s.modChan n ch f).modChan n ch g = s.modChan n ch (g ∘ f) := by
  simp [State.modChan, State.modStack, Tbl.upd, Tbl.put_put]

theorem modChan_lastCmd {f : Channel → Channel} : ((s.modChan n ch f).stack n).lastCmd = (s.stack n).lastCmd := by
  simp [State.modChan]

theorem stackStatus_chan (m : Nat) (st : Status) : (s.stackStatus m st).chan n ch = s.chan n ch := by
  by_cases h : n = m
  · subst h
    simp [State.stackStatus, State.chan]
  · simp [State.stackStatus, State.chan, State.modStack_stack_other _ _ h]

theorem stackStatus_lastCmd (st : Status) : ((s.stackStatus n st).stack n).lastCmd = st :=
  congrArg Stack.lastCmd (State.modStack_stack_self ..)

/-! ### MAPOUT of a channel (R69, R204, R205) -/

theorem exec_channelMapout (reached : s.stackRefused n 0x1C = none) :
    exec (.channelMapout n ch) s = .next (s.channelMapout n ch) :=
  congrArg (fun refused => Host.Outcome.next (Option.getD refused _)) reached

/-- Telling of damaged models changes the models' entries and the events alone. -/
theorem damageModels_leaves {β : Type} (g : State → β) (entry : ∀ s e f, g (State.modMc s e f) = g s)
    (told : ∀ s cls code o pid d0 d1, g (State.event s cls code o pid d0 d1) = g s) (hit : List (Nat × List Nat)) :
    g (s.damageModels hit) = g s := by
  refine foldl_leaves g (fun s x => ?_) hit s
  have damaged (t : State) (e b : Nat) : g (t.tellDamaged e b) = g t := foldl_leaves g (fun _ _ => told ..) _ t
  dsimp only
  split
  · exact (foldl_leaves g (fun _ _ => (told ..).trans (entry ..)) _ _).trans ((damaged ..).trans (entry ..))
  · exact (damaged ..).trans (entry ..)

/-- The stacks with their channels, the cells, the interleave sets, and the store with the recorded channels. -/
def State.stacks (s : State) : Tbl Stack × List Host.Cell × List (List Nat) × Flash := (s.stk, s.mem, s.sets, s.flash)

theorem event_stacks {cls pid d0 d1 : Nat} {code : Status} {o : Obs} : (s.event cls code o pid d0 d1).stacks = s.stacks := by
  rw [event_eq]
  rfl

/-- What MAPOUT makes of a channel: one recorded anew forgets its uncorrectable reads, its patterns and what it combined. -/
def Channel.mappedOut (c : Channel) (reason : Nat) (again : Bool) : Channel :=
  if again then { c with intake := [], state := .out, reason := reason, paused := false }
  else { c with intake := [], state := .out, reason := reason, ue := 0, mark0 := false, mark1 := false, wcb := [], paused := false }

/-- The channel is recorded for this reason already (R424). -/
def State.recorded (s : State) (n ch reason : Nat) : Bool := decide (s.flash.mapouts.seek (32 * n + ch) = some reason)

/-- The store with a channel recorded as out. -/
def Flash.mappedOut (x : Flash) (g reason : Nat) (again : Bool) : Flash :=
  if again then x else { x with mapouts := x.mapouts.put g reason }

/-- A unit's intake dropped and its sequences stopped touch the stacks in that channel's intake alone. -/
theorem stopUnit_stacks (g : Nat) (flash : Flash) (f : Channel → Channel) :
    (({ (s.dropIntake n ch).stopUnit g with flash := flash } : State).modChan n ch f).stacks
      = (({ s with flash := flash } : State).modChan n ch (f ∘ fun c => { c with intake := [] })).stacks := by
  have channel := congrArg State.stk (modChan_modChan (s := s) (n := n) (ch := ch) (f := fun c => { c with intake := [] }) (g := f))
  exact Prod.ext channel rfl

/-- A channel recorded as out and taken out of service, before anyone is told. -/
def State.outOfService (s : State) (n ch reason : Nat) : State :=
  ({ s with flash := s.flash.mappedOut (32 * n + ch) reason (s.recorded n ch reason) } : State).modChan n ch fun c =>
    c.mappedOut reason (s.recorded n ch reason)

theorem mapOut_stacks : (s.mapOut n ch reason).stacks = (s.outOfService n ch reason).stacks := by
  unfold State.mapOut
  extract_lets t
  split
  · next again =>
    rw [State.outOfService, show s.recorded n ch reason = true from decide_eq_true again]
    exact stopUnit_stacks (32 * n + ch) s.flash _
  · next anew =>
    rw [State.outOfService, show s.recorded n ch reason = false from decide_eq_false anew]
    refine (damageModels_leaves State.stacks (fun _ _ _ => rfl) (fun _ _ _ _ _ _ _ => event_stacks) _).trans ?_
    refine (foldl_leaves State.stacks (fun _ _ => event_stacks) _ _).trans ?_
    exact stopUnit_stacks (32 * n + ch) (s.flash.mappedOut (32 * n + ch) reason false) _

theorem mapOut_stack (m : Nat) : (s.mapOut n ch reason).stack m = (s.outOfService n ch reason).stack m := by
  have stk : (s.mapOut n ch reason).stk = (s.outOfService n ch reason).stk := congrArg Prod.fst mapOut_stacks
  simp only [State.stack, stk]

theorem mapOut_chan : (s.mapOut n ch reason).chan n ch = (s.chan n ch).mappedOut reason (s.recorded n ch reason) := by
  rw [State.chan, mapOut_stack]
  exact State.modChan_chan_self ..

theorem mapOut_lastCmd : ((s.mapOut n ch reason).stack n).lastCmd = (s.stack n).lastCmd := by
  rw [mapOut_stack]
  exact modChan_lastCmd

theorem mapOut_mem : (s.mapOut n ch reason).mem = s.mem := congrArg (fun x => x.2.1) mapOut_stacks

theorem mapOut_sets : (s.mapOut n ch reason).sets = s.sets := congrArg (fun x => x.2.2.1) mapOut_stacks

theorem mapOut_flash : (s.mapOut n ch reason).flash = s.flash.mappedOut (32 * n + ch) reason (s.recorded n ch reason) :=
  congrArg (fun x => x.2.2.2) mapOut_stacks

theorem mappedOut_always (c : Channel) (again : Bool) : (c.mappedOut reason again).state = .out
    ∧ (c.mappedOut reason again).reason = reason ∧ (c.mappedOut reason again).intake = [] := by
  cases again <;> exact ⟨rfl, rfl, rfl⟩

theorem channelMapout_absent (h : s.chanPresent n ch = false) : s.channelMapout n ch = s.badChannel n := by
  simp [State.channelMapout, h]

theorem channelMapout_out (present : s.chanPresent n ch = true) (here : (s.chan n ch).state ≠ .out)
    (quiet : (s.chan n ch).state ≠ .testing) : s.channelMapout n ch = (s.stackStatus n Code.ok).mapOut n ch 5 := by
  simp [State.channelMapout, present, stackStatus_chan, here, quiet]

/-! ### RETURN of a channel (R206) -/

theorem exec_channelReturn (reached : s.stackRefused n 0x1C = none) :
    exec (.channelReturn n ch) s = .next (s.channelReturn n ch) :=
  congrArg (fun refused => Host.Outcome.next (Option.getD refused _)) reached

theorem channelReturn_absent (h : s.chanPresent n ch = false) : s.channelReturn n ch = s.badChannel n := by
  simp [State.channelReturn, h]

/-- A write of cells touches them, and what is known of them. -/
def OnlyCells (s t : State) : Prop := ∃ mem poison upsets, t = { s with mem := mem, poison := poison, upsets := upsets }

theorem OnlyCells.trans {t r : State} (h : OnlyCells s t) (h' : OnlyCells t r) : OnlyCells s r := by
  obtain ⟨_, _, _, rfl⟩ := h
  obtain ⟨_, _, _, rfl⟩ := h'
  exact ⟨_, _, _, rfl⟩

theorem OnlyCells.foldl {α : Type} {f : State → α → State} (h : ∀ s x, OnlyCells s (f s x)) (l : List α) (s : State) :
    OnlyCells s (l.foldl f s) :=
  List.foldlRecOn l f ⟨_, _, _, rfl⟩ fun _ ih x _ => ih.trans (h _ x)

theorem writeCells_onlyCells (s : State) (line : Nat) (b : List Byte) : OnlyCells s (s.writeCells line b) := by
  unfold State.writeCells
  rw [fixCells_eq]
  exact ⟨_, _, _, rfl⟩

theorem showPatterns_onlyCells (s : State) (slot : Nat) (left : List (Nat × Nat × Nat × Nat)) :
    OnlyCells s (s.showPatterns slot left) :=
  .foldl (fun s _ => .foldl (fun s _ => writeCells_onlyCells s ..) _ s) left s

/-- A channel may not return: its stack has failed, its descriptor lists it as absent, or a pattern has not covered it (R206). -/
def State.unfit (s : State) (n ch : Nat) : Prop :=
  (s.stack n).state = .failed ∨ (s.stack n).descAbsent ch = true ∨ (s.chan n ch).mark0 = false ∨ (s.chan n ch).mark1 = false

theorem unfit_iff : s.unfit n ch ↔ ((s.stack n).state == .failed || (s.stack n).descAbsent ch
    || !((s.chan n ch).mark0 && (s.chan n ch).mark1)) = true := by
  simp [State.unfit, or_assoc]

/-- The 2 GiB slot a channel that returns serves. -/
def State.returnSlot (s : State) (n ch : Nat) : Nat := (s.chan n ch).served.getD s.freeSlot

/-- The state with a channel back in service and its record erased, before its cells show what checker runs left. -/
def State.returned (s : State) (n ch : Nat) : State :=
  ({ s with flash := { s.flash with mapouts := s.flash.mapouts.drop (32 * n + ch) } } : State).modChan n ch fun c =>
    { c with state := .appended, slot := s.returnSlot n ch, served := some (s.returnSlot n ch), reason := 0, ue := 0, left := [] }

section
variable (present : s.chanPresent n ch = true)
include present

theorem channelReturn_inService (here : (s.chan n ch).state ≠ .out) :
    s.channelReturn n ch = s.stackStatus n Code.channelInService := by
  simp [State.channelReturn, present, here]

theorem channelReturn_unfit (out : (s.chan n ch).state = .out) (h : s.unfit n ch) :
    s.channelReturn n ch = s.stackStatus n Code.tgMismatch := by
  simp only [State.channelReturn, present, out, unfit_iff.1 h]
  rfl

theorem channelReturn_fit (out : (s.chan n ch).state = .out) (h : ¬ s.unfit n ch) : s.channelReturn n ch
    = ((s.returned n ch).showPatterns (s.returnSlot n ch) (s.chan n ch).left).stackStatus n Code.ok := by
  simp only [State.channelReturn, present, out, Bool.eq_false_iff.2 (mt unfit_iff.2 h)]
  rfl

end

/-- What a RETURN that succeeds leaves (R206): a channel appended, sound and in its slot, and its cells alone changed, with what
checker runs left in them. -/
theorem returned_shown : let t := ((s.returned n ch).showPatterns (s.returnSlot n ch) (s.chan n ch).left).stackStatus n Code.ok
    t.flash = { s.flash with mapouts := s.flash.mapouts.drop (32 * n + ch) }
    ∧ (t.chan n ch).state = .appended ∧ (t.chan n ch).reason = 0 ∧ (t.chan n ch).ue = 0
    ∧ (t.chan n ch).slot = s.returnSlot n ch ∧ (t.chan n ch).served = some (t.chan n ch).slot
    ∧ (t.stack n).lastCmd = Code.ok
    ∧ t = { s with flash := t.flash, stk := t.stk, mem := t.mem, poison := t.poison, upsets := t.upsets }
    ∧ ((s.chan n ch).left = [] → t.mem = s.mem ∧ t.poison = s.poison ∧ t.upsets = s.upsets) := by
  intro t
  obtain ⟨mem, poison, upsets, shown⟩ := showPatterns_onlyCells (s.returned n ch) (s.returnSlot n ch) (s.chan n ch).left
  have ht : t = ({ s.returned n ch with mem := mem, poison := poison, upsets := upsets } : State).stackStatus n Code.ok :=
    congrArg (State.stackStatus · n Code.ok) shown
  have hchan : t.chan n ch = { s.chan n ch with
      state := .appended, slot := s.returnSlot n ch, served := some (s.returnSlot n ch), reason := 0, ue := 0, left := [] } := by
    rw [ht, stackStatus_chan]
    exact State.modChan_chan_self ..
  have nothing_left (none : (s.chan n ch).left = []) : mem = s.mem ∧ poison = s.poison ∧ upsets = s.upsets := by
    rw [none] at shown
    exact ⟨(congrArg State.mem shown).symm, (congrArg State.poison shown).symm, (congrArg State.upsets shown).symm⟩
  rw [hchan, ht, stackStatus_lastCmd]
  exact ⟨rfl, rfl, rfl, rfl, rfl, rfl, rfl, rfl, nothing_left⟩

end

end
end Sys2Proof.Machine
end

section
open Sys2Proof Sys2Proof.Machine

theorem Sys2Proof.Claims.evictionAndWake : Sys2Proof.Claims.EvictionAndWake := by
  refine ⟨fun c line x s h => ⟨fun clean settled => ?_, fun left => ?_, writeBack_clean, fun op => mem_writeBack⟩,
    fun c line s h => ?_, fun n s asleep trained ready => ?_, fun n s h => ?_⟩
  · exact ⟨_, rfl, writeBackLine_clean h clean settled⟩
  · exact ⟨_, rfl, writeBackLine_dirty h left⟩
  · exact congrArg Host.Outcome.next (writeBackLine_none h)
  · exact ⟨_, rfl, wakeStack_wakes asleep trained ready⟩
  · exact congrArg Host.Outcome.next (wakeStack_stays h)

theorem Sys2Proof.Claims.channelsOutAndBack : Sys2Proof.Claims.ChannelsOutAndBack := by
  refine ⟨fun n ch s reached present here quiet => ?_, fun n ch s reached present => ?_, fun n ch s reached absent i hi => ?_⟩
  · have recorded : (s.stackStatus n Code.ok).recorded n ch 5 = s.recorded n ch 5 := rfl
    obtain ⟨out, reason, intake⟩ := mappedOut_always (reason := 5) (s.chan n ch) (s.recorded n ch 5)
    refine ⟨_, exec_channelMapout reached, ?_⟩
    dsimp only
    rw [channelMapout_out present here quiet, mapOut_chan, mapOut_lastCmd, mapOut_mem, mapOut_sets, mapOut_flash, stackStatus_chan,
      stackStatus_lastCmd, recorded]
    refine ⟨out, reason, intake, rfl, rfl, rfl, fun anew => ?_⟩
    rw [show s.recorded n ch 5 = false from decide_eq_false anew]
    exact ⟨rfl, rfl, rfl, rfl, rfl⟩
  · refine ⟨_, exec_channelReturn reached, ?_⟩
    dsimp only
    split
    · next here => exact channelReturn_inService present here
    · next out =>
      split
      · next unfit => exact channelReturn_unfit present (Classical.not_not.1 out) unfit
      · next fit =>
        rw [channelReturn_fit present (Classical.not_not.1 out) fit]
        exact returned_shown
  · rcases hi with rfl | rfl
    · exact ⟨_, exec_channelMapout reached, channelMapout_absent absent⟩
    · exact ⟨_, exec_channelReturn reached, channelReturn_absent absent⟩

/-- Settles O28: an eviction by what the line has dirty, a wake by its stack, MAPOUT and RETURN by the channel's state and record. -/
theorem cachesStacksAndChannels : Obligations.CachesStacksAndChannels :=
  ⟨Sys2Proof.Claims.evictionAndWake, Sys2Proof.Claims.channelsOutAndBack⟩

end

/-! ## Refresh and the base dies' temperature (R208 to R211, R235, R249, R373) -/

section
namespace Sys2Proof.Machine

section
variable {s t r : State} {n m ch : Nat}

/-! ### One channel or stack changed, and events -/

theorem modChan_chan_other {c : Nat} {f : Channel → Channel} (h : (m, c) ≠ (n, ch)) : (s.modChan n ch f).chan m c = s.chan m c := by
  by_cases hm : m = n
  · subst hm
    have hc : c ≠ ch := fun e => h (by rw [e])
    simp [State.modChan, State.chan, Tbl.look_upd_other {} f _ hc]
  · simp only [State.modChan, State.chan, State.modStack_stack_other _ _ hm]

@[simp] theorem event_stack {cls pid d0 d1 : Nat} {code : Status} {o : Obs} : (s.event cls code o pid d0 d1).stack n = s.stack n := by
  simp [State.stack]

/-! ### Refresh (R208, R209) -/

/-- What a refresh that falls due makes of the refreshes a channel owes. -/
def Channel.dueOwed (c : Channel) (busy : Bool) : Nat :=
  if busy = false then c.owed - 1 else if c.owed < 8 then c.owed + 1 else c.owed

theorem dueOwed_le (c : Channel) (busy : Bool) : c.dueOwed busy ≤ max 8 c.owed := by
  unfold Channel.dueOwed
  split
  · omega
  · split <;> omega

theorem refreshDue_due {busy : Bool} (present : s.chanPresent n ch = true) (awake : (s.stack n).asleep = false) :
    s.refreshDue n ch busy = s.modChan n ch fun c => { c with owed := c.dueOwed busy } := by
  unfold State.refreshDue Channel.dueOwed
  simp only [present, awake]
  cases busy
  · rfl
  · refine congrArg (s.modChan n ch) (funext fun c => ?_)
    show (if c.owed < 8 then _ else _) = _
    by_cases room : c.owed < 8 <;> simp [room]

theorem refreshDue_idle {busy : Bool} (h : s.chanPresent n ch = false ∨ (s.stack n).asleep = true) : s.refreshDue n ch busy = s := by
  unfold State.refreshDue
  rcases h with h | h <;> simp [h]

/-! ### Shares taken in sixteenths, and their first fall (R211, R235) -/

theorem setAdmit_cool {a : Nat} (h : ¬ ((s.stack n).admitMax = 16 ∧ a < 16)) :
    s.setAdmit n a = s.modStack n fun x => { x with admitMax := a } := by
  simp only [State.setAdmit, Bool.and_eq_true, decide_eq_true_eq, if_neg h]

theorem setAdmit_hot {a : Nat} (h : (s.stack n).admitMax = 16 ∧ a < 16) : s.setAdmit n a =
    ((s.modStack n fun x => { x with admitMax := a }).modStack n fun x => { x with hot := true }).event Cls.stk Code.stackHot
      (Obs.ofStack n) 0xFF n 0 := by
  simp only [State.setAdmit, Bool.and_eq_true, decide_eq_true_eq, if_pos h]

theorem setBTherm_cool {b : Nat} (h : ¬ ((s.stack n).bTherm = 16 ∧ b < 16)) :
    s.setBTherm n b = s.modStack n fun x => { x with bTherm := b } := by
  simp only [State.setBTherm, Bool.and_eq_true, decide_eq_true_eq, if_neg h]

theorem setBTherm_hot {b : Nat} (h : (s.stack n).bTherm = 16 ∧ b < 16) : s.setBTherm n b =
    (s.modStack n fun x => { x with bTherm := b }).event Cls.bsu Code.seqHot (Obs.ofStack n) 0xFF n 0 := by
  simp only [State.setBTherm, Bool.and_eq_true, decide_eq_true_eq, if_pos h]

/-- What a setting of A leaves: A itself, and where it leaves 16, HOT and the event (R211). -/
theorem setAdmit_leaves {a : Nat} : let t := s.setAdmit n a
    (t.stack n).admitMax = a
    ∧ (¬ ((s.stack n).admitMax = 16 ∧ a < 16) → t = { s with stk := t.stk })
    ∧ ((s.stack n).admitMax = 16 ∧ a < 16 → (t.stack n).hot = true
        ∧ t = ({ s with stk := t.stk } : State).event Cls.stk Code.stackHot (Obs.ofStack n) 0xFF n 0) := by
  by_cases h : (s.stack n).admitMax = 16 ∧ a < 16
  · simp only [setAdmit_hot h, event_stack, State.event_stk, State.modStack_stack_self]
    exact ⟨trivial, fun cool => absurd h cool, fun _ => ⟨trivial, rfl⟩⟩
  · simp only [setAdmit_cool h, State.modStack_stack_self]
    exact ⟨trivial, fun _ => rfl, fun hot => absurd hot h⟩

/-- What a setting of B_THERM leaves: B_THERM itself, and where it leaves 16, the event (R235). -/
theorem setBTherm_leaves {b : Nat} : let t := s.setBTherm n b
    (t.stack n).bTherm = b
    ∧ (¬ ((s.stack n).bTherm = 16 ∧ b < 16) → t = { s with stk := t.stk })
    ∧ ((s.stack n).bTherm = 16 ∧ b < 16 →
        t = ({ s with stk := t.stk } : State).event Cls.bsu Code.seqHot (Obs.ofStack n) 0xFF n 0) := by
  by_cases h : (s.stack n).bTherm = 16 ∧ b < 16
  · simp only [setBTherm_hot h, event_stack, State.event_stk, State.modStack_stack_self]
    exact ⟨trivial, fun cool => absurd h cool, fun _ => rfl⟩
  · simp only [setBTherm_cool h, State.modStack_stack_self]
    exact ⟨trivial, fun _ => rfl, fun hot => absurd hot h⟩

/-! ### The millisecond's changes (R211, R235) -/

/-- What the millisecond's samples make of a share that moves between `least` and 16 about a threshold (R211, R235). -/
def Stack.moved (x : Stack) (threshold least share : Nat) : Nat :=
  if x.allAbove threshold then max least (share - 1) else if x.allBelow threshold then min 16 (share + 1) else share

/-- A share is set to what the samples make of it, or left where they leave it. -/
theorem moved_set_or_kept {x : Stack} {threshold least share : Nat} (set : Nat → State) :
    let u := if x.allAbove threshold then set (max least (share - 1)) else if x.allBelow threshold then set (min 16 (share + 1)) else s
    u = set (x.moved threshold least share) ∨ u = s ∧ x.moved threshold least share = share := by
  unfold Stack.moved
  split
  · exact .inl rfl
  · split
    · exact .inl rfl
    · exact .inr ⟨rfl, rfl⟩

theorem exec_stackAdmitUpdate (present : s.stackPresent n = true) :
    let a := (s.stack n).moved (s.stack n).throttle 2 (s.stack n).admitMax
    exec (.stackAdmitUpdate n) s = .next (s.setAdmit n a) ∨ exec (.stackAdmitUpdate n) s = .next s ∧ a = (s.stack n).admitMax := by
  have run : exec (.stackAdmitUpdate n) s = .next _ := congrArg Host.Outcome.next (if_neg (by simp [present]))
  rw [run]
  exact (moved_set_or_kept (s.setAdmit n)).imp (congrArg _) (And.imp_left (congrArg _))

theorem exec_bsuShareUpdate (present : s.stackPresent n = true) :
    let b := (s.stack n).moved (s.stack n).early 8 (s.stack n).bTherm
    exec (.bsuShareUpdate n) s = .next (s.setBTherm n b) ∨ exec (.bsuShareUpdate n) s = .next s ∧ b = (s.stack n).bTherm := by
  have run : exec (.bsuShareUpdate n) s = .next _ := congrArg Host.Outcome.next (if_neg (by simp [present]))
  rw [run]
  exact (moved_set_or_kept (s.setBTherm n)).imp (congrArg _) (And.imp_left (congrArg _))

/-! ### Samples (R210) -/

/-- What a sample sets in its stack. -/
def Stack.sensed (x : Stack) : Nat × Bool × List Int × Bool := (x.temp, x.sensorFail, x.samples, x.refresh2)

/-- What follows from stack n's sample: its shares, T, and events, but no stack's sensor and no other stack. -/
structure FollowsSample (n : Nat) (s t : State) : Prop where
  only : t = { s with stk := t.stk, thm := { s.thm with t := t.thm.t }, mgmt := t.mgmt, fresh := t.fresh, counts := t.counts,
                      clockHeld := t.clockHeld }
  sensed : (t.stack n).sensed = (s.stack n).sensed
  others : ∀ m, m ≠ n → t.stack m = s.stack m

theorem FollowsSample.refl (s : State) : FollowsSample n s s := ⟨rfl, rfl, fun _ _ => rfl⟩

theorem FollowsSample.trans (h : FollowsSample n s t) (h' : FollowsSample n t r) : FollowsSample n s r where
  only := by
    have only' := h'.only
    rw [h.only] at only'
    exact only'
  sensed := h'.sensed.trans h.sensed
  others m hm := (h'.others m hm).trans (h.others m hm)

theorem FollowsSample.modStack {f : Stack → Stack} (h : ∀ x, (f x).sensed = x.sensed) : FollowsSample n s (s.modStack n f) where
  only := rfl
  sensed := by rw [State.modStack_stack_self, h]
  others _ hm := State.modStack_stack_other _ _ hm

theorem FollowsSample.event {cls pid d0 d1 : Nat} {code : Status} {o : Obs} : FollowsSample n s (s.event cls code o pid d0 d1) where
  only := by
    rw [State.event_thm, State.event_stk]
    exact event_eq ..
  sensed := by rw [event_stack]
  others _ _ := event_stack

theorem setAdmit_followsSample {a : Nat} : FollowsSample n s (s.setAdmit n a) := by
  by_cases h : (s.stack n).admitMax = 16 ∧ a < 16
  · rw [setAdmit_hot h]
    exact ((FollowsSample.modStack fun _ => by rfl).trans (.modStack fun _ => by rfl)).trans .event
  · rw [setAdmit_cool h]
    exact .modStack fun _ => by rfl

theorem setBTherm_followsSample {b : Nat} : FollowsSample n s (s.setBTherm n b) := by
  by_cases h : (s.stack n).bTherm = 16 ∧ b < 16
  · rw [setBTherm_hot h]
    exact (FollowsSample.modStack fun _ => by rfl).trans .event
  · rw [setBTherm_cool h]
    exact .modStack fun _ => by rfl

theorem stackSample_failed {q : Int} (present : s.stackPresent n = true) (h : q < -80 ∨ 600 < q) :
    s.stackSample n q = s.modStack n fun x => { x with sensorFail := true, samples := [], riseSamples := [] } := by
  simp [State.stackSample, present, h]

/-- A sample within −20 to 150 °C sets what the sensor shows; shares and T follow from it (R210, R211, R235). -/
theorem stackSample_sound {q : Int} (present : s.stackPresent n = true) (low : -80 ≤ q) (high : q ≤ 600) :
    ∃ rises, FollowsSample n (s.modStack n fun x =>
      { x with temp := unsigned 12 q, sensorFail := false, samples := (q :: x.samples).take 10, riseSamples := rises,
               refresh2 := if q > 4 * ((s.stack n).tref2 : Int) then true else if q < 4 * ((s.stack n).tref2 : Int) - 4 then false
                 else x.refresh2 })
      (s.stackSample n q) := by
  have sound : ¬ (q < -80 ∨ 600 < q) := by omega
  unfold State.stackSample
  rw [if_neg (by simp [present]), if_neg (by simpa using sound)]
  extract_lets x rises fall limit sampled shared
  refine ⟨if fall then [] else rises, ?_⟩
  have risen : FollowsSample n sampled shared := by
    unfold shared
    split
    · exact setBTherm_followsSample
    · exact .refl _
  refine risen.trans ?_
  split
  · split
    · exact .refl _
    · dsimp only
      split
      · exact setAdmit_followsSample
      · exact .trans (t := { shared with thm := { shared.thm with t := min 31 (shared.thm.t + 4) } })
          ⟨rfl, rfl, fun _ _ => rfl⟩ setAdmit_followsSample
  · exact .refl _

end
end Sys2Proof.Machine
end

section
open Sys2Proof Sys2Proof.Machine

theorem Sys2Proof.Claims.refreshAndRecalibration : Sys2Proof.Claims.RefreshAndRecalibration := by
  refine ⟨fun n ch busy s present awake => ⟨_, rfl, ?_⟩, fun n ch busy s h => congrArg Host.Outcome.next (refreshDue_idle h),
    fun fabric unit s => ⟨_, rfl, ?_⟩⟩
  · dsimp only
    rw [refreshDue_due present awake, State.modChan_chan_self]
    exact ⟨rfl, dueOwed_le _ busy, rfl, fun m c h => modChan_chan_other h⟩
  · cases fabric <;> cases s.stackPresent unit <;> rfl

theorem Sys2Proof.Claims.stackTemperature : Sys2Proof.Claims.StackTemperature := by
  refine ⟨fun n q s present low high => ⟨_, rfl, ?_⟩,
    fun n q s present => ⟨⟨_, rfl, if_pos present⟩, fun out => ⟨_, rfl, ?_⟩⟩,
    fun n s present => ⟨?_, ?_⟩, fun n q s absent => ?_⟩
  · obtain ⟨rises, only, sensed, others⟩ := stackSample_sound present low high
    rw [State.modStack_stack_self] at sensed
    simp only [Stack.sensed, Prod.mk.injEq] at sensed
    obtain ⟨temp, sound, samples, doubled⟩ := sensed
    exact ⟨only, temp, sound, samples, doubled, fun m hm => (others m hm).trans (State.modStack_stack_other _ _ hm)⟩
  · exact stackSample_failed present out
  · rcases exec_stackAdmitUpdate present with set | ⟨same, kept⟩
    · exact ⟨_, set, setAdmit_leaves⟩
    · exact ⟨s, same, kept.symm, fun _ => rfl, fun ⟨whole, fell⟩ => absurd (kept.trans whole) (Nat.ne_of_lt fell)⟩
  · rcases exec_bsuShareUpdate present with set | ⟨same, kept⟩
    · exact ⟨_, set, setBTherm_leaves⟩
    · exact ⟨s, same, kept.symm, fun _ => rfl, fun ⟨whole, fell⟩ => absurd (kept.trans whole) (Nat.ne_of_lt fell)⟩
  · have unsampled : s.stackSample n q = s := by simp [State.stackSample, absent]
    refine ⟨congrArg Host.Outcome.next unsampled, congrArg Host.Outcome.next (if_neg (by simp [absent])), ?_, ?_⟩
    all_goals exact congrArg Host.Outcome.next (if_pos (by simp [absent]))
/-- Settles O29: a refresh by its channel's business, a sample by what it sets and what follows from it, the millisecond's shares by the
samples about their thresholds. -/
theorem refreshAndStackTemperature : Obligations.RefreshAndStackTemperature :=
  ⟨Sys2Proof.Claims.refreshAndRecalibration, Sys2Proof.Claims.stackTemperature⟩

end

/-! ## The pattern checkers, and the training of stacks (R193 to R195, R212 to R215) -/

section
namespace Sys2Proof

/-- Taking cells out of a canonical memory makes a byte read as zero or leaves it as it was. -/
theorem Memory.read_filter (p : Host.Cell → Bool) (a : Nat) : ∀ {lo : Nat} {m : List Host.Cell}, Memory.wfFrom lo m = true →
    Memory.read (m.filter p) a = 0 ∨ Memory.read (m.filter p) a = Memory.read m a
  | _, [], _ => .inr rfl
  | lo, (k, b) :: r, h => by
    have rest : Memory.wfFrom (k + 1) r = true := by
      simp only [Memory.wfFrom, Bool.and_eq_true] at h
      exact h.2
    have ih := Memory.read_filter p a rest
    by_cases here : k = a
    · subst here
      by_cases kept : p (k, b) = true
      · exact .inr (by simp [kept, Memory.read, Tbl.look])
      · rw [List.filter_cons_of_neg kept]
        exact .inl (Memory.read_below (Nat.lt_succ_self k) _ (Memory.filter_wfFrom p _ _ rest))
    · have whole : Memory.read ((k, b) :: r) a = Memory.read r a := if_neg here
      rw [whole]
      by_cases kept : p (k, b) = true
      · rw [List.filter_cons_of_pos kept, show Memory.read ((k, b) :: r.filter p) a = Memory.read (r.filter p) a from if_neg here]
        exact ih
      · rwa [List.filter_cons_of_neg kept]

/-- The sum of the powers of two of distinct numbers has just these bits. -/
theorem bit_sum_two_pow (c : Nat) : ∀ (l : List Nat) (v : Nat), l.Nodup → (∀ x ∈ l, bit v x = false) →
    bit ((l.map (2 ^ ·)).foldl (· + ·) v) c = (decide (c ∈ l) || bit v c)
  | [], _, _, _ => by simp
  | x :: l, v, distinct, clear => by
    obtain ⟨new, distinct⟩ := List.nodup_cons.1 distinct
    have added := bit_add_two_pow (clear x List.mem_cons_self)
    have clear' : ∀ y ∈ l, bit (v + 2 ^ x) y = false := fun y hy => by
      have differs : y ≠ x := fun e => new (e ▸ hy)
      rw [added, decide_eq_false differs, clear y (List.mem_cons_of_mem _ hy)]
      rfl
    rw [List.map_cons, List.foldl_cons, bit_sum_two_pow c l _ distinct clear', added]
    by_cases hx : c = x <;> by_cases hl : c ∈ l <;> simp [hx, hl]

theorem nodup_bitsSet (n v : Nat) : (bitsSet n v).Nodup := List.nodup_range.filter _

theorem mem_bitsSet {n v c : Nat} : c ∈ bitsSet n v ↔ c < n ∧ bit v c = true := by
  simp [bitsSet]

end Sys2Proof

namespace Sys2Proof.Machine

section
variable {s t r : State} {n ch : Nat}

/-! ### Several channels of a stack changed -/

/-- A stack apart from its channels. -/
def Stack.bare (x : Stack) : Stack := { x with channels := [] }

theorem modChan_bare (f : Channel → Channel) (m : Nat) : ((s.modChan n ch f).stack m).bare = (s.stack m).bare := by
  by_cases hm : m = n
  · subst hm
    rw [State.modChan, State.modStack_stack_self]
    rfl
  · rw [State.modChan, State.modStack_stack_other _ _ hm]

theorem tg_of_bare {x y : Stack} (h : x.bare = y.bare) : x.tg = y.tg :=
  have same : x.bare.tg = y.bare.tg := congrArg Stack.tg h
  same

/-- A state that differs in its stacks alone. -/
def OnlyStacks (s t : State) : Prop := t = { s with stk := t.stk }

theorem OnlyStacks.trans (h : OnlyStacks s t) (h' : OnlyStacks t r) : OnlyStacks s r := by
  unfold OnlyStacks at h h' ⊢
  rw [h] at h'
  exact h'

section
variable {f : Nat → Channel → Channel}

theorem modChans_onlyStacks (l : List Nat) : ∀ s : State, OnlyStacks s (l.foldl (fun s c => s.modChan n c (f c)) s) := by
  induction l with
  | nil => exact fun _ => rfl
  | cons c l ih => exact fun s => OnlyStacks.trans (t := s.modChan n c (f c)) rfl (ih _)

theorem modChans_bare (l : List Nat) (s : State) (m : Nat) :
    ((l.foldl (fun s c => s.modChan n c (f c)) s).stack m).bare = (s.stack m).bare :=
  foldl_leaves (fun s => (State.stack s m).bare) (fun _ _ => modChan_bare ..) l s

theorem modChans_chan_other {m c : Nat} {l : List Nat} (h : m ≠ n ∨ c ∉ l) (s : State) :
    (l.foldl (fun s c => s.modChan n c (f c)) s).chan m c = s.chan m c := by
  induction l generalizing s with
  | nil => rfl
  | cons x l ih =>
    refine (ih (h.imp_right fun out inside => out (List.mem_cons_of_mem x inside)) _).trans (modChan_chan_other fun e => ?_)
    cases e
    exact h.elim (· rfl) (· List.mem_cons_self)

theorem modChans_chan {c : Nat} {l : List Nat} (distinct : l.Nodup) (h : c ∈ l) (s : State) :
    (l.foldl (fun s c => s.modChan n c (f c)) s).chan n c = f c (s.chan n c) := by
  induction l generalizing s with
  | nil => cases h
  | cons x l ih =>
    obtain ⟨new, distinct⟩ := List.nodup_cons.1 distinct
    rcases List.mem_cons.1 h with rfl | h
    · exact (modChans_chan_other (.inr new) _).trans (State.modChan_chan_self ..)
    · have differs : (n, c) ≠ (n, x) := fun e => new ((Prod.mk.inj e).2 ▸ h)
      exact (ih distinct h _).trans (congrArg (f c) (modChan_chan_other differs))

end

/-! ### START and STOP of a checker (R212, R215) -/

section
variable {mask lo hi pattern : Nat} {both bringup : Bool}

/-- A checker whose run begins. -/
def Checker.begun (x : Checker) (mask lo hi pattern : Nat) (both bringup : Bool) : Checker :=
  { x with state := 1, run := some (mask, lo, hi, pattern, both), stopped := false, bringup := bringup }

theorem modTg_chan {f : Checker → Checker} (m c : Nat) : (s.modTg n f).chan m c = s.chan m c := by
  by_cases hm : m = n
  · subst hm
    simp [State.modTg, State.chan]
  · simp [State.modTg, State.chan, State.modStack_stack_other _ _ hm]

theorem tgBegin_onlyStacks : OnlyStacks s (s.tgBegin n mask lo hi pattern both bringup) :=
  OnlyStacks.trans (t := s.modTg n (·.begun mask lo hi pattern both bringup)) rfl (modChans_onlyStacks ..)

theorem tgBegin_bare : ((s.tgBegin n mask lo hi pattern both bringup).stack n).bare
    = { s.stack n with tg := (s.stack n).tg.begun mask lo hi pattern both bringup, channels := [] } := by
  refine (modChans_bare ..).trans ?_
  rw [State.modTg, State.modStack_stack_self]
  rfl

theorem tgBegin_chan {c : Nat} (h : c ∈ bitsSet 32 mask) :
    (s.tgBegin n mask lo hi pattern both bringup).chan n c = { s.chan n c with state := .testing } :=
  (modChans_chan (nodup_bitsSet 32 mask) h _).trans (congrArg (fun c => { c with state := .testing }) (modTg_chan ..))

theorem tgBegin_chan_other {m c : Nat} (h : m ≠ n ∨ c ∉ bitsSet 32 mask) :
    (s.tgBegin n mask lo hi pattern both bringup).chan m c = s.chan m c :=
  (modChans_chan_other h _).trans (modTg_chan ..)

end

theorem exec_tgStart (reached : s.stackRefused n 0x418 = none) : exec (.tgStart n) s = .next (s.tgStart n) :=
  congrArg (fun refused => Host.Outcome.next (Option.getD refused _)) reached

theorem tgStart_begins (seeded : ¬ (((s.stack n).tg.both = true ∨ (s.stack n).tg.pattern = 0) ∧ (s.stack n).tg.seed = 0))
    (idle : (s.stack n).tg.run = none)
    (out : ∀ c ∈ bitsSet 32 (s.stack n).tg.mask, (s.chan n c).state = .out ∧ (s.stack n).descAbsent c = false)
    (sound : (s.stack n).state ≠ .failed) :
    let x := (s.stack n).tg
    s.tgStart n = (s.tgBegin n x.mask x.lo x.hi x.pattern x.both false).stackStatus n Code.ok := by
  have all_out : ((bitsSet 32 (s.stack n).tg.mask).any fun c => (s.chan n c).state != .out) = false :=
    List.any_eq_false.2 fun c hc => by simp [(out c hc).1]
  have none_absent : (bitsSet 32 (s.stack n).tg.mask).any (s.stack n).descAbsent = false :=
    List.any_eq_false.2 fun c hc => by simp [(out c hc).2]
  unfold State.tgStart
  dsimp only
  rw [if_neg (by simpa using seeded), if_neg (by simp [idle, all_out]), if_neg (by simp [sound, none_absent])]

theorem exec_tgStop (reached : s.stackRefused n 0x418 = none) : exec (.tgStop n) s
    = .next ((s.modTg n fun y => { y with stopped := y.stopped || y.run.isSome }).stackStatus n Code.ok) :=
  congrArg (fun refused => Host.Outcome.next (Option.getD refused _)) reached

/-! ### Lines read back by a checker (R212, R213, R253, R254) -/

/-- A state that differs in its stacks and in what events change. -/
def OnlyTold (s t : State) : Prop :=
  t = { s with stk := t.stk, mgmt := t.mgmt, fresh := t.fresh, counts := t.counts, clockHeld := t.clockHeld }

theorem OnlyTold.trans (h : OnlyTold s t) (h' : OnlyTold t r) : OnlyTold s r := by
  unfold OnlyTold at h h' ⊢
  rw [h] at h'
  exact h'

theorem event_onlyTold {cls pid d0 d1 : Nat} {code : Status} {o : Obs} : OnlyTold s (s.event cls code o pid d0 d1) := by
  unfold OnlyTold
  rw [State.event_stk]
  exact event_eq ..

/-- A channel apart from its counts of errors. -/
def Channel.uncounted (c : Channel) : Channel := { c with ce := 0, ue := 0, erased := 0 }

/-- A checker's reads count and log what they meet, and tell of it; no checker and nothing else of a channel changes. -/
structure Counts (s t : State) : Prop where
  only : OnlyTold s t
  tg : ∀ m, (t.stack m).tg = (s.stack m).tg
  chan : ∀ m c, (t.chan m c).uncounted = (s.chan m c).uncounted

namespace Counts

theorem refl (s : State) : Counts s s := ⟨rfl, fun _ => rfl, fun _ _ => rfl⟩

theorem trans (h : Counts s t) (h' : Counts t r) : Counts s r where
  only := h.only.trans h'.only
  tg m := (h'.tg m).trans (h.tg m)
  chan m c := (h'.chan m c).trans (h.chan m c)

theorem modChan {f : Channel → Channel} (h : ∀ c, (f c).uncounted = c.uncounted) : Counts s (s.modChan n ch f) where
  only := rfl
  tg m := tg_of_bare (modChan_bare f m)
  chan m c := by
    by_cases here : (m, c) = (n, ch)
    · cases here
      rw [State.modChan_chan_self, h]
    · rw [modChan_chan_other here]

theorem event {cls pid d0 d1 : Nat} {code : Status} {o : Obs} : Counts s (s.event cls code o pid d0 d1) where
  only := event_onlyTold
  tg _ := by rw [event_stack]
  chan _ _ := by rw [State.chan, event_stack, State.chan]

theorem modStack {f : Stack → Stack} (tg : ∀ x, (f x).tg = x.tg) (channels : ∀ x, (f x).channels = x.channels) :
    Counts s (s.modStack n f) where
  only := rfl
  tg m := by
    by_cases hm : m = n
    · rw [hm, State.modStack_stack_self, tg]
    · rw [State.modStack_stack_other _ _ hm]
  chan m c := by
    by_cases hm : m = n
    · rw [hm, State.chan, State.modStack_stack_self, channels, State.chan]
    · rw [State.chan, State.modStack_stack_other _ _ hm, State.chan]

theorem logRead {line kind rd : Nat} {symbols : List Nat} {again : Bool} :
    Counts s (s.logRead n ch line kind rd symbols again) := by
  refine .modStack (fun x => ?_) fun x => ?_
  all_goals
    dsimp only
    split
    · rfl
    · split
      · rfl
      · split
        · rfl
        · split <;> rfl

theorem countCe : Counts s (s.countCe n ch) := by
  have counted : Counts s (s.modChan n ch fun c => { c with ce := (s.chan n ch).ce + 1 }) := .modChan fun _ => rfl
  unfold State.countCe
  dsimp only
  split
  · exact .refl s
  · split
    · exact counted.trans .event
    · exact counted

theorem erase (h : Counts s t) : (t.chan n ch).erase = (s.chan n ch).erase :=
  have same : (t.chan n ch).uncounted.erase = (s.chan n ch).uncounted.erase := congrArg Channel.erase (h.chan n ch)
  same

end Counts

/-- What a line reads back as depends on its channel's erased position alone. -/
theorem lineWrong_congr (h : (t.chan n ch).erase = (s.chan n ch).erase) (d : Deviation) : t.lineWrong n ch d = s.lineWrong n ch d := by
  simp only [State.lineWrong, h]

/-- A line that reads back so fails (R212). -/
def Decoded.fails : Decoded → Bool
  | .clean off => !off.isEmpty
  | .corrected off symbols => decide (1 < symbols.length) || !off.isEmpty
  | .poisoned => true
  | .uncorrectable => true

/-- A line read back by a checker (R212): whether it fails, with the read counted and logged. -/
theorem tgRead_spec {j : Nat} {d : Deviation} :
    (s.tgRead n ch j d).1 = (s.lineWrong n ch d).fails ∧ Counts s (s.tgRead n ch j d).2 := by
  unfold State.tgRead
  split
  next line t addressed =>
  have drawn : Counts s t := by
    split at addressed
    · cases addressed
      exact .refl s
    · cases addressed
      exact ⟨rfl, fun _ => rfl, fun _ _ => rfl⟩
  rw [← lineWrong_congr drawn.erase]
  split
  · next h => exact ⟨by rw [h]; rfl, drawn⟩
  · next h =>
    refine ⟨by rw [h]; rfl, drawn.trans ?_⟩
    dsimp only
    split
    · exact Counts.countCe.trans .logRead
    · exact .modChan fun _ => rfl
  · next h => exact ⟨by rw [h]; rfl, drawn.trans .logRead⟩
  · next h =>
    refine ⟨by rw [h]; rfl, drawn.trans (.trans ?_ .event)⟩
    exact .trans .logRead (.modChan fun _ => rfl)

/-- The lines of a channel that fail as they are read back. -/
def State.failing (s : State) (n ch : Nat) (found : Tbl Deviation) : List Nat :=
  (found.filter fun x => (s.lineWrong n ch x.2).fails).map (·.1)

theorem failing_cons {j : Nat} {d : Deviation} {found : Tbl Deviation} : s.failing n ch ((j, d) :: found)
    = if (s.lineWrong n ch d).fails then j :: s.failing n ch found else s.failing n ch found := by
  unfold State.failing
  by_cases h : (s.lineWrong n ch d).fails <;> simp [h]

theorem failing_congr (h : (t.chan n ch).erase = (s.chan n ch).erase) (found : Tbl Deviation) :
    t.failing n ch found = s.failing n ch found := by
  simp only [State.failing, lineWrong_congr h]

/-- A channel's lines judged: how many fail, and the first of them. -/
theorem tgJudge_spec (found : Tbl Deviation) : ∀ s : State, ∃ t, Counts s t
    ∧ s.tgJudge n ch found = ((s.failing n ch found).length, (s.failing n ch found).min?.getD 0, t) := by
  induction found with
  | nil => exact fun s => ⟨s, .refl s, rfl⟩
  | cons x found ih =>
    obtain ⟨j, d⟩ := x
    intro s
    obtain ⟨bad, read⟩ := tgRead_spec (s := s) (n := n) (ch := ch) (j := j) (d := d)
    obtain ⟨t, rest, judged⟩ := ih (s.tgRead n ch j d).2
    refine ⟨t, read.trans rest, ?_⟩
    unfold State.tgJudge
    simp only [judged, bad, failing_congr read.erase, failing_cons]
    split
    · cases hrest : s.failing n ch found with
      | nil => rfl
      | cons i is =>
        simp
    · rfl

/-! ### A run's end (R213, R215) -/

/-- The lines a run's end names as wrong, of one channel and within the range. -/
def namedLines (ch lo hi : Nat) (found : List (Nat × Nat × List (Nat × Nat))) : Tbl Deviation :=
  (found.filter fun x => x.1 == ch && (decide (lo ≤ x.2.1) && decide (x.2.1 < hi))).foldl
    (fun (t : Tbl Deviation) x => t.put x.2.1 x.2.2) []

theorem tgFound_named {lo hi pattern seed : Nat} {found : List (Nat × Nat × List (Nat × Nat))} (unfixed : s.stuck = []) :
    s.tgFound n ch lo hi pattern seed found = namedLines ch lo hi found := by
  unfold State.tgFound
  rw [unfixed]
  rfl

/-- A channel whose run has ended, its failing lines as they are (R213, R215). -/
def Channel.judged (c : Channel) (failing : List Nat) (whole : Bool) (pattern : Nat) (both : Bool)
    (left : List (Nat × Nat × Nat × Nat)) : Channel :=
  { c with fails := failing.length % 2 ^ 32, first := failing.min?.getD 0 % 2 ^ 25, state := .out, left := c.left ++ left,
           mark1 := failing.isEmpty && (c.mark1 || (whole && (both || pattern == 1))),
           mark0 := failing.isEmpty && (c.mark0 || (whole && (both || pattern == 0))) }

section
variable {whole both : Bool} {pattern : Nat} {left : List (Nat × Nat × Nat × Nat)}

theorem judged_congr {c d : Channel} {failing : List Nat} (h : c.uncounted = d.uncounted) :
    (c.judged failing whole pattern both left).uncounted = (d.judged failing whole pattern both left).uncounted :=
  congrArg (fun c => (c.judged failing whole pattern both left).uncounted) h

theorem tgChannel_run {failing : List Nat} :
    s.tgChannel n ch failing.length (failing.min?.getD 0) whole pattern both false left
    = s.modChan n ch (·.judged failing whole pattern both left) := by
  cases failing <;> rfl

/-- A run's end on some channels: those judged, all others and the checkers as they were but for counts of errors. -/
structure EndsRun (n : Nat) (judge : Nat → Channel → Channel) (l : List Nat) (s t : State) : Prop where
  only : OnlyTold s t
  tg : ∀ m, (t.stack m).tg = (s.stack m).tg
  inside : ∀ c ∈ l, (t.chan n c).uncounted = (judge c (s.chan n c)).uncounted
  outside : ∀ c, c ∉ l → (t.chan n c).uncounted = (s.chan n c).uncounted

section
variable {judge : Nat → Channel → Channel} {l : List Nat}

theorem EndsRun.one (h : Counts s t) (kept : ∀ x y : Channel, x.uncounted = y.uncounted →
    (judge ch x).uncounted = (judge ch y).uncounted) : EndsRun n judge [ch] s (t.modChan n ch (judge ch)) where
  only := h.only.trans rfl
  tg m := (tg_of_bare (modChan_bare _ m)).trans (h.tg m)
  inside c hc := by
    rw [List.mem_singleton.1 hc, State.modChan_chan_self]
    exact kept _ _ (h.chan n ch)
  outside c hc := by
    have differs : (n, c) ≠ (n, ch) := fun e => hc (List.mem_singleton.2 (Prod.mk.inj e).2)
    rw [modChan_chan_other differs]
    exact h.chan n c

theorem EndsRun.cons (kept : ∀ c (x y : Channel), x.uncounted = y.uncounted → (judge c x).uncounted = (judge c y).uncounted)
    (new : ch ∉ l) (h : EndsRun n judge [ch] s t) (h' : EndsRun n judge l t r) : EndsRun n judge (ch :: l) s r where
  only := h.only.trans h'.only
  tg m := (h'.tg m).trans (h.tg m)
  inside c hc := by
    rcases List.mem_cons.1 hc with rfl | hc
    · exact (h'.outside _ new).trans (h.inside _ List.mem_cons_self)
    · have differs : c ∉ [ch] := fun e => new (List.mem_singleton.1 e ▸ hc)
      exact (h'.inside c hc).trans (kept c _ _ (h.outside c differs))
  outside c hc := by
    obtain ⟨differs, out⟩ := not_or.1 (mt List.mem_cons.2 hc)
    exact (h'.outside c out).trans (h.outside c (mt List.mem_singleton.1 differs))

end

theorem some_fails (l : List Nat) : decide (0 < l.length) = !l.isEmpty := by
  cases l <;> simp

theorem tgChannels_spec {lo hi : Nat} {x : Checker} {found : List (Nat × Nat × List (Nat × Nat))} (run : x.bringup = false)
    (l : List Nat) : ∀ s : State, l.Nodup → s.stuck = [] →
    let failing (c : Nat) := s.failing n c (namedLines c lo hi found)
    ∃ t, State.tgChannels n lo hi pattern both whole x found left l s = (l.any fun c => !(failing c).isEmpty, t)
      ∧ EndsRun n (fun c y => y.judged (failing c) whole pattern both left) l s t := by
  induction l with
  | nil => exact fun s _ _ => ⟨s, rfl, rfl, fun _ => rfl, fun _ h => (List.not_mem_nil h).elim, fun _ _ => rfl⟩
  | cons c l ih =>
    intro s distinct unfixed failing
    obtain ⟨new, distinct⟩ := List.nodup_cons.1 distinct
    obtain ⟨t, read, judged⟩ := tgJudge_spec (n := n) (ch := c) (namedLines c lo hi found) s
    have one := EndsRun.one (judge := fun c y => y.judged (failing c) whole pattern both left) (n := n) (ch := c) read
      fun _ _ => judged_congr
    have erase (i : Nat) : ((t.modChan n c (·.judged (failing c) whole pattern both left)).chan n i).erase = (s.chan n i).erase := by
      by_cases hi : i = c
      · rw [hi, State.modChan_chan_self]
        exact read.erase
      · rw [modChan_chan_other fun e => hi (Prod.mk.inj e).2]
        exact read.erase
    obtain ⟨r, rest, ends⟩ := ih (t.modChan n c (·.judged (failing c) whole pattern both left)) distinct
      ((congrArg State.stuck one.only).trans unfixed)
    simp only [failing_congr (erase _)] at rest ends
    refine ⟨r, ?_, .cons (fun _ _ _ => judged_congr) new one ends⟩
    unfold State.tgChannels
    simp only [tgFound_named unfixed, judged, run, tgChannel_run]
    rw [rest, some_fails, Bool.or_comm]
    rfl

end

/-- What a run that was not stopped leaves in its range (R213, R215). -/
def runLeaves (lo hi pattern seed : Nat) (both : Bool) : List (Nat × Nat × Nat × Nat) :=
  if both then [(lo, hi, 1, seed), (lo, lo + (hi - lo), 0, seed)] else [(lo, lo + (hi - lo), pattern, seed)]

theorem tgLeaves_spec {lo hi pattern seed : Nat} {both stopped : Bool} : ∃ left fresh,
    s.tgLeaves lo hi pattern seed both stopped = (left, { s with fresh := fresh })
      ∧ (stopped = false → left = runLeaves lo hi pattern seed both) := by
  cases stopped with
  | true => exact ⟨_, _, rfl, fun h => by cases h⟩
  | false => exact ⟨_, _, rfl, fun _ => by cases both <;> rfl⟩

theorem nextGroup_none (h : s.gram.groupWait = []) : s.nextGroup = s := by
  simp [State.nextGroup, h]

/-- A checker whose run has ended. -/
def Checker.over (x : Checker) (st : Status) : Checker :=
  { x with state := 2, status := st, run := none, stopped := false, bringup := false }

section
variable {mask lo hi pattern : Nat} {both : Bool} {found : List (Nat × Nat × List (Nat × Nat))}

theorem tgEnd_eq {left : List (Nat × Nat × Nat × Nat)} {bad : Bool} (run : (s.stack n).tg.run = some (mask, lo, hi, pattern, both))
    (leaves : (s.wipe n (bitsSet 32 mask) lo hi).tgLeaves lo hi pattern (s.stack n).tg.seed both (s.stack n).tg.stopped = (left, t))
    (judged : State.tgChannels n lo hi pattern both (decide (lo = 0) && decide (hi = 0x2000000) && !(s.stack n).tg.stopped)
      (s.stack n).tg found left (bitsSet 32 mask) t = (bad, r)) :
    let st := if bad then Code.tgMismatch else Code.ok
    s.tgEnd n found = (r.modTg n (·.over st)).event Cls.stk st (Obs.ofStack n) 0xFF n 0 := by
  unfold State.tgEnd
  simp only [run, leaves, judged]
  rfl

variable (run : (s.stack n).tg.run = some (mask, lo, hi, pattern, both)) (later : (s.stack n).tg.bringup = false) (unfixed : s.stuck = [])
include run later unfixed

/-- The end of a run that is not bring-up's (R213, R215). -/
theorem tgEnd_spec :
    let x := (s.stack n).tg
    let failing (c : Nat) := s.failing n c (namedLines c lo hi found)
    let whole := decide (lo = 0) && decide (hi = 0x2000000) && !x.stopped
    let st := if (bitsSet 32 mask).any fun c => !(failing c).isEmpty then Code.tgMismatch else Code.ok
    ∃ left, (x.stopped = false → left = runLeaves lo hi pattern x.seed both)
      ∧ OnlyTold (s.wipe n (bitsSet 32 mask) lo hi) (s.tgEnd n found) ∧ ((s.tgEnd n found).stack n).tg = x.over st
      ∧ ∀ c ∈ bitsSet 32 mask, ((s.tgEnd n found).chan n c).uncounted
          = ((s.chan n c).judged (failing c) whole pattern both left).uncounted := by
  intro x failing whole st
  obtain ⟨left, fresh, leaves, unstopped⟩ := tgLeaves_spec (s := s.wipe n (bitsSet 32 mask) lo hi) (lo := lo) (hi := hi)
    (pattern := pattern) (seed := x.seed) (both := both) (stopped := x.stopped)
  obtain ⟨r, judged, ends⟩ := tgChannels_spec (n := n) (lo := lo) (hi := hi) (pattern := pattern) (both := both) (whole := whole)
    (left := left) (x := x) (found := found) later (bitsSet 32 mask) { s.wipe n (bitsSet 32 mask) lo hi with fresh := fresh }
    (nodup_bitsSet 32 mask) unfixed
  have ended : s.tgEnd n found = (r.modTg n (·.over st)).event Cls.stk st (Obs.ofStack n) 0xFF n 0 := tgEnd_eq run leaves judged
  refine ⟨left, unstopped, ?_, ?_, fun c hc => ?_⟩
  · rw [ended]
    have marked : OnlyTold r (r.modTg n (·.over st)) := rfl
    have drawn : OnlyTold (s.wipe n (bitsSet 32 mask) lo hi) { s.wipe n (bitsSet 32 mask) lo hi with fresh := fresh } := rfl
    exact (drawn.trans ends.only).trans (marked.trans event_onlyTold)
  · rw [ended, event_stack, State.modTg, State.modStack_stack_self]
    exact congrArg (Checker.over · st) (ends.tg n)
  · rw [ended, State.chan, event_stack, ← State.chan, modTg_chan]
    exact ends.inside c hc

end

end
end Sys2Proof.Machine
end

section
open Sys2Proof Sys2Proof.Machine

theorem Sys2Proof.Claims.checkerRuns : Sys2Proof.Claims.CheckerRuns := by
  refine ⟨fun n s reached => ⟨fun seeded idle out sound => ⟨_, exec_tgStart reached, ?_⟩, ⟨_, exec_tgStop reached, rfl⟩⟩,
    fun n mask lo hi pattern both found s run later ungrouped unfixed => ⟨_, rfl, ?_⟩⟩
  · dsimp only
    rw [tgStart_begins seeded idle out sound, stackStatus_lastCmd]
    refine ⟨?_, ?_, rfl, fun ch hch => ?_, fun m ch h => ?_⟩
    · exact tgBegin_onlyStacks.trans (t := s.tgBegin ..) rfl
    · rw [State.stackStatus, State.modStack_stack_self]
      exact congrArg Stack.tg tgBegin_bare
    · rw [stackStatus_chan, tgBegin_chan hch]
    · rw [stackStatus_chan, tgBegin_chan_other h]
  · obtain ⟨left, unstopped, only, tg, channels⟩ := tgEnd_spec (found := found) run later unfixed
    have grouped : (s.tgEnd n found).nextGroup = s.tgEnd n found :=
      nextGroup_none ((congrArg (fun t => t.gram.groupWait) only).trans ungrouped)
    dsimp only
    rw [grouped]
    refine ⟨?_, tg, fun a wf => ?_, fun ch hch => ?_⟩
    · rw [only]
      rfl
    · rw [only]
      exact Memory.read_filter _ a wf
    · have judged := channels ch hch
      refine ⟨congrArg Channel.state judged, congrArg Channel.fails judged, congrArg Channel.first judged,
        congrArg Channel.mark0 judged, congrArg Channel.mark1 judged, fun whole => ?_⟩
      exact (congrArg Channel.left judged).trans (congrArg ((s.chan n ch).left ++ ·) (unstopped whole))

end

/-! ## The training of stacks (R193 to R196, R213, R256) -/

section
namespace Sys2Proof.Machine

section
variable {s t : State} {n ch reason : Nat}

/-! ### Channels of a stack mapped out -/

theorem mapOut_bare (m : Nat) : ((s.mapOut n ch reason).stack m).bare = (s.stack m).bare := by
  rw [mapOut_stack]
  exact modChan_bare ..

theorem mapOut_chan_other {m c : Nat} (h : (m, c) ≠ (n, ch)) : (s.mapOut n ch reason).chan m c = s.chan m c := by
  rw [State.chan, mapOut_stack]
  exact modChan_chan_other h

section
variable {l : List Nat}

theorem mapOuts_bare (m : Nat) : ((l.foldl (fun s c => State.mapOut s n c reason) s).stack m).bare = (s.stack m).bare :=
  foldl_leaves (fun s => (State.stack s m).bare) (fun _ _ => mapOut_bare m) l s

theorem mapOuts_standing : (l.foldl (fun s c => State.mapOut s n c reason) s).standing = s.standing :=
  standing_foldl (fun _ _ => mapOut_standing) l s

theorem mapOuts_chan_other {c : Nat} (h : c ∉ l) : (l.foldl (fun s c => State.mapOut s n c reason) s).chan n c = s.chan n c := by
  induction l generalizing s with
  | nil => rfl
  | cons x l ih =>
    obtain ⟨differs, out⟩ := not_or.1 (mt List.mem_cons.2 h)
    exact (ih out).trans (mapOut_chan_other fun e => differs (Prod.mk.inj e).2)

/-- Mapping out keeps a channel's spares and its erased position. -/
theorem mapOut_repair (c : Nat) : ((s.mapOut n ch reason).chan n c).spares = (s.chan n c).spares
    ∧ ((s.mapOut n ch reason).chan n c).erase = (s.chan n c).erase := by
  by_cases h : c = ch
  · rw [h, mapOut_chan]
    unfold Channel.mappedOut
    split <;> exact ⟨rfl, rfl⟩
  · rw [mapOut_chan_other fun e => h (Prod.mk.inj e).2]
    exact ⟨rfl, rfl⟩

theorem mapOuts_repair (c : Nat) : let t := l.foldl (fun s c => State.mapOut s n c reason) s
    (t.chan n c).spares = (s.chan n c).spares ∧ (t.chan n c).erase = (s.chan n c).erase :=
  ⟨foldl_leaves (fun s => (State.chan s n c).spares) (fun _ _ => (mapOut_repair c).1) l s,
    foldl_leaves (fun s => (State.chan s n c).erase) (fun _ _ => (mapOut_repair c).2) l s⟩

/-- A channel mapped out is out for the reason given. -/
theorem mapOut_chan_out : ((s.mapOut n ch reason).chan n ch).state = .out ∧ ((s.mapOut n ch reason).chan n ch).reason = reason := by
  obtain ⟨out, told, _⟩ := mappedOut_always (reason := reason) (s.chan n ch) (s.recorded n ch reason)
  rw [mapOut_chan]
  exact ⟨out, told⟩

/-- Every channel of a list mapped out for one reason is out for it. -/
theorem mapOuts_chan {c : Nat} (h : c ∈ l) : let t := l.foldl (fun s c => State.mapOut s n c reason) s
    (t.chan n c).state = .out ∧ (t.chan n c).reason = reason := by
  induction l generalizing s with
  | nil => cases h
  | cons x l ih =>
    by_cases later : c ∈ l
    · exact ih later
    · have here : c = x := (List.mem_cons.1 h).resolve_right later
      show (State.chan (l.foldl _ _) n c).state = _ ∧ (State.chan (l.foldl _ _) n c).reason = _
      rw [mapOuts_chan_other later, here]
      exact mapOut_chan_out

end

/-! ### A stack that fails (R194) -/

/-- The channels a stack has on this part. -/
def State.chansOf (s : State) (n : Nat) : List Nat := (List.range 32).filter (s.chanPresent n)

theorem mem_chansOf {c : Nat} : c ∈ s.chansOf n ↔ c < 32 ∧ s.chanPresent n c = true := by
  simp [State.chansOf]

theorem failStack_standing : (s.failStack n).standing = s.standing := by
  rw [State.failStack, event_standing, mapOuts_standing]
  rfl

theorem failStack_spec : ((s.failStack n).stack n).state = .failed ∧ ((s.failStack n).stack n).trained = (s.stack n).trained
    ∧ ∀ c < 32, s.chanPresent n c = true → ((s.failStack n).chan n c).state = .out ∧ ((s.failStack n).chan n c).reason = 1 := by
  have bare : ((s.failStack n).stack n).bare = { s.stack n with state := .failed, channels := [] } := by
    rw [State.failStack, event_stack, mapOuts_bare, State.modStack_stack_self]
    rfl
  refine ⟨congrArg Stack.state bare, (congrArg Stack.trained bare :), fun c small present => ?_⟩
  rw [State.failStack, State.chan, event_stack]
  exact mapOuts_chan (mem_chansOf.2 ⟨small, present⟩)

/-! ### A stack that keeps its rate (R194 to R196, R213, R256) -/

section
variable {rate : Nat} {d : List Byte} {lanes : List (Nat × Nat × Nat)} {bad : List Nat}

theorem descAbsent_of_descriptor {x : Stack} {c : Nat} (h : x.descriptor = d) (whole : d ≠ []) :
    x.descAbsent c = !bit (leAt d 4 4) c := by
  simp [Stack.descAbsent, h, whole]

/-- A present channel of a stack whose lanes are trained: spares in use, the erased position, and what the record store says of it. -/
def Channel.repaired (flash : Flash) (d : List Byte) (lanes : List (Nat × Nat × Nat)) (n ch : Nat) (c : Channel) : Channel :=
  { c with spares := min 2 (lanesFailed lanes ch 0 + lanesFailed lanes ch 1),
           erase := flash.erasures.look (descErase d ch) (32 * n + ch),
           reason := flash.mapouts.look 0 (32 * n + ch),
           state := if (flash.mapouts.seek (32 * n + ch)).isSome then .out else .inService }

/-- A change of channels by what the record store says is one by what it said at first. -/
theorem modChans_flash {f : Flash → Nat → Channel → Channel} (l : List Nat) : ∀ s : State,
    l.foldl (fun t c => t.modChan n c (f t.flash c)) s = l.foldl (fun t c => t.modChan n c (f s.flash c)) s := by
  induction l with
  | nil => exact fun _ => rfl
  | cons c l ih => exact fun s => ih (s.modChan n c (f s.flash c))

/-- What a stack that keeps its rate comes to (R194 to R196, R213, R256). -/
theorem keepRate_spec (whole : d ≠ []) : let t := s.keepRate n rate d lanes bad
    t.standing = s.standing
    ∧ (∃ mask, (t.stack n).bare = { s.stack n with
        rate := rate, trained := true, asleep := false, descriptor := d, admitMax := 16, channels := [],
        tg := (s.stack n).tg.begun mask 0 0x2000000 1 true true })
    ∧ ∀ c < 32, s.chanPresent n c = true →
        (t.chan n c).spares = min 2 (lanesFailed lanes c 0 + lanesFailed lanes c 1)
        ∧ (t.chan n c).erase = s.flash.erasures.look (descErase d c) (32 * n + c)
        ∧ (t.chan n c).state = if bit (leAt d 4 4) c = true then .testing else .out := by
  intro t
  generalize ht : t = t'
  unfold t State.keepRate at ht
  extract_lets chans kept repaired out absent gone at ht
  subst ht
  have repaired_eq : repaired = chans.foldl (fun t c => t.modChan n c (Channel.repaired s.flash d lanes n c)) kept :=
    modChans_flash (f := fun flash => Channel.repaired flash d lanes n) chans kept
  have distinct : chans.Nodup := List.nodup_range.filter _
  have member {c : Nat} : c ∈ chans ↔ c < 32 ∧ s.chanPresent n c = true := mem_chansOf
  have standing : gone.standing = s.standing := by
    unfold gone out
    rw [mapOuts_standing, mapOuts_standing, repaired_eq, standing_foldl (fun _ _ => modChan_standing)]
    rfl
  have bare : (gone.stack n).bare = { s.stack n with
      rate := rate, trained := true, asleep := false, descriptor := d, admitMax := 16, channels := [] } := by
    unfold gone out
    rw [mapOuts_bare, mapOuts_bare, repaired_eq, modChans_bare, State.modStack_stack_self]
    rfl
  have descriptor : (out.stack n).descriptor = d := by
    have outBare : (out.stack n).bare = (gone.stack n).bare := (mapOuts_bare n).symm
    exact congrArg Stack.descriptor (outBare.trans bare)
  have gone_iff {c : Nat} : c ∈ absent ↔ c ∈ chans ∧ bit (leAt d 4 4) c = false := by
    simp [absent, descAbsent_of_descriptor descriptor whole]
  generalize hmask : ((chans.filter fun c => !absent.contains c).map (2 ^ ·)).foldl (· + ·) 0 = mask
  have tested_iff {c : Nat} (hc : c ∈ chans) : c ∈ bitsSet 32 mask ↔ bit (leAt d 4 4) c = true := by
    have small := (member.1 hc).1
    rw [mem_bitsSet, ← hmask, bit_sum_two_pow c _ 0 (distinct.filter _) fun x _ => by simp [bit]]
    simp [small, hc, gone_iff, bit]
  refine ⟨?_, ⟨mask, ?_⟩, fun c small present => ?_⟩
  · unfold State.tgBegin
    rw [standing_foldl (fun _ _ => modChan_standing)]
    exact standing
  · rw [tgBegin_bare]
    exact congrArg (fun x : Stack => { x with tg := x.tg.begun mask 0 0x2000000 1 true true }) bare
  · have hc : c ∈ chans := member.2 ⟨small, present⟩
    have first : repaired.chan n c = Channel.repaired s.flash d lanes n c (kept.chan n c) := by
      rw [repaired_eq, modChans_chan distinct hc]
    obtain ⟨spares, erase⟩ : (gone.chan n c).spares = (repaired.chan n c).spares
        ∧ (gone.chan n c).erase = (repaired.chan n c).erase :=
      ⟨(mapOuts_repair c).1.trans (mapOuts_repair c).1, (mapOuts_repair c).2.trans (mapOuts_repair c).2⟩
    rw [first] at spares erase
    by_cases tested : bit (leAt d 4 4) c = true
    · rw [tgBegin_chan ((tested_iff hc).2 tested), if_pos tested]
      exact ⟨spares, erase, rfl⟩
    · rw [tgBegin_chan_other (.inr (mt (tested_iff hc).1 tested)), if_neg tested]
      exact ⟨spares, erase, (mapOuts_chan (gone_iff.2 ⟨hc, Bool.eq_false_iff.2 tested⟩)).1⟩

end

/-! ### STACK_TRAIN_DONE (R193 to R195) -/

/-- The present channels of a stack that its spare lanes do not repair (R195). -/
def State.beyondRepair (s : State) (n : Nat) (lanes : List (Nat × Nat × Nat)) : List Nat :=
  (List.range 32).filter fun ch => s.chanPresent n ch && (decide (2 ≤ lanesFailed lanes ch 0)
    || decide (2 ≤ lanesFailed lanes ch 1) || decide (2 < lanesFailed lanes ch 0 + lanesFailed lanes ch 1))

theorem descriptor_not_empty {d : List Byte} (good : descriptorGood d = true) : d ≠ [] := by
  rintro rfl
  exact absurd good (by decide)

/-- STACK_TRAIN_DONE while nothing waits for a second group. -/
theorem exec_stackTrainDone {d : List Byte} {lanes : List (Nat × Nat × Nat)} (h : s.trainDone n d lanes = t)
    (standing : t.standing = s.standing) (ungrouped : s.gram.groupWait = []) : exec (.stackTrainDone n d lanes) s = .next t := by
  have none_waits : t.gram.groupWait = [] := (congrArg Gram.groupWait (gram_of_standing standing)).trans ungrouped
  exact congrArg Host.Outcome.next ((congrArg State.nextGroup h).trans (nextGroup_none none_waits))

section
variable {d : List Byte} {lanes : List (Nat × Nat × Nat)}
  (present : s.stackPresent n = true) (powered : (s.stack n).initialised = true) (training : (s.stack n).state = .training)
  (untrained : (s.stack n).trained = false) (applying : s.gram.state = .apply)
include present powered training untrained applying

theorem trainDone_inBringup : s.trainDone n d lanes =
    let rate := max (leAt d 2 1) (s.stack n).rateCap + (s.stack n).tries
    if !(descriptorGood d) then
      if (s.stack n).descFailed then s.failStack n else s.modStack n fun x => { x with descFailed := true }
    else if (s.beyondRepair n lanes).length ≤ 4 then s.keepRate n rate d lanes (s.beyondRepair n lanes)
    else if rate < 2 then s.modStack n fun x => { x with tries := x.tries + 1, descriptor := d }
    else (s.modStack n fun x => { x with descriptor := d }).failStack n :=
  if_neg (by simp [present, powered, training, untrained, applying])

end

end
end Sys2Proof.Machine
end

section
open Sys2Proof Sys2Proof.Machine

theorem Sys2Proof.Claims.stackTraining : Sys2Proof.Claims.StackTraining := by
  intro n d lanes s present powered training untrained applying ungrouped rate bad
  have run {t : State} (h : s.trainDone n d lanes = t) (hs : t.standing = s.standing) : exec (.stackTrainDone n d lanes) s = .next t :=
    exec_stackTrainDone h hs ungrouped
  have reached : s.trainDone n d lanes = _ := trainDone_inBringup present powered training untrained applying
  refine ⟨fun wrong first => ?_, fun wrong again => ?_, fun good few => ?_, fun good many slower => ?_, fun good many last => ?_⟩
  · have taken := reached.trans ((if_pos (by simp [wrong])).trans (if_neg (by simp [first])))
    exact ⟨_, run taken rfl, rfl⟩
  · have taken := reached.trans ((if_pos (by simp [wrong])).trans (if_pos again))
    obtain ⟨failed, trained, channels⟩ := failStack_spec (s := s) (n := n)
    exact ⟨_, run taken failStack_standing, failed, trained.trans untrained, channels⟩
  · have taken := reached.trans ((if_neg (by simp [good])).trans (if_pos few))
    obtain ⟨standing, ⟨mask, bare⟩, channels⟩ := keepRate_spec (s := s) (n := n) (rate := rate) (lanes := lanes) (bad := bad)
      (descriptor_not_empty good)
    refine ⟨_, run taken standing, congrArg Stack.trained bare, congrArg Stack.rate bare, congrArg Stack.asleep bare,
      congrArg Stack.descriptor bare, congrArg Stack.admitMax bare, congrArg (fun x => x.tg.bringup) bare,
      ⟨mask, congrArg (fun x => x.tg.run) bare⟩, channels⟩
  · have taken := reached.trans ((if_neg (by simp [good])).trans ((if_neg (Nat.not_le.2 many)).trans (if_pos slower)))
    exact ⟨_, run taken rfl, rfl⟩
  · have taken := reached.trans ((if_neg (by simp [good])).trans ((if_neg (Nat.not_le.2 many)).trans (if_neg (Nat.not_lt.2 last))))
    obtain ⟨failed, trained, channels⟩ := failStack_spec (s := s.modStack n fun x => { x with descriptor := d }) (n := n)
    rw [State.modStack_stack_self] at trained
    exact ⟨_, run taken (failStack_standing.trans rfl), failed, trained.trans untrained, channels⟩

/-- Settles O30: a run's end judges its channels one after another; a training ends by its descriptor, its channels and its rate. -/
theorem checkersAndStackTraining : Obligations.CheckersAndStackTraining :=
  ⟨Sys2Proof.Claims.checkerRuns, Sys2Proof.Claims.stackTraining⟩

end

/-! ## An image put in force, and the scheduling-quantum boundary (R60, R62, R196, R197, R318) -/

section
namespace Sys2Proof.Machine

section
variable {s t r : State} {img : Image}

/-! ### What the serving controller's boundaries leave standing -/

@[simp] theorem modGroup_standing {g : Nat} {f : Group → Group} : (s.modGroup g f).standing = s.standing := rfl
@[simp] theorem modSched_standing {f : Sched → Sched} : (s.modSched f).standing = s.standing := rfl

theorem modSrv_standing {f : Srv → Srv} (h : ∀ x, (f x).state = x.state ∧ (f x).tick = x.tick ∧ (f x).ticking = x.ticking) :
    (s.modSrv f).standing = s.standing := by
  obtain ⟨state, tick, ticking⟩ := h s.srv
  simp only [State.standing, State.modSrv, state, tick, ticking]

/-- A walk that gathers values and changes the state leaves `standing` where each of its steps does. -/
theorem standing_foldl_snd {α β : Type} {f : β × State → α → β × State} (h : ∀ x a, (f x a).2.standing = x.2.standing)
    (l : List α) (x : β × State) : (l.foldl f x).2.standing = x.2.standing := by
  induction l generalizing x with
  | nil => rfl
  | cons a l ih => exact (ih (f x a)).trans (h x a)

@[simp] theorem passBoundary_standing {i : Nat} : (s.passBoundary i).standing = s.standing := by
  unfold State.passBoundary
  dsimp only
  split <;> rfl

@[simp] theorem suspendDraft_standing {i : Nat} : (s.suspendDraft i).standing = s.standing := by
  unfold State.suspendDraft
  dsimp only
  split
  · rfl
  · split
    · split <;> rfl
    · rfl

@[simp] theorem pause_standing {i reason : Nat} : (s.pause i reason).standing = s.standing := by
  unfold State.pause
  simp

theorem leafSlots_standing {p : Nat} (pages : List Nat) : ∀ s : State, (State.leafSlots p pages s).2.standing = s.standing := by
  induction pages with
  | nil => exact fun _ => rfl
  | cons v pages ih =>
    intro s
    unfold State.leafSlots
    split
    · next h => exact standing_snd h leafSlot_standing
    · next h =>
      have first := standing_snd h leafSlot_standing
      split <;> next h' => exact (standing_snd h' (ih _)).trans first

@[simp] theorem commitPages_standing {p : Nat} {pages : List Nat} : (s.commitPages p pages).2.standing = s.standing := by
  unfold State.commitPages
  dsimp only
  split
  · rfl
  · split
    · next h => exact standing_snd h (leafSlots_standing _ _)
    · next h =>
      refine (standing_foldl (fun _ _ => ?_) _ _).trans (standing_snd h (leafSlots_standing _ _))
      simp

@[simp] theorem readyOrPause_standing {i : Nat} : (s.readyOrPause i).2.standing = s.standing := by
  unfold State.readyOrPause
  dsimp only
  split
  · simp
  · split
    · next h => simp [standing_snd h commitPages_standing]
    · next h =>
      have paid := standing_snd h commitPages_standing
      split
      · simp [paid]
      · split <;> simp [paid]

@[simp] theorem settleRequest_standing {i : Nat} {failed : Option Status} : (s.settleRequest i failed).2.standing = s.standing := by
  unfold State.settleRequest
  dsimp only
  split
  · exact endRequest_standing
  · split
    · exact endRequest_standing
    · split
      · exact endRequest_standing
      · split
        · exact endRequest_standing
        · exact readyOrPause_standing

/-! ### A group's descriptors -/

@[simp] theorem planeNoun_standing {base rows rowBytes : Nat} : (s.planeNoun base rows rowBytes).2.standing = s.standing := rfl

@[simp] theorem nounFor_standing {d : Issue} {mark : Nat} : (s.nounFor d mark).2.standing = s.standing := by
  unfold State.nounFor
  split
  · split <;> rfl
  · rfl

@[simp] theorem issueNoun_standing {p tag : Nat} {b : List Byte} : (s.issueNoun p tag b).2.standing = s.standing :=
  submitBytes_standing

@[simp] theorem fillNouns_standing {p tag : Nat} {d : Issue} {hs : List Nat} : (s.fillNouns p tag d hs).2.standing = s.standing := by
  refine standing_foldl_snd (fun x mark => ?_) _ _
  dsimp only
  rw [issueNoun_standing, nounFor_standing]

@[simp] theorem fillPeers_standing {core lanes : Nat} {use : Bool} : (State.fillPeers core lanes use s).2.standing = s.standing := by
  unfold State.fillPeers
  split <;> rfl

@[simp] theorem pickLead_standing {p : Nat} : (s.pickLead p).2.standing = s.standing := rfl

@[simp] theorem sendDescriptor_standing {gn : Nat} {d : Issue} : (s.sendDescriptor gn d).standing = s.standing := by
  unfold State.sendDescriptor
  dsimp only
  split <;> next h => simp [standing_snd h pickLead_standing]

theorem sendIssues_standing {gn : Nat} (ds : List Issue) : ∀ s : State, (State.sendIssues gn ds s).standing = s.standing := by
  induction ds with
  | nil => exact fun _ => rfl
  | cons d ds ih =>
    intro s
    unfold State.sendIssues
    split
    · exact (ih _).trans sendDescriptor_standing
    · rfl

/-! ### A group's passes -/

theorem bankLine_standing {x : BankReader} {line : Nat} : LeavesStanding (bankLine x line) := by
  refine .bind bankWalk_standing fun pa => .bind (.modifyGet fun _ => readLine_standing) fun y => ?_
  cases y <;> exact fun _ => rfl

theorem bankLines_standing {x : BankReader} (lines : List Nat) : LeavesStanding (bankLines x lines) := by
  induction lines with
  | nil => exact fun _ => rfl
  | cons l lines ih => exact .bind bankLine_standing fun _ => .bind ih fun _ _ => rfl

theorem bankBytes_standing {x : BankReader} {va n : Nat} : LeavesStanding (bankBytes x va n) := by
  unfold bankBytes
  split
  · exact fun _ => rfl
  · exact .bind (bankLines_standing _) fun _ _ => rfl

@[simp] theorem srvRead_standing {p va n : Nat} : (s.srvRead p va n).2.standing = s.standing := by
  unfold State.srvRead
  exact awaiting_standing fun _ => bankBytes_standing _

@[simp] theorem layerList_standing {p model layer : Nat} : (s.layerList p model layer).2.standing = s.standing := by
  unfold State.layerList
  split
  · next h => exact standing_snd h srvRead_standing
  · next h =>
    have table := standing_snd h srvRead_standing
    dsimp only
    split <;> next h' => exact (standing_snd h' srvRead_standing).trans table

@[simp] theorem startPass_standing {gn model : Nat} {vectors : List Nat} : (s.startPass gn model vectors).standing = s.standing := by
  unfold State.startPass
  dsimp only
  split <;> next h => simp [standing_snd h layerList_standing]

@[simp] theorem endChain_standing {gn : Nat} : (s.endChain gn).standing = s.standing := by
  unfold State.endChain
  dsimp only
  split
  · exact standing_foldl (fun _ _ => modReq_standing) _ _
  · rfl

theorem runGroup_standing {gn : Nat} : ∀ (n : Nat) (s : State), (State.runGroup gn n s).standing = s.standing
  | 0, _ => rfl
  | n + 1, s => by
    unfold State.runGroup
    dsimp only
    split
    · rfl
    · split
      · exact sendIssues_standing _ _
      · split
        · rfl
        · split
          · rfl
          · rw [runGroup_standing n]
            split <;> simp

@[simp] theorem issueLayer_standing {gn : Nat} : (s.issueLayer gn).standing = s.standing := by
  unfold State.issueLayer
  dsimp only
  split
  · exact runGroup_standing _ _
  · split
    · split
      · rfl
      · exact standing_foldl (fun _ _ => modReq_standing) _ _
    · rfl

/-! ### Groups formed, and the boundary's end -/

@[simp] theorem formGroup_standing {p port : Nat} {members : List Nat} : (s.formGroup p port members).standing = s.standing := by
  unfold State.formGroup
  dsimp only
  rw [issueLayer_standing]
  refine (modSrv_standing fun _ => ⟨rfl, rfl, rfl⟩).trans ?_
  rw [standing_foldl (fun _ _ => modReq_standing), submitBytes_standing]

@[simp] theorem leaveOut_standing {i : Nat} : (s.leaveOut i).standing = s.standing := rfl

theorem formGroups_standing {p : Nat} : ∀ (n : Nat) (order : List Nat) (s : State),
    (State.formGroups p n order s).standing = s.standing
  | 0, _, _ => rfl
  | _ + 1, [], _ => rfl
  | n + 1, i :: rest, s => by
    unfold State.formGroups
    split
    · exact standing_foldl (fun _ _ => leaveOut_standing) _ _
    · exact (formGroups_standing n _ _).trans formGroup_standing

@[simp] theorem quantumServe_standing {p : Nat} : (s.quantumServe p).standing = s.standing := by
  unfold State.quantumServe
  dsimp only
  rw [pumpCompletions_standing, formGroups_standing, standing_foldl_snd fun x i => ?_]
  dsimp only
  rw [settleRequest_standing, passBoundary_standing]

@[simp] theorem startSwitch_standing {c q : Nat} : (s.startSwitch c q).2.standing = s.standing := by
  unfold State.startSwitch
  split <;> rfl

theorem rebalance_standing : ∀ (n : Nat) (s : State), (State.rebalance n s).standing = s.standing
  | 0, _ => rfl
  | n + 1, s => by
    unfold State.rebalance
    split
    · rfl
    · exact (rebalance_standing n _).trans startSwitch_standing

@[simp] theorem rebalanceNow_standing : s.rebalanceNow.standing = s.standing := by
  unfold State.rebalanceNow
  split
  · rfl
  · dsimp only
    split
    · exact rebalance_standing _ _
    · exact rebalance_standing _ _

/-! ### A quantum boundary (R62, R318) -/

/-- A partial image applied: no image waits, and its records lie over the structure in force. -/
theorem applyPartial_applied : let t := s.applyPartial img
    t.pending = s.pending ∧ t.fuses = s.fuses ∧ t.gram.pending = none ∧ t.gram.image = some (s.srvImage.overlaid img) := by
  intro t
  generalize ht : t = t'
  unfold t State.applyPartial at ht
  extract_lets p old defined force testing placed added fresh _ _ _ settled at ht
  have hdefined : defined.standing = s.standing := by
    unfold defined
    split
    · split <;> simp
    · rfl
  have hsettled : settled.standing = placed.standing := by
    have freshened : fresh.standing = placed.standing := standing_foldl (fun _ _ => modCore_standing) _ _
    unfold settled
    split <;> exact freshened
  have himage : force = s.srvImage.overlaid img := congrArg (fun g => (g.image.getD {}).overlaid img) (gram_of_standing hdefined)
  have pending : settled.pending = s.pending := (congrArg Standing.pending hsettled).trans (congrArg Standing.pending hdefined)
  have fuses : settled.fuses = s.fuses := (congrArg Standing.fuses hsettled).trans (congrArg Standing.fuses hdefined)
  have none_waits : settled.gram.pending = none := congrArg Gram.pending (gram_of_standing hsettled)
  have overlaid : settled.gram.image = some (s.srvImage.overlaid img) :=
    (congrArg Gram.image (gram_of_standing hsettled)).trans (congrArg some himage)
  rw [← ht]
  split
  · rw [partialInForce_gram, partialInForce_eq, State.event_pending, State.event_fuses]
    exact ⟨pending, fuses, rfl, overlaid⟩
  · exact ⟨pending, fuses, none_waits, overlaid⟩

/-- Before a waiting image is applied, a boundary is the serving controller's alone. -/
def State.served (s : State) : State := s.partitions.foldl (fun s p => s.quantumServe p) s

theorem served_standing : s.served.standing = s.standing := standing_foldl (fun _ _ => quantumServe_standing) _ _

/-- What waits at a boundary is unchanged by the serving controller. -/
theorem served_waits : s.served.gram.pending = s.gram.pending := congrArg Gram.pending (gram_of_standing served_standing)

theorem quantum_standing (h : s.gram.pending = none) : s.quantum.standing = s.standing := by
  unfold State.quantum
  dsimp only
  split
  · next waits => cases (waits.symm.trans served_waits).trans h
  · exact rebalanceNow_standing.trans served_standing

theorem quantum_applies (h : s.gram.pending = some img) : s.quantum = (s.served.applyPartial img).rebalanceNow := by
  unfold State.quantum
  dsimp only
  split
  · next waits =>
    cases (waits.symm.trans served_waits).trans h
    rfl
  · next waits => cases (waits.symm.trans served_waits).trans h

/-! ### The stacks' bring-up ends (R196, R197) -/

/-- A stack of a bring-up that enters service. -/
def Stack.entered (x : Stack) : Stack := if x.state = .training then { x with state := .inService } else x

/-- A stack as a first load that check 10 refuses leaves it (R197). -/
def Stack.undone (x : Stack) : Stack :=
  { x with state := .selfRefresh, trained := false, asleep := true, tries := 0, descFailed := false, tg := {} }

/-- The state with the stacks of a bring-up in service. -/
def State.entered (s : State) : State := { s with stk := s.stk.map fun x => (x.1, x.2.entered) }

theorem entered_stack (n : Nat) : s.entered.stack n = (s.stack n).entered := by
  unfold State.stack State.entered
  exact Tbl.look_map _ Stack.entered rfl _ n

theorem channelsInService_entered : s.entered.channelsInService = s.channelsInService := by
  have same (n : Nat) : (s.entered.stack n).trained = (s.stack n).trained ∧ (s.entered.stack n).channels = (s.stack n).channels := by
    rw [entered_stack]
    unfold Stack.entered
    split <;> exact ⟨rfl, rfl⟩
  have chan (g : Nat) : s.entered.gchan g = s.gchan g := by
    rw [State.gchan, State.chan, (same _).2]
    rfl
  have present (n ch : Nat) : s.entered.chanPresent n ch = s.chanPresent n ch := rfl
  simp only [State.channelsInService, chan, present, (same _).1]

section
variable (job : s.gram.job.bind (·.image) = some img) (applying : s.gram.state = .apply) (full : img.partial_ = false)
  (done : ∀ x ∈ s.stk, x.2.busy = false) (ungrouped : s.gram.groupWait = [])
include job applying full done ungrouped

theorem bringupComplete_ends : s.bringupComplete =
    if s.gram.mapped then s.entered
    else if carveFits img (quotaSum img.parts) (setsOf img.hash s.channelsInService) then
      { s.entered with sets := setsOf img.hash s.channelsInService, gram := { s.gram with mapped := true } }
    else s.entered.undoBringup.gramRefuse capacityFault := by
  have idle : (s.stk.any fun x => x.2.busy) = false := by simpa using done
  rw [← channelsInService_entered]
  unfold State.bringupComplete
  simp only [job]
  exact if_neg (by simp [applying, full, idle, ungrouped])

end

theorem restarts_eq (l : List Nat) : ∀ s : State, ∃ counts held,
    l.foldl (fun s n => s.restartCounts (32 + n)) s = { s with counts := counts, clockHeld := held } := by
  induction l with
  | nil => exact fun s => ⟨_, _, rfl⟩
  | cons n l ih =>
    intro s
    obtain ⟨counts, held, h⟩ := ih (s.restartCounts (32 + n))
    exact ⟨counts, held, h⟩

theorem undoBringup_spec : let t := s.undoBringup
    t.gram = s.gram ∧ t.sets = s.sets ∧ ∀ n, t.stack n = (s.stack n).undone := by
  intro t
  generalize ht : t = t'
  unfold t State.undoBringup at ht
  obtain ⟨counts, held, restarted⟩ := restarts_eq (List.range 12) s
  rw [restarted] at ht
  subst ht
  refine ⟨rfl, rfl, fun n => ?_⟩
  unfold State.stack
  exact Tbl.look_map _ Stack.undone rfl _ n

end
end Sys2Proof.Machine
end
section
namespace Sys2Proof.Machine

section
variable {s t : State} {img : Image}

/-- A waiting partial image applied at a boundary, whatever the serving controller does there besides. -/
theorem quantum_overlays (h : s.gram.pending = some img) : let t := s.quantum
    t.pending = s.pending ∧ t.fuses = s.fuses ∧ t.gram.pending = none ∧ t.gram.image = some (s.srvImage.overlaid img) := by
  intro t
  have standing : t.standing = (s.served.applyPartial img).standing := by
    unfold t
    rw [quantum_applies h, rebalanceNow_standing]
  have gram := gram_of_standing standing
  obtain ⟨pending, fuses, none_waits, overlaid⟩ := applyPartial_applied (s := s.served) (img := img)
  have image : s.served.srvImage = s.srvImage := congrArg (fun g => g.image.getD {}) (gram_of_standing served_standing)
  rw [image] at overlaid
  exact ⟨((congrArg Standing.pending standing).trans pending).trans (congrArg Standing.pending served_standing),
    ((congrArg Standing.fuses standing).trans fuses).trans (congrArg Standing.fuses served_standing),
    (congrArg Gram.pending gram).trans none_waits, (congrArg Gram.image gram).trans overlaid⟩

/-! ### A full image in force (R26, R60, R283, R427) -/

/-- An event changes nothing of the background work and the next sample of telemetry. -/
theorem event_background {cls pid d0 d1 : Nat} {code : Status} {o : Obs} : let t := s.event cls code o pid d0 d1
    t.mgmt.bkgRun = s.mgmt.bkgRun ∧ t.mgmt.telNext = s.mgmt.telNext := by
  by_cases room : s.mgmt.store.length < 256
  · rw [event_stored room]
    exact ⟨rfl, rfl⟩
  · rw [event_dropped (Nat.le_of_not_lt room)]
    exact ⟨rfl, rfl⟩

/-- The first full image is in force from here on; a later one has been since APPLY began. -/
theorem firstAccepted_gram : let t := if s.gram.image.isNone then (s.accept img).setDomains img else s
    t.gram = { s.gram with image := if s.gram.image = none then some img else s.gram.image } := by
  cases first : s.gram.image with
  | none => exact (gram_of_standing setDomains_standing).trans (congrArg Standing.gram accept_standing)
  | some i =>
    show s.gram = { s.gram with image := some i }
    rw [← first]

theorem fullInForce_spec : let t := s.fullInForce img
    t.gram.state = .inForce ∧ t.gram.status = Code.ok ∧ t.gram.job = none ∧ t.gram.digest = img.digest
    ∧ t.gram.serial = img.serial ∧ t.gram.pdigest = [] ∧ t.gram.loads = (s.gram.loads + 1) % 2 ^ 32
    ∧ (s.gram.image = none → t.gram.image = some img) ∧ (s.gram.image ≠ none → t.gram.image = s.gram.image)
    ∧ t.srv.state = 1 ∧ t.srv.tick = 0 ∧ t.srv.ticking = true ∧ t.mgmt.bkgRun = img.enables ∧ t.mgmt.telNext = 0 := by
  intro t
  generalize ht : t = t'
  unfold t State.fullInForce at ht
  extract_lets first accepted loaded running at ht
  have gram : loaded.gram = { s.gram with
      image := if s.gram.image = none then some img else s.gram.image, digest := img.digest, serial := img.serial,
      loads := (s.gram.loads + 1) % 2 ^ 32, pdigest := [] } :=
    congrArg (fun g : Gram => { g with
      digest := img.digest, serial := img.serial, loads := (g.loads + 1) % 2 ^ 32, pdigest := [] }) firstAccepted_gram
  have inForce : loaded.gram.image.isSome = true := by
    rw [gram]
    cases s.gram.image <;> rfl
  have ended : t'.gram = loaded.gram.ended Code.ok := by
    rw [← ht, gramEnd_gram]
    rfl
  have srv : t'.srv = running.srv := by
    rw [← ht, gramEnd_eq, State.event_srv]
    rfl
  obtain ⟨background, telemetry⟩ := event_background (s := ({ running.telMark with gram := loaded.gram.ended Code.ok } : State))
    (cls := Cls.gram) (code := Code.ok) (o := Obs.ofGram) (pid := 0xFF) (d0 := 0) (d1 := 0)
  have told : t' = ({ running.telMark with gram := loaded.gram.ended Code.ok } : State).event Cls.gram Code.ok Obs.ofGram 0xFF 0 0 :=
    ht.symm
  rw [ended, srv, told, background, telemetry]
  unfold Gram.ended
  rw [gram] at inForce ⊢
  refine ⟨if_pos inForce, rfl, rfl, rfl, rfl, rfl, rfl, fun none_before => if_pos none_before, fun later => if_neg later, rfl, rfl, rfl,
    rfl, rfl⟩

end
end Sys2Proof.Machine
end

section
open Sys2Proof Sys2Proof.Machine

theorem Sys2Proof.Claims.bringupEnds : Sys2Proof.Claims.BringupEnds := by
  intro img s job applying full done ungrouped
  refine ⟨_, congrArg Host.Outcome.next (bringupComplete_ends job applying full done ungrouped), fun mapped => ?_, fun mapped => ?_,
    fun unmapped fits => ?_, fun unmapped exceeds => ?_⟩
  · rw [if_pos mapped]
    rfl
  · rw [if_pos mapped]
    exact entered_stack
  · rw [if_neg (Bool.eq_false_iff.1 unmapped), if_pos fits]
    rfl
  · rw [if_neg (Bool.eq_false_iff.1 unmapped), if_neg (Bool.eq_false_iff.1 exceeds)]
    obtain ⟨gram, sets, undone⟩ := undoBringup_spec (s := s.entered)
    generalize s.entered.undoBringup = u at gram sets undone ⊢
    obtain ⟨⟨status, ended, _, image, _, _, _, told⟩, _⟩ := gramRefuse_refusesLoad u capacityFault
    have stack (n : Nat) : (u.gramRefuse capacityFault).stack n = u.stack n :=
      (congrArg (State.stack · n) told).trans event_stack
    refine ⟨status, image.trans (congrArg Gram.image gram), ended,
      ((congrArg State.sets told).trans (State.event_sets ..)).trans sets, fun n => ?_⟩
    rw [stack, undone]
    exact ⟨rfl, rfl⟩

theorem Sys2Proof.Claims.imageInForce : Sys2Proof.Claims.ImageInForce := by
  intro img s job applying full mapped trained ungrouped
  have none_trains : (s.stk.any fun x => x.2.state == .training) = false := by simpa using trained
  have run : exec .imageApplyDone s = .next (s.fullInForce img) := by
    refine congrArg Host.Outcome.next ?_
    simp only [job]
    exact if_neg (by simp [applying, full, mapped, none_trains, ungrouped])
  exact ⟨_, run, fullInForce_spec⟩

theorem Sys2Proof.Claims.quantumBoundary : Sys2Proof.Claims.QuantumBoundary := by
  refine ⟨fun s h => congrArg Host.Outcome.next (if_neg ?_), fun s image running boundary =>
    ⟨_, congrArg Host.Outcome.next (if_pos ?_), ?_⟩⟩
  · rcases h with h | h | h <;> simp [h]
  · simp [Option.isSome_iff_ne_none.2 image, running, boundary]
  · cases waiting : s.gram.pending with
    | none =>
      have standing := quantum_standing waiting
      exact ⟨congrArg Standing.pending standing, congrArg Standing.fuses standing, fun _ => gram_of_standing standing, nofun⟩
    | some img =>
      obtain ⟨pending, fuses, none_waits, overlaid⟩ := quantum_overlays waiting
      exact ⟨pending, fuses, nofun, fun img' h => by cases h; exact ⟨none_waits, overlaid⟩⟩

/-- Settles O12: a bring-up by what check 10 says of its sets, an image's APPLY by what its end sets, a boundary by what waits at it. -/
theorem imagePutInForce : Obligations.ImagePutInForce :=
  ⟨Sys2Proof.Claims.bringupEnds, Sys2Proof.Claims.imageInForce, Sys2Proof.Claims.quantumBoundary⟩

end

/-! ## Lines written to, buffered at and read from the base dies (R207, R209, R246 to R254) -/

section
namespace Sys2Proof

theorem slice_whole (b : List Byte) : slice b 0 b.length = b := by
  simp [slice]

theorem Memory.readList_eq (m : List Host.Cell) : ∀ (n a : Nat), Memory.readList m a n = (List.range n).map fun i => Memory.read m (a + i)
  | 0, _ => rfl
  | n + 1, a => by
    rw [Memory.readList, Memory.readList_eq m n, List.range_succ_eq_map, List.map_cons, List.map_map]
    exact congrArg (Memory.read m a :: ·)
      (List.map_congr_left fun i _ => congrArg (Memory.read m) (by simp only [Nat.succ_eq_add_one]; omega))

/-- What has been written to a canonical memory is read back. -/
theorem Memory.readList_writeList (m : List Host.Cell) (a : Nat) (b : List Byte) (h : Memory.wf m = true) :
    Memory.readList (Memory.writeList m a b) a b.length = b := by
  rw [Memory.readList_eq]
  refine List.ext_getElem (by simp) fun i _ hi => ?_
  rw [List.getElem_map, List.getElem_range, Memory.read_writeList_self b m a i h hi,
    List.getD_eq_getElem?_getD, List.getElem?_eq_getElem hi, Option.getD_some]

end Sys2Proof

namespace Sys2Proof.Machine

section
variable {s t r : State} {n ch line : Nat}

/-! ### The one line that bytes within a line fall on -/

/-- The bytes of a line some of whose bytes are given, from an offset on. -/
def padLine (off : Nat) (b : List Byte) : List Byte := List.replicate off 0 ++ b ++ List.replicate (64 - off - b.length) 0

/-- The mask of some bytes of a line. -/
def lineMask (off len : Nat) : Nat := (2 ^ len - 1) * 2 ^ off

theorem lineMask_add (off len : Nat) : lineMask off len + 2 ^ off = 2 ^ (len + off) := by
  rw [lineMask, Nat.pow_add, Nat.sub_mul, Nat.one_mul]
  exact Nat.sub_add_cancel (Nat.le_mul_of_pos_left _ (Nat.two_pow_pos len))

/-- A mask is full where the bytes are all of their line. -/
theorem lineMask_full {off len : Nat} (inside : off + len ≤ 64) : lineMask off len = fullMask ↔ len = 64 := by
  have sum := lineMask_add off len
  constructor
  · intro full
    rw [full] at sum
    have within : 2 ^ (len + off) ≤ 2 ^ 64 := Nat.pow_le_pow_right (by decide) (by omega)
    have first : off = 0 := by
      refine Decidable.byContradiction fun later => ?_
      have two : 2 ^ 1 ≤ 2 ^ off := Nat.pow_le_pow_right (by decide) (by omega)
      simp only [fullMask] at sum
      omega
    rw [first] at sum
    have exponent : len + 0 = 64 := (Nat.pow_right_inj (by decide)).1 (show 2 ^ (len + 0) = 2 ^ 64 from sum.symm)
    exact exponent
  · intro whole
    have first : off = 0 := by omega
    rw [whole, first]
    rfl

theorem lineParts_within {pa : Nat} {b : List Byte} (some_bytes : 1 ≤ b.length) (inside : pa % 64 + b.length ≤ 64) :
    lineParts pa b = [(pa / 64, padLine (pa % 64) b, lineMask (pa % 64) b.length)] := by
  have one : (pa + b.length - 1) / 64 - pa / 64 + 1 = 1 := by omega
  have low : max pa (64 * (pa / 64)) = pa := by omega
  have high : min (pa + b.length) (64 * (pa / 64) + 64) = pa + b.length := by omega
  have not_empty : ¬ b.isEmpty = true := by
    cases b
    · simp at some_bytes
    · simp
  unfold lineParts
  rw [if_neg not_empty, one, List.range_one, List.map_singleton]
  simp only [Nat.add_zero, low, high]
  rw [show pa - 64 * (pa / 64) = pa % 64 by omega, Nat.sub_self, Nat.add_sub_cancel_left, slice_whole,
    show 64 * (pa / 64) + 64 - (pa + b.length) = 64 - pa % 64 - b.length by omega]
  rfl

theorem padLine_whole {b : List Byte} (whole : b.length = 64) : padLine 0 b = b := by
  simp [padLine, whole]

/-- The write that bytes within one line are (R203, R207). -/
def lineWrite (w : Writer) (pa : Nat) (b : List Byte) : WriteOp :=
  { writer := w, line := pa / 64, bytes := padLine (pa % 64) b, mask := lineMask (pa % 64) b.length }

theorem submitBytes_within {w : Writer} {pa : Nat} {b : List Byte} (some_bytes : 1 ≤ b.length) (inside : pa % 64 + b.length ≤ 64) :
    s.submitBytes w pa b 0 = s.submit (lineWrite w pa b) := by
  rw [State.submitBytes, lineParts_within some_bytes inside]
  rfl

/-! ### A write performed at once (R207, R340) -/

section
variable {op : WriteOp} {g off : Nat} (placed : s.locate (64 * op.line) = .cell g off) (awake : (s.stack (g / 32)).asleep = false)
include placed awake

theorem submit_performs (unclaimed : s.claimant op.writer (op.line / 1024) = none)
    (unheld : s.companionHolds op.writer op.line = false) :
    s.submit op = ((s.perform op).2.settleCache op).deliver op (s.perform op).1 := by
  simp [State.submit, State.writeBase, placed, awake, unclaimed, unheld]

end

/-- The state at which a write meets its channel: a line counted, a refresh that eight owed ones demand, and each verb that has decoded
an entry of a noun table there keeping what it read (R75, R209). -/
def State.meets (s : State) (n ch line : Nat) : State :=
  ((s.modStack n fun x => { x with portLines := x.portLines + 1 }).refreshFirst n ch).keepNouns line

theorem perform_plain {op : WriteOp} {g off : Nat} (placed : s.locate (64 * op.line) = .cell g off) (sound : op.poison = false)
    (plain : op.atomic = none) (crosses : s.transfers.look 0 op.line = 0) :
    s.perform op = ((Code.ok, 0), (s.meets (g / 32) (g % 32) op.line).combine (g / 32) (g % 32) op.line op.bytes op.mask) := by
  have crossed : (s.modStack (g / 32) fun x => { x with portLines := x.portLines + 1 }).transfer (g / 32) op.line
      = (true, s.modStack (g / 32) fun x => { x with portLines := x.portLines + 1 }) := if_pos crosses
  unfold State.perform
  simp only [placed, crossed, sound, plain]
  rfl

theorem refreshFirst_onlyStacks : OnlyStacks s (s.refreshFirst n ch) := by
  unfold State.refreshFirst
  split <;> rfl

theorem refreshFirst_wcb : ((s.refreshFirst n ch).chan n ch).wcb = (s.chan n ch).wcb := by
  unfold State.refreshFirst
  split
  · rfl
  · rw [State.modChan_chan_self]

theorem keepNouns_eq : s.keepNouns line = { s with cores := (s.keepNouns line).cores } := by
  unfold State.keepNouns
  split <;> rfl

theorem keepNouns_outside (h : line < nounTablePa 0 / 64 ∨ nounTablePa 16 / 64 ≤ line) : s.keepNouns line = s :=
  if_pos (by simpa using h)

theorem meets_eq : ∃ stk cores, s.meets n ch line = { s with stk := stk, cores := cores } := by
  unfold State.meets
  rw [keepNouns_eq, refreshFirst_onlyStacks]
  exact ⟨_, _, rfl⟩

theorem meets_wcb : ((s.meets n ch line).chan n ch).wcb = (s.chan n ch).wcb := by
  have kept (t : State) : (t.keepNouns line).chan n ch = t.chan n ch := by
    rw [keepNouns_eq]
    rfl
  rw [State.meets, kept, refreshFirst_wcb]
  simp [State.chan]

theorem meets_cores (h : line < nounTablePa 0 / 64 ∨ nounTablePa 16 / 64 ≤ line) : (s.meets n ch line).cores = s.cores := by
  rw [State.meets, keepNouns_outside h, refreshFirst_onlyStacks]
  rfl

section
variable {b : List Byte} {mask : Nat} (unbuffered : (s.chan n ch).wcb.find? (·.line == line) = none)
include unbuffered

theorem combine_whole (whole : mask = fullMask) : s.combine n ch line b mask = s.writeCells line b := by
  unfold State.combine
  simp only [unbuffered, if_pos whole]

theorem combine_part (part : mask ≠ fullMask) (room : (s.chan n ch).wcb.length < 64) : s.combine n ch line b mask
    = s.modChan n ch fun c => { c with wcb := c.wcb ++ [{ line := line, bytes := b, mask := mask }] } := by
  unfold State.combine
  simp only [unbuffered, if_neg part]
  split
  · rw [if_pos room]
  · rfl

end

theorem settleCache_eq (op : WriteOp) : s.settleCache op = { s with clusters := (s.settleCache op).clusters } := by
  unfold State.settleCache
  split
  · rfl
  · split <;> rfl

theorem settleCache_alone {op : WriteOp} (h : writerCluster op.writer = none) : s.settleCache op = s := by
  simp only [State.settleCache, h]

theorem deliver_eq (op : WriteOp) (x : Status × Nat) :
    s.deliver op x = { s with out := (s.deliver op x).out, answers := (s.deliver op x).answers } := by
  unfold State.deliver
  split
  case h_3 =>
    split
    · rfl
    · split <;> rfl
  all_goals rfl

/-- A line whose cells hold no fixed bits takes the codeword of its bytes (R248). -/
theorem writeCells_unfixed {b : List Byte} (unfixed : s.stuck.seek line = none) : s.writeCells line b
    = { s with mem := Memory.writeList s.mem (64 * line) b, poison := s.poison.filter (· != line), upsets := s.upsets.drop line } := by
  simp only [State.writeCells, State.fixCells, unfixed]

/-- A line outside the noun tables. -/
def noNouns (line : Nat) : Prop := line < nounTablePa 0 / 64 ∨ nounTablePa 16 / 64 ≤ line

section
variable {b : List Byte} {mask : Nat} (unbuffered : (s.chan n ch).wcb.find? (·.line == line) = none)
include unbuffered

/-- A whole line at its channel stands in the cells (R207, R248). -/
theorem meets_combine_whole (whole : mask = fullMask) : let c := (s.meets n ch line).combine n ch line b mask
    c = { s with mem := c.mem, poison := c.poison, upsets := c.upsets, stk := c.stk, cores := c.cores }
    ∧ (noNouns line → c.cores = s.cores)
    ∧ (s.stuck.seek line = none → c.mem = Memory.writeList s.mem (64 * line) b ∧ c.poison = s.poison.filter (· != line)
        ∧ c.upsets = s.upsets.drop line) := by
  intro c
  have written : c = (s.meets n ch line).writeCells line b := combine_whole (by rwa [meets_wcb]) whole
  obtain ⟨stk, cores, met⟩ := meets_eq (s := s) (n := n) (ch := ch) (line := line)
  obtain ⟨mem, poison, upsets, cells⟩ := writeCells_onlyCells (s.meets n ch line) line b
  refine ⟨?_, fun outside => ?_, fun unfixed => ?_⟩
  · rw [written, cells, met]
  · rw [written, cells]
    exact meets_cores outside
  · rw [written, writeCells_unfixed (by rwa [met]), met]
    exact ⟨rfl, rfl, rfl⟩

/-- A part of a line at its channel joins the write-combining buffer (R207). -/
theorem meets_combine_part (part : mask ≠ fullMask) (room : (s.chan n ch).wcb.length < 64) :
    let c := (s.meets n ch line).combine n ch line b mask
    c = { s with stk := c.stk, cores := c.cores } ∧ (noNouns line → c.cores = s.cores)
    ∧ (c.chan n ch).wcb = (s.chan n ch).wcb ++ [{ line := line, bytes := b, mask := mask }] := by
  intro c
  have written : c = _ := combine_part (by rwa [meets_wcb]) part (by rwa [meets_wcb])
  obtain ⟨stk, cores, met⟩ := meets_eq (s := s) (n := n) (ch := ch) (line := line)
  refine ⟨?_, fun outside => ?_, ?_⟩
  · rw [written, met]
    rfl
  · rw [written]
    exact meets_cores outside
  · rw [written, State.modChan_chan_self, meets_wcb]

end

/-- The answer to a write touches the cache of its writer's cluster, and what it hears. -/
theorem answered_eq (op : WriteOp) (x : Status × Nat) : ∃ clusters out answers,
    (s.settleCache op).deliver op x = { s with clusters := clusters, out := out, answers := answers }
    ∧ (writerCluster op.writer = none → clusters = s.clusters) := by
  refine ⟨(s.settleCache op).clusters, ((s.settleCache op).deliver op x).out, ((s.settleCache op).deliver op x).answers, ?_,
    fun alone => congrArg State.clusters (settleCache_alone alone)⟩
  rw [deliver_eq, settleCache_eq]

end
end Sys2Proof.Machine
end

section
open Sys2Proof Sys2Proof.Machine

theorem Sys2Proof.Claims.lineWrites : Sys2Proof.Claims.LineWrites := by
  intro w pa g off b s some_bytes inside placed awake unclaimed unheld crosses unbuffered room
  have performed : s.submitBytes w pa b 0 = _ := (submitBytes_within some_bytes inside).trans
    ((submit_performs placed awake unclaimed unheld).trans (by rw [perform_plain placed rfl rfl crosses]))
  refine ⟨_, congrArg Host.Outcome.next performed, ?_⟩
  have outside (h : pa < nounTablePa 0 ∨ nounTablePa 16 ≤ pa) : noNouns (pa / 64) := by
    simp only [noNouns, nounTablePa] at h ⊢
    omega
  generalize hc : State.combine _ _ _ _ _ _ = c
  obtain ⟨clusters, out, answers, answered, alone⟩ := answered_eq (s := c) (lineWrite w pa b) (Code.ok, 0)
  dsimp only
  rw [answered]
  by_cases whole : b.length = 64
  · obtain ⟨only, cores, cells⟩ := hc ▸ meets_combine_whole (b := (lineWrite w pa b).bytes) unbuffered
      ((lineMask_full inside).2 whole)
    refine ⟨by rw [only], fun h => cores (outside h), fun h => (alone h).trans (by rw [only]), fun _ unfixed => ?_,
      fun part => absurd whole part⟩
    obtain ⟨mem, poison, upsets⟩ := cells unfixed
    have bytes : (lineWrite w pa b).bytes = b := by
      simp only [lineWrite, show pa % 64 = 0 by omega, padLine_whole whole]
    rw [bytes, show 64 * (pa / 64) = pa by omega] at mem
    rw [mem]
    exact ⟨poison, upsets, fun wf => whole ▸ Memory.readList_writeList s.mem pa b wf,
      fun a h => Memory.read_writeList_other b s.mem pa a (whole ▸ h)⟩
  · obtain ⟨only, cores, buffered⟩ := hc ▸ meets_combine_part (b := (lineWrite w pa b).bytes) unbuffered
      (mt (lineMask_full inside).1 whole) (room whole)
    exact ⟨by rw [only], fun h => cores (outside h), fun h => (alone h).trans (by rw [only]), fun h => absurd h whole,
      fun _ => ⟨by rw [only], by rw [only], by rw [only], _, buffered, rfl, rfl⟩⟩

end

section
namespace Sys2Proof.Machine

section
variable {s t r : State} {n ch line src rd : Nat}

/-! ### Cells read (R246 to R252) -/

/-- The erased position of a channel, where it has one (R256). -/
def Channel.erasure (c : Channel) : Option Nat := if c.erase = 31 then none else some c.erase

theorem strike_nothing : s.strike {} = s := rfl

theorem mem_insertLine (x : Nat) : ∀ l : List Nat, x ∈ insertLine x l
  | [] => List.mem_singleton_self x
  | y :: l => by
    unfold insertLine
    split
    · exact List.mem_cons_self
    · split
      · next h => exact h ▸ List.mem_cons_self
      · exact List.mem_cons_of_mem y (mem_insertLine x l)

section
variable (kept : (s.stack n).lost = false)
include kept

theorem readCells_sound (sound : (s.deviation line).isEmpty = true) : s.readCells n ch line src rd
    = (.data ((s.chan n ch).buffered line (Memory.readList s.mem (64 * line) 64)), s) := by
  unfold State.readCells
  simp [kept, sound, applyDeviation]

variable (wrong : (s.deviation line).isEmpty = false)
include wrong

theorem readCells_poisoned (decoded : decodeWord (s.chan n ch).erasure (s.deviation line) = .poisoned) :
    s.readCells n ch line src rd = (.fault Code.poisoned, s.logRead n ch line 3 rd [] true) := by
  unfold Channel.erasure at decoded
  unfold State.readCells
  simp [kept, wrong, decoded]

theorem readCells_uncorrectable (decoded : decodeWord (s.chan n ch).erasure (s.deviation line) = .uncorrectable) :
    s.readCells n ch line src rd = (.fault Code.ueData, s.firstUncorrectable n ch line src rd) := by
  unfold Channel.erasure at decoded
  unfold State.readCells
  simp [kept, wrong, decoded]

end

/-! ### Buffered lines leave (R207, R262) -/

theorem poisonLine_eq : ∃ upsets, s.poisonLine line = { s with poison := insertLine line s.poison, upsets := upsets } := by
  unfold State.poisonLine
  rw [fixCells_eq]
  exact ⟨_, rfl⟩

/-- The state with a line's entry taken out of its channel's write-combining buffer. -/
def State.unbuffer (s : State) (n ch line : Nat) : State :=
  s.modChan n ch fun c => { c with wcb := c.wcb.filter (·.line != line) }

theorem find?_filter_line (l : List WcbEntry) : (l.filter (·.line != line)).find? (·.line == line) = none := by
  simp

theorem exec_wcbEvictTimeout {e : WcbEntry} (found : (s.chan n ch).wcb.find? (·.line == line) = some e) :
    e.line = line ∧ exec (.wcbEvictTimeout n ch line {}) s = .next (s.evictEntry n ch e) := by
  refine ⟨by simpa using List.find?_some found, congrArg Host.Outcome.next ?_⟩
  simp only [found]
  rfl

section
variable {e : WcbEntry} (kept : (s.stack n).lost = false)
include kept

theorem unbuffer_kept : ((s.unbuffer n ch line).stack n).lost = false := by
  rw [State.unbuffer, State.modChan, State.modStack_stack_self]
  exact kept

/-- A buffered line is merged over cells that can be read (R207). -/
theorem evictEntry_merges (sound : (s.deviation e.line).isEmpty = true) : s.evictEntry n ch e
    = (s.unbuffer n ch e.line).writeCells e.line (mergeMask (Memory.readList s.mem (64 * e.line) 64) e.bytes e.mask) := by
  have alone : ((s.unbuffer n ch e.line).chan n ch).buffered e.line (Memory.readList s.mem (64 * e.line) 64)
      = Memory.readList s.mem (64 * e.line) 64 := by
    unfold Channel.buffered
    rw [State.unbuffer, State.modChan_chan_self, find?_filter_line]
  have read : (s.unbuffer n ch e.line).readCells n ch e.line (unitStation n ch) 4
      = (.data (Memory.readList s.mem (64 * e.line) 64), s.unbuffer n ch e.line) := by
    rw [readCells_sound (unbuffer_kept kept) sound]
    exact congrArg (fun b => (Read.data b, s.unbuffer n ch e.line)) alone
  unfold State.unbuffer at read ⊢
  simp only [State.evictEntry, read]

/-- A buffered line whose cells hold a poison word leaves one (R207, R248). -/
theorem evictEntry_poisons (wrong : (s.deviation e.line).isEmpty = false)
    (decoded : decodeWord (s.chan n ch).erasure (s.deviation e.line) = .poisoned) : s.evictEntry n ch e
    = ((s.unbuffer n ch e.line).logRead n ch e.line 3 4 [] true).poisonLine e.line := by
  have erasure : ((s.unbuffer n ch e.line).chan n ch).erasure = (s.chan n ch).erasure := by
    rw [State.unbuffer, State.modChan_chan_self]
    rfl
  have read := readCells_poisoned (src := unitStation n ch) (rd := 4) (unbuffer_kept (ch := ch) (line := e.line) kept) wrong
    (erasure ▸ decoded)
  unfold State.unbuffer at read ⊢
  simp only [State.evictEntry, read]

end

/-! ### Transfers over the stack ports (R249) -/

theorem transfer_clear (h : s.transfers.look 0 line = 0) : s.transfer n line = (true, s) := if_pos h

/-- The state with a line's failed transfers retried, counted, and a window asked for after a fifth (R249). -/
def State.retried (s : State) (n line k : Nat) : State :=
  ({ s with transfers := s.transfers.drop line } : State).modStack n fun x =>
    { x with retries := (x.retries + min k 4) % 2 ^ 32, recalibrate := x.recalibrate || decide (5 ≤ k) }

theorem transfer_retried {k : Nat} (fails : s.transfers.look 0 line = k) (h : 0 < k) :
    s.transfer n line = (decide (k < 5), s.retried n line k) := by
  subst fails
  exact if_neg (Nat.ne_of_gt h)

/-! ### Lines read (R209, R246 to R252) -/

/-- The state with a line counted that a reader takes, over the stack port or not. -/
def State.lineCounted (s : State) (n rd : Nat) : State :=
  s.modStack n fun x => if rd = 0 then { x with portLines := x.portLines + 1 } else { x with unitLines := x.unitLines + 1 }

/-- The state at which a read meets its channel: its line counted, and for any reader but a running sequence a refresh that eight owed
ones demand (R209). -/
def State.reaches (s : State) (n ch rd : Nat) : State :=
  if rd = 1 then s.lineCounted n rd else (s.lineCounted n rd).refreshFirst n ch

theorem lineCounted_stack : ((s.lineCounted n rd).stack n).lost = (s.stack n).lost
    ∧ ((s.lineCounted n rd).stack n).channels = (s.stack n).channels := by
  rw [State.lineCounted, State.modStack_stack_self]
  split <;> exact ⟨rfl, rfl⟩

theorem lineCounted_chan : (s.lineCounted n rd).chan n ch = s.chan n ch := by
  rw [State.chan, lineCounted_stack.2, State.chan]

theorem refreshFirst_kept : ((s.refreshFirst n ch).stack n).lost = (s.stack n).lost
    ∧ ((s.refreshFirst n ch).chan n ch).erasure = (s.chan n ch).erasure := by
  unfold State.refreshFirst
  split
  · exact ⟨rfl, rfl⟩
  · rw [State.modChan_chan_self, State.modChan, State.modStack_stack_self]
    exact ⟨rfl, rfl⟩

theorem reaches_kept : ((s.reaches n ch rd).stack n).lost = (s.stack n).lost
    ∧ ((s.reaches n ch rd).chan n ch).erasure = (s.chan n ch).erasure := by
  have counted : ((s.lineCounted n rd).stack n).lost = (s.stack n).lost
      ∧ ((s.lineCounted n rd).chan n ch).erasure = (s.chan n ch).erasure :=
    ⟨lineCounted_stack.1, by rw [lineCounted_chan]⟩
  unfold State.reaches
  split
  · exact counted
  · exact ⟨refreshFirst_kept.1.trans counted.1, refreshFirst_kept.2.trans counted.2⟩

theorem reaches_onlyStacks : OnlyStacks s (s.reaches n ch rd) := by
  unfold State.reaches
  split
  · rfl
  · exact OnlyStacks.trans (t := s.lineCounted n rd) rfl refreshFirst_onlyStacks

theorem reaches_deviation : (s.reaches n ch rd).deviation line = s.deviation line := by
  rw [reaches_onlyStacks]
  rfl

theorem reaches_transfers {x : Tbl Nat} :
    ({ s with transfers := x } : State).reaches n ch rd = { s.reaches n ch rd with transfers := x } := by
  unfold State.reaches
  split
  · rfl
  · unfold State.refreshFirst
    by_cases room : ((s.lineCounted n rd).chan n ch).owed < 8
    · rw [if_pos room]
      exact if_pos room
    · rw [if_neg room]
      exact if_neg room

section
variable (kept : (s.stack n).lost = false)
include kept

theorem reaches_sound (sound : (s.deviation line).isEmpty = true) :
    ∃ b, (s.reaches n ch rd).readCells n ch line src rd = (.data b, s.reaches n ch rd) :=
  ⟨_, readCells_sound (reaches_kept.1.trans kept) (by rw [reaches_deviation, sound])⟩

theorem reaches_uncorrectable (wrong : (s.deviation line).isEmpty = false)
    (decoded : decodeWord (s.chan n ch).erasure (s.deviation line) = .uncorrectable) :
    (s.reaches n ch rd).readCells n ch line src rd
      = (.fault Code.ueData, (s.reaches n ch rd).firstUncorrectable n ch line src rd) :=
  readCells_uncorrectable (reaches_kept.1.trans kept) (by rw [reaches_deviation, wrong])
    (by rw [reaches_kept.2, reaches_deviation, decoded])

end

section
variable {g off : Nat} (placed : s.locate (64 * line) = .cell g off) (awake : (s.stack (g / 32)).asleep = false)
include placed awake

section
variable {b : List Byte} (data : (s.reaches (g / 32) (g % 32) rd).readCells (g / 32) (g % 32) line src rd = (.data b, t))
include data

theorem readLine_inside (inside : rd ≠ 0) : s.readLine src rd line = (.data b, t) := by
  unfold State.reaches State.lineCounted at data
  simp only [State.readLine, placed, awake, data]
  simp [inside]

/-- A line read for a port arrives there, or is logged where it does not (R249). -/
theorem readLine_port {arrives : Bool} (port : rd = 0) (crosses : t.transfer (g / 32) line = (arrives, r)) :
    (s.readLine src rd line).2 = if arrives then r else r.logRead (g / 32) (g % 32) line 2 rd [] false := by
  unfold State.reaches State.lineCounted at data
  simp only [State.readLine, placed, awake, data]
  cases arrives <;> simp [port, crosses]

end

variable (kept : (s.stack (g / 32)).lost = false)
include kept

/-- A sound line that crosses its port at once: the read is counted, and that is all. -/
theorem readLine_sound (sound : (s.deviation line).isEmpty = true) (clear : s.transfers.look 0 line = 0) :
    (s.readLine src rd line).2 = s.reaches (g / 32) (g % 32) rd := by
  obtain ⟨b, data⟩ := reaches_sound (ch := g % 32) (rd := rd) (src := src) kept sound
  by_cases port : rd = 0
  · have clear' : (s.reaches (g / 32) (g % 32) rd).transfers.look 0 line = 0 := by
      rw [reaches_onlyStacks]
      exact clear
    exact readLine_port placed awake data port (transfer_clear clear')
  · exact congrArg Prod.snd (readLine_inside placed awake data port)

/-- A sound line whose transfers fail: retried, and logged where a fifth fails (R249). -/
theorem readLine_retried {k : Nat} (sound : (s.deviation line).isEmpty = true) (port : rd = 0)
    (fails : s.transfers.look 0 line = k) (some_fail : 0 < k) :
    let t := (s.reaches (g / 32) (g % 32) rd).retried (g / 32) line k
    (s.readLine src rd line).2 = if k < 5 then t else t.logRead (g / 32) (g % 32) line 2 rd [] false := by
  obtain ⟨b, data⟩ := reaches_sound (ch := g % 32) (rd := rd) (src := src) kept sound
  have fails' : (s.reaches (g / 32) (g % 32) rd).transfers.look 0 line = k := by
    rw [reaches_onlyStacks]
    exact fails
  simpa using readLine_port placed awake data port (transfer_retried fails' some_fail)

/-- A line first found uncorrectable (R252). -/
theorem readLine_uncorrectable (wrong : (s.deviation line).isEmpty = false)
    (decoded : decodeWord (s.chan (g / 32) (g % 32)).erasure (s.deviation line) = .uncorrectable) : (s.readLine src rd line).2
    = (s.reaches (g / 32) (g % 32) rd).firstUncorrectable (g / 32) (g % 32) line src rd := by
  have fault := reaches_uncorrectable (ch := g % 32) (rd := rd) (src := src) kept wrong decoded
  unfold State.reaches State.lineCounted at fault ⊢
  simp only [State.readLine, placed, awake, fault]
  rfl

end

/-! ### A line first found uncorrectable (R252) -/

theorem damage_poison {pa : Nat} : (s.damage pa).poison = s.poison := by
  have told (t : State) (e block : Nat) : (t.tellDamaged e block).poison = t.poison :=
    foldl_leaves State.poison (fun _ _ => State.event_poison ..) _ t
  unfold State.damage
  split
  · rfl
  · dsimp only
    split
    · rfl
    · split
      · exact told ..
      · split
        · exact (State.event_poison ..).trans (told ..)
        · exact told ..

theorem mapOut_poison {reason : Nat} : (s.mapOut n ch reason).poison = s.poison := by
  unfold State.mapOut
  dsimp only
  split
  · rfl
  · exact (damageModels_leaves State.poison (fun _ _ _ => rfl) (fun _ _ _ _ _ _ _ => State.event_poison ..) _).trans
      (foldl_leaves State.poison (fun _ _ => State.event_poison ..) _ _)

theorem firstUncorrectable_poison : line ∈ (s.firstUncorrectable n ch line src rd).poison := by
  obtain ⟨upsets, poisoned⟩ := poisonLine_eq (s := s) (line := line)
  unfold State.firstUncorrectable
  extract_lets logged ue counted told damaged
  have kept : damaged.poison = insertLine line s.poison := by
    have before : told.poison = insertLine line s.poison := by
      unfold told counted logged
      rw [State.event_poison, State.modChan_poison, State.logRead, State.modStack_poison, poisoned]
    unfold damaged
    split
    · rw [damage_poison, before]
    · exact before
  have held : line ∈ damaged.poison := kept ▸ mem_insertLine line s.poison
  split
  · rw [mapOut_poison]
    exact held
  · exact held

/-! ### BASE_DIE_READ by its reader (R249, R252, R254) -/

section
variable {x : Reader} {pa g at_ : Nat} (cell : s.cellAt pa = some (g, at_))

theorem readerCode_unit : readerCode x = 1 ↔ x = .unit := by
  cases x <;> simp [readerCode]

include cell

theorem baseDieRead_reads (checks : x ≠ .checker) : s.baseDieRead x pa {} 0
    = (s.readLine (readerStation (g / 32) (g % 32) x) (readerCode x) (pa / 64)).2 := by
  unfold State.baseDieRead
  simp only [strike_nothing, cell]
  cases x with
  | checker => exact absurd rfl checks
  | port | unit | patrol | rangeScrub | eviction | refetch => rfl

theorem baseDieRead_fails {failures : Nat} (port : readerCode x = 0) (fails : 0 < failures) : s.baseDieRead x pa {} failures
    = (({ s with transfers := s.transfers.put (pa / 64) failures } : State).readLine (readerStation (g / 32) (g % 32) x) (readerCode x)
        (pa / 64)).2 := by
  unfold State.baseDieRead
  simp only [strike_nothing, cell]
  cases x with
  | port a =>
    simp only [if_neg (Nat.ne_of_gt fails)]
    rfl
  | unit | patrol | rangeScrub | eviction | refetch | checker => cases port

theorem baseDieRead_untested (h : (s.gchan g).state ≠ .testing) {failures : Nat} : s.baseDieRead .checker pa {} failures = s := by
  unfold State.baseDieRead
  simp only [strike_nothing, cell]
  exact if_neg h

end

end
end Sys2Proof.Machine
end

section
open Sys2Proof Sys2Proof.Machine

theorem Sys2Proof.Claims.bufferedLinesLeave : Sys2Proof.Claims.BufferedLinesLeave := by
  refine ⟨fun n ch line e s found kept sound unfixed => ?_, fun n ch line e s found kept wrong poisoned => ?_,
    fun n ch line u s none_there => congrArg Host.Outcome.next (by simp only [none_there])⟩
  · obtain ⟨rfl, run⟩ := exec_wcbEvictTimeout found
    refine ⟨_, run, ?_⟩
    dsimp only
    rw [evictEntry_merges kept sound, writeCells_unfixed (s := s.unbuffer n ch e.line) unfixed]
    refine ⟨rfl, rfl, ?_⟩
    exact congrArg Channel.wcb (State.modChan_chan_self ..)
  · obtain ⟨rfl, run⟩ := exec_wcbEvictTimeout found
    obtain ⟨upsets, left⟩ := poisonLine_eq (s := (s.unbuffer n ch e.line).logRead n ch e.line 3 4 [] true) (line := e.line)
    refine ⟨_, run, ?_⟩
    dsimp only
    rw [evictEntry_poisons kept wrong poisoned, left]
    exact ⟨rfl, rfl⟩

theorem Sys2Proof.Claims.lineReads : Sys2Proof.Claims.LineReads := by
  intro x pa g off at_ s placed cell awake kept crosses n ch line counted refreshed erasure
  have hreached : s.reaches n ch (readerCode x) = refreshed := by
    unfold State.reaches refreshed
    by_cases unit : x = .unit
    · rw [if_pos (readerCode_unit.2 unit), if_pos unit]
      rfl
    · rw [if_neg (mt readerCode_unit.1 unit), if_neg unit]
      rfl
  have owed : (counted.chan n ch).owed = (s.chan n ch).owed :=
    congrArg Channel.owed (lineCounted_chan (rd := readerCode x))
  refine ⟨fun sound => ⟨fun checks => ⟨_, congrArg Host.Outcome.next (baseDieRead_reads cell checks), ?_⟩, fun room => ?_, fun full => ?_,
    fun port failures fails => ⟨_, congrArg Host.Outcome.next (baseDieRead_fails cell port fails), ?_⟩⟩,
    fun wrong decoded checks => ⟨_, congrArg Host.Outcome.next (baseDieRead_reads cell checks), ?_⟩,
    fun quiet failures => congrArg Host.Outcome.next (baseDieRead_untested cell quiet)⟩
  · exact (readLine_sound placed awake kept sound crosses).trans hreached
  · exact if_pos (owed ▸ room)
  · rw [State.refreshFirst, if_neg (by omega), State.modChan_chan_self, owed]
  · have retried := readLine_retried (s := { s with transfers := s.transfers.put line failures }) (src := readerStation n ch x)
      placed awake kept sound port (Tbl.look_put_self ..) fails
    rw [reaches_transfers, hreached, port] at retried
    dsimp only
    rw [port]
    exact retried
  · dsimp only
    rw [readLine_uncorrectable placed awake kept wrong decoded, hreached]
    exact ⟨rfl, firstUncorrectable_poison⟩

/-- Settles O27: a write by whether it is its whole line, an entry that leaves by what its line's cells hold, a read by what it finds
and whether it crosses its port. -/
theorem linesWrittenAndRead : Obligations.LinesWrittenAndRead :=
  ⟨Sys2Proof.Claims.lineWrites, Sys2Proof.Claims.bufferedLinesLeave, Sys2Proof.Claims.lineReads⟩

end

/-! ## Bank-side units: descriptors taken, sequences cancelled and admitted (R217, R225 to R232, R281) -/

section
namespace Sys2Proof

/-! ### Members of a table with rising numbers -/

section
variable {α : Type} {d x y : α} {n : Nat} {done rest : Tbl α}

/-- A member that the numbers before it do not reach is found, and set, where it stands. -/
theorem Tbl.look_middle (before : ∀ e ∈ done, e.1 < n) : Tbl.look d (done ++ (n, x) :: rest) n = x := by
  induction done with
  | nil => exact if_pos rfl
  | cons e done ih =>
    have first : e.1 < n := before e List.mem_cons_self
    exact (if_neg (Nat.ne_of_lt first)).trans (ih fun e' he' => before e' (List.mem_cons_of_mem e he'))

theorem Tbl.put_middle (before : ∀ e ∈ done, e.1 < n) : Tbl.put n y (done ++ (n, x) :: rest) = done ++ (n, y) :: rest := by
  induction done with
  | nil => simp [Tbl.put]
  | cons e done ih =>
    have first : e.1 < n := before e List.mem_cons_self
    have later := ih fun e' he' => before e' (List.mem_cons_of_mem e he')
    simp only [List.cons_append, Tbl.put, Nat.lt_asymm first, (Nat.ne_of_lt first).symm, if_false, later]

end
end Sys2Proof

namespace Sys2Proof.Machine

section
variable {s t r : State} {n ch op id pid tag src : Nat} {u : Upset} {q : Machine.Seq} {raw : List Byte}
  {rest : List (Nat × List Byte)} {st : Status} {va : Nat}

/-! ### What an attempt of a sequence's computation gives -/

section
variable {α β : Type} {m : SM α} {f : α → SM β} {v : α} {halt : SeqHalt}

theorem seqRun_bind (h : m.run s = (.ok v, t)) : (m >>= f).run s = (f v).run t := by
  show ExceptT.bindCont f (m.run s).1 (m.run s).2 = _
  rw [h]
  rfl

theorem seqRun_bind_halt (h : m.run s = (.error halt, t)) : (m >>= f).run s = (.error halt, t) := by
  show ExceptT.bindCont f (m.run s).1 (m.run s).2 = _
  rw [h]
  rfl

theorem bankAttempt_ok (h : m.run s = (.ok v, t)) : (bankAttempt m).run s = (.ok (.ok v), t) := by
  unfold bankAttempt
  rw [run_tryCatch, seqRun_bind h]
  rfl

theorem bankAttempt_fault (h : m.run s = (.error (.fault st va), t)) : (bankAttempt m).run s = (.ok (.error (st, va)), t) := by
  unfold bankAttempt
  rw [run_tryCatch, seqRun_bind_halt h]
  rfl

end

/-! ### The head of an intake (R217, R225, R226, R232) -/

/-- The sequence that a descriptor of a partition makes at the unit whose intake held it. -/
def takenSeq (n ch src pid : Nat) (raw : List Byte) : Machine.Seq :=
  { desc := parseSeq raw, pid := pid, leadStack := n, leadChannel := ch, issuer := src, stks := [n] }

/-- The state with an intake's head taken from it. -/
def State.popIntake (s : State) (n ch : Nat) (rest : List (Nat × List Byte)) : State :=
  s.modChan n ch fun c => { c with intake := rest }

/-- The state with a sequence taken in under the next number. -/
def State.takeIn (s : State) (id : Nat) (q : Machine.Seq) : State := { s with seqs := s.seqs.put id q, nextSeq := id + 1 }

/-- What becomes of a descriptor, by what its checks give. -/
def State.judged (s : State) (n ch src pid id : Nat) (raw : List Byte) (rest : List (Nat × List Byte)) :
    Except (Status × Nat) (List (Option Noun)) → State
  | .error (st, va) =>
    if (parseSeq raw).op = opCancel then
      ((s.popIntake n ch rest).intakeCredit pid n ch src).event Cls.bsu st (Obs.ofUnit n ch) pid (parseSeq raw).tag 0
    else ((s.popIntake n ch rest).takeIn id (takenSeq n ch src pid raw)).endSeq id st va false
  | .ok ns =>
    if (parseSeq raw).op = opCancel then
      ((s.popIntake n ch rest).intakeCredit pid n ch src).cancelTag n pid (parseSeq raw).tag
    else (s.popIntake n ch rest).takeIn id { takenSeq n ch src pid raw with nouns := ns }

section
variable (head : (s.chan n ch).intake = (src, raw) :: rest) (mine : (parseSeq raw).op = op)
  (ready : s.domainReady (44 + n) = true) (sender : s.senderPid src = some pid)
include head mine ready sender

theorem takeDescriptor_judged {found : Except (Status × Nat) (List (Option Noun))}
    (checked : (bankAttempt (seqCheck (takenSeq n ch src pid raw).lead (parseSeq raw) raw)).run ((s.domainTold (44 + n)).strike u)
      = (.ok found, t)) :
    s.takeDescriptor n ch op u = t.judged n ch src pid s.nextSeq raw rest found := by
  have same : (s.domainTold (44 + n)).senderPid src = some pid := sender
  subst mine
  unfold State.takeDescriptor
  simp only [head, ready, same, bne_self_eq_false, Bool.false_and, Bool.not_true, Bool.false_eq_true, if_false]
  generalize run : ExceptT.run (m := StateM State) (ε := SeqHalt) (α := Except (Status × Nat) (List (Option Noun))) _
    ((s.domainTold (44 + n)).strike u) = out
  have answers : out = (.ok found, t) := run.symm.trans (seqRun_bind (f := fun ns => pure ns) checked)
  subst answers
  cases found <;> rfl

end

/-- A CANCEL whose other bytes are zero passes its check, with nothing read (R226). -/
theorem seqCheck_cancel {r : BankReader} (op : (parseSeq raw).op = opCancel) (plain : (raw.drop 5).all (· == 0) = true) :
    (seqCheck r (parseSeq raw) raw).run s = (.ok [], s) := by
  have passes : (parseSeq raw).ok raw = true := (if_pos op).trans plain
  unfold seqCheck
  simp only [passes, op]
  rfl

/-! ### Sequences stopped by their tag (R232) -/

/-- A sequence of a partition that carries a tag and occupies a stack. -/
def Seq.cancelHit (q : Machine.Seq) (n pid tag : Nat) : Bool :=
  q.pid == pid && q.desc.tag == tag && (q.stks.contains n || q.leadStack == n)

/-- A sequence with SEQ_CANCELLED as its failure, unless it has failed already. -/
def Seq.failCancelled (q : Machine.Seq) : Machine.Seq := { q with failure := some (q.failure.getD Code.seqCancelled) }

/-- A sequence as a CANCEL leaves it that finds it admitted or not its own. -/
def Seq.cancelled (q : Machine.Seq) (n pid tag : Nat) : Machine.Seq :=
  if q.cancelHit n pid tag && (q.phase == .reading || q.phase == .sending) then q.failCancelled else q

/-- What a CANCEL does with one sequence of the table. -/
def State.cancelOne (n pid tag : Nat) (s : State) (x : Nat × Machine.Seq) : State :=
  if x.2.cancelHit n pid tag then
    match x.2.phase with
    | .waiting => s.endSeq x.1 Code.seqCancelled 0 false
    | .closing => s
    | _ => s.modSeq x.1 Seq.failCancelled
  else s

theorem cancelTag_eq : s.cancelTag n pid tag = s.seqs.foldl (State.cancelOne n pid tag) s := by
  unfold State.cancelTag
  congr 1
  funext s x
  have missed : (x.2.pid != pid || x.2.desc.tag != tag || !(x.2.stks.contains n || x.2.leadStack == n)) = !x.2.cancelHit n pid tag := by
    simp only [Seq.cancelHit, Bool.not_and, bne]
  unfold State.cancelOne
  cases hit : x.2.cancelHit n pid tag
  all_goals
    rw [hit] at missed
    simp only [missed]
    rfl

section
variable {done later : Tbl Machine.Seq}

theorem cancelOne_stops (here : s.seqs = done ++ (id, q) :: later) (before : ∀ e ∈ done, e.1 < id)
    (admitted : q.cancelHit n pid tag = true → q.phase ≠ .waiting) :
    s.cancelOne n pid tag (id, q) = { s with seqs := done ++ (id, q.cancelled n pid tag) :: later } := by
  have same : s = { s with seqs := done ++ (id, q) :: later } := by rw [← here]
  have stopped : s.modSeq id Seq.failCancelled = { s with seqs := done ++ (id, q.failCancelled) :: later } := by
    rw [State.modSeq, here, Tbl.upd, Tbl.look_middle before, Tbl.put_middle before]
  unfold State.cancelOne Seq.cancelled
  cases hit : q.cancelHit n pid tag with
  | false => exact same
  | true =>
    cases phase : q.phase with
    | waiting => exact absurd phase (admitted hit)
    | reading | sending => exact stopped
    | closing => exact same

/-- The rest of a CANCEL's walk over the table, behind the members it has met. -/
theorem foldl_cancelOne (later : Tbl Machine.Seq) : ∀ (done : Tbl Machine.Seq) (s : State), s.seqs = done ++ later →
    (s.seqs.map (·.1)).Pairwise (· < ·) → (∀ x ∈ later, x.2.cancelHit n pid tag = true → x.2.phase ≠ .waiting) →
    later.foldl (State.cancelOne n pid tag) s
      = { s with seqs := done ++ later.map fun x => (x.1, x.2.cancelled n pid tag) } := by
  induction later with
  | nil =>
    intro done s here _ _
    rw [List.map_nil, ← here]
    rfl
  | cons x later ih =>
    intro done s here rising admitted
    obtain ⟨id, q⟩ := x
    have before : ∀ e ∈ done, e.1 < id := by
      rw [here, List.map_append, List.pairwise_append] at rising
      obtain ⟨-, -, below⟩ := rising
      exact fun e he => below e.1 (List.mem_map_of_mem he) id List.mem_cons_self
    have first := cancelOne_stops here before (admitted (id, q) List.mem_cons_self)
    have others := fun x hx => admitted x (List.mem_cons_of_mem _ hx)
    rw [List.foldl_cons, first, ih (done ++ [(id, q.cancelled n pid tag)]) _ (by simp) (by simpa [here] using rising) others]
    simp

end

/-- A CANCEL of a state where none of its sequences waits for admission. -/
theorem cancelTag_stops (rising : s.seqs.Pairwise fun a b => a.1 < b.1)
    (admitted : ∀ x ∈ s.seqs, x.2.cancelHit n pid tag = true → x.2.phase ≠ .waiting) :
    s.cancelTag n pid tag = { s with seqs := s.seqs.map fun x => (x.1, x.2.cancelled n pid tag) } := by
  rw [cancelTag_eq, foldl_cancelOne s.seqs [] s rfl (List.pairwise_map.2 rising) admitted, List.nil_append]

theorem cancelTag_waiting (alone : s.seqs = [(id, q)]) (hit : q.cancelHit n pid tag = true) (waits : q.phase = .waiting) :
    s.cancelTag n pid tag = s.endSeq id Code.seqCancelled 0 false := by
  simp [cancelTag_eq, alone, State.cancelOne, hit, waits]

theorem bsuCancel_completes (allowed : s.stackRefused n 0x1010 = none) (hpid : pid < 16) (htag : tag < 2 ^ 32)
    (cancels : s.cancelTag n pid tag = t) :
    Completes (.bsuCancel n pid tag) s (· = t.modStack n fun x => { x with bsuLastCmd := Code.ok }) := by
  refine ⟨_, rfl, ?_⟩
  rw [allowed, Option.getD_none, State.bsuCancelWrite, Nat.mod_eq_of_lt hpid, Nat.mod_eq_of_lt htag, cancels]

/-! ### Admission (R228, R229, R231, R281) -/

/-- The stacks of the units that work on a sequence. -/
def unitStacks (units : List Nat) : List Nat := units.foldl (fun acc g => insertLine (g / 32) acc) []

/-- The stacks a sequence occupies. -/
def Footprints.occupied (f : Footprints) (working : List Nat) : List Nat :=
  (f.stks ++ working).foldl (fun acc n => insertLine n acc) []

/-- The conditions of admission hold over the footprints found. -/
def State.Admits (s : State) (q : Machine.Seq) (f : Footprints) (working : List Nat) : Prop :=
  s.conflicts f = false ∧ s.hasRoom q (f.occupied working) working = true ∧ (∀ n ∈ f.stks, (s.stack n).asleep = false)
    ∧ ∀ n ∈ working, s.domainReady (44 + n) = true ∧ s.domainFailed (44 + n) = false

section
variable {f g : Footprints} {working : List Nat} {go : State → List Nat → State}

theorem admission_conflict (meets : s.conflicts f = true) :
    s.admission id q f working go = s.endSeq id Code.claimConflict 0 false := if_pos meets

theorem admission_full (clear : s.conflicts f = false) (full : s.hasRoom q (f.occupied working) working = false) :
    s.admission id q f working go = s :=
  (if_neg (Bool.eq_false_iff.1 clear)).trans (if_pos (congrArg not full))

theorem admission_ready (ready : s.Admits q f working) : s.admission id q f working go = go s (f.occupied working) := by
  obtain ⟨clear, room, awake, on⟩ := ready
  have roomy : (!s.hasRoom q (f.occupied working) working) = false := congrArg not room
  have sound : ((f.stks.any fun n => (s.stack n).asleep && s.domainFailed (32 + n))
      || working.any fun n => s.domainFailed (44 + n)) = false :=
    Bool.or_eq_false_iff.2 ⟨List.any_eq_false.2 fun n hn => by simp [awake n hn], List.any_eq_false.2 fun n hn => by simp [(on n hn).2]⟩
  have up : (f.stks.any fun n => (s.stack n).asleep) = false := List.any_eq_false.2 fun n hn => by simp [awake n hn]
  have powered : (working.any fun n => !(s.domainReady (44 + n))) = false := List.any_eq_false.2 fun n hn => by simp [(on n hn).1]
  exact (if_neg (Bool.eq_false_iff.1 clear)).trans <| (if_neg (Bool.eq_false_iff.1 roomy)).trans <|
    (if_neg (Bool.eq_false_iff.1 sound)).trans <| (if_neg (Bool.eq_false_iff.1 up)).trans <| if_neg (Bool.eq_false_iff.1 powered)

/-- What follows the walk of a sequence's footprints: the walk of the records of its delta form, and the conditions once more. -/
def State.admitRecords (s : State) (id : Nat) (q : Machine.Seq) (step : Nat) (units : List Nat) (f : Footprints) : State :=
  match (bankAttempt (walkRecords q.lead q step units f)).run s with
  | (.error _, s) => s
  | (.ok (.error (st, va)), s) => s.endSeq id st va true
  | (.ok (.ok f), s) => s.admission id q f (unitStacks units) fun s stks => s.enterSeq id q f units stks

section
variable {step : Nat} {units : List Nat}

theorem admitRecords_fault (walk : (walkRecords q.lead q step units f).run s = (.error (.fault st va), t)) :
    s.admitRecords id q step units f = t.endSeq id st va true := by
  simp only [State.admitRecords, bankAttempt_fault walk]

theorem admitRecords_walked (walk : (walkRecords q.lead q step units f).run s = (.ok g, t)) :
    s.admitRecords id q step units f = t.admission id q g (unitStacks units) fun s stks => s.enterSeq id q g units stks := by
  simp only [State.admitRecords, bankAttempt_ok walk]

end

/-- The state in which a sequence has been admitted after all the others, its claim taken and its ports bound (R229, R231). -/
def State.admitted (s : State) (id : Nat) (q : Machine.Seq) (f : Footprints) (stks : List Nat) : State :=
  (s.modSeq id fun q => { q with phase := .reading, order := (s.seqs.map fun (_, x) => x.order).foldl max 0 + 1, readBlocks := f.reads,
                                 writeBlocks := f.writes, stks := stks }).bindLead q

section
variable {units stks : List Nat}

theorem enterSeq_begins (begins : (seqBegin id q f units).run (s.admitted id q f stks) = (.ok (), t)) :
    s.enterSeq id q f units stks = t.intakeCredit q.pid q.leadStack q.leadChannel q.issuer := by
  unfold State.admitted at begins
  simp only [State.enterSeq, begins]

theorem enterSeq_fault (begins : (seqBegin id q f units).run (s.admitted id q f stks) = (.error (.fault st va), t)) :
    s.enterSeq id q f units stks
      = (t.modSeq id fun q => { q with failure := some st, faultVa := va }).intakeCredit q.pid q.leadStack q.leadChannel q.issuer := by
  unfold State.admitted at begins
  simp only [State.enterSeq, begins]

end

section
variable (seek : s.seqs.seek id = some q) (waits : q.phase = .waiting)
include seek waits

theorem seqAdmit_failed (failed : q.failure = some st) : s.seqAdmit id u = s.endSeq id st 0 false := by
  simp [State.seqAdmit, seek, waits, failed]

variable (sound : q.failure = none) (next : s.nextAtLead id q = true)
include sound next

theorem seqAdmit_fault
    (walk : (walkNouns q.lead q (min 0x10000 (2 ^ s.granule)) (List.range 8) {}).run (s.strike u) = (.error (.fault st va), t)) :
    s.seqAdmit id u = t.endSeq id st va true := by
  simp [State.seqAdmit, seek, waits, sound, next, bankAttempt_fault walk]

theorem seqAdmit_walked
    (walk : (walkNouns q.lead q (min 0x10000 (2 ^ s.granule)) (List.range 8) {}).run (s.strike u) = (.ok f, t)) :
    s.seqAdmit id u = t.admission id q f (unitStacks (s.workingUnits q)) fun s' _ =>
      s'.admitRecords id q (min 0x10000 (2 ^ s.granule)) (s.workingUnits q) f := by
  simp only [State.seqAdmit, seek, waits, sound, next, bankAttempt_ok walk]
  rfl

end

theorem seqAdmit_completes (h : s.seqAdmit id u = t) : Completes (.seqAdmit id u) s (· = t.issueAll) :=
  ⟨_, rfl, congrArg State.issueAll h⟩

end
end
end Sys2Proof.Machine
end

section
open Sys2Proof Sys2Proof.Machine

/-- Each operation's command takes a descriptor of its own from the head of an intake. -/
theorem Sys2Proof.Claims.takesDescriptor {n ch op : Nat} {u : Upset} {s : State} {c : Instr}
    (runs : exec c s = .next (s.takeDescriptor n ch op u)) (real : op ≠ opCancel) : Claims.TakesDescriptor n ch u s c op := by
  intro src pid raw rest head mine ready sender q s0 popped
  have other : ¬ (parseSeq raw).op = opCancel := mine ▸ real
  refine ⟨fun ns s1 checks => ⟨_, runs, ?_⟩, fun st va s1 checks => ⟨_, runs, ?_⟩⟩
  · exact (takeDescriptor_judged head mine ready sender (bankAttempt_ok checks)).trans (if_neg other)
  · exact (takeDescriptor_judged head mine ready sender (bankAttempt_fault checks)).trans (if_neg other)

theorem Sys2Proof.Claims.descriptorTaken : Sys2Proof.Claims.DescriptorTaken := by
  intro n ch u s
  refine ⟨?_, ?_, ?_, ?_, ?_, ?_⟩
  all_goals exact Claims.takesDescriptor rfl (by decide)

theorem Sys2Proof.Claims.cancelStops : Sys2Proof.Claims.CancelStops := by
  refine ⟨fun n pid tag s allowed hpid htag rising admitted => ?_,
    fun n ch src pid raw rest s head op plain ready sender rising admitted => ?_,
    fun n pid tag id q s alone hits waits allowed hpid htag => ?_⟩
  · exact bsuCancel_completes allowed hpid htag (cancelTag_stops rising admitted)
  · refine ⟨_, rfl, (takeDescriptor_judged head op ready sender (bankAttempt_ok (seqCheck_cancel op plain))).trans ?_⟩
    have kept : ((((s.domainTold (44 + n)).strike {}).popIntake n ch rest).intakeCredit pid n ch src).seqs = s.seqs :=
      congrArg Prod.fst intakeCredit_claims
    refine (if_pos op).trans (cancelTag_stops ?_ ?_)
    · rwa [kept]
    · rwa [kept]
  · exact bsuCancel_completes allowed hpid htag (cancelTag_waiting alone hits waits)

theorem Sys2Proof.Claims.admissionOrder : Sys2Proof.Claims.AdmissionOrder := by
  intro id q u s seek waits
  refine ⟨fun st failed => seqAdmit_completes (seqAdmit_failed seek waits failed), ?_⟩
  intro sound next step units working stks ready
  refine ⟨fun st va s1 walk => seqAdmit_completes (seqAdmit_fault seek waits sound next walk), fun f s1 walk => ?_⟩
  have walked := seqAdmit_walked seek waits sound next walk
  refine ⟨fun meets => ?_, fun clear full => ?_, fun passes => ?_⟩
  · exact seqAdmit_completes (walked.trans (admission_conflict meets))
  · exact seqAdmit_completes (walked.trans (admission_full clear full))
  have records := walked.trans (admission_ready passes)
  refine ⟨fun st va s2 walk => ?_, fun g s2 walk => ?_⟩
  · exact seqAdmit_completes (records.trans (admitRecords_fault walk))
  have again := records.trans (admitRecords_walked walk)
  refine ⟨fun meets => ?_, fun clear full => ?_, fun passes => ?_⟩
  · exact seqAdmit_completes (again.trans (admission_conflict meets))
  · exact seqAdmit_completes (again.trans (admission_full clear full))
  have enters := again.trans (admission_ready passes)
  exact ⟨fun w begins => seqAdmit_completes (enters.trans (enterSeq_begins begins)),
    fun st va w begins => seqAdmit_completes (enters.trans (enterSeq_fault begins))⟩

/-- Settles O31: a descriptor by what its checks give, a CANCEL by a walk over the table of sequences, an admission condition by
condition in the model's order. -/
theorem sequencesTakenAndAdmitted : Obligations.SequencesTakenAndAdmitted :=
  ⟨Sys2Proof.Claims.descriptorTaken, Sys2Proof.Claims.cancelStops, Sys2Proof.Claims.admissionOrder⟩

end

/-! ## Bank-side units: slices and stalled claims (R229, R236, R237, R241) -/

section
namespace Sys2Proof.Machine

section
variable {s t : State} {n ch lines id : Nat} {u : Upset} {q : Machine.Seq}

/-! ### What errors at the base dies leave (R229, R234, R236) -/

/-- The number of free values drawn, and at each stack the refresh rate and the two limits of its units' share. -/
def State.pace (s : State) : Nat × (Nat → Bool × Nat × Nat) :=
  (s.fresh, fun n => ((s.stack n).refresh2, (s.stack n).bTherm, (s.stack n).bPower))

theorem modChan_pace {f : Channel → Channel} : (s.modChan n ch f).pace = s.pace := by
  refine Prod.ext rfl (funext fun m => ?_)
  by_cases same : m = n
  · subst same
    simp [State.pace, State.modChan]
  · simp [State.pace, State.modChan, State.modStack_stack_other _ _ same]

theorem fixCells_pace {line : Nat} : (s.fixCells line).pace = s.pace := by
  rw [fixCells_eq]
  rfl

theorem poisonLine_pace {line : Nat} : (s.poisonLine line).pace = s.pace := by
  obtain ⟨upsets, poisoned⟩ := poisonLine_eq (s := s) (line := line)
  rw [poisoned]
  rfl

theorem strikeCombining_pace {line : Nat} : (s.strikeCombining line).pace = s.pace := by
  unfold State.strikeCombining
  split
  · split
    · exact poisonLine_pace.trans modChan_pace
    · rfl
  · rfl

/-- A stack whose held writes to a line have become poison words (R262). -/
def Stack.strikeHeld (line : Nat) (x : Stack) : Stack :=
  { x with held := x.held.map fun (i, op) => (i, if op.line = line then { op with poison := true, atomic := none } else op) }

theorem strikeHeld_pace {line : Nat} :
    ({ s with stk := s.stk.map fun x => (x.1, x.2.strikeHeld line) } : State).pace = s.pace := by
  refine Prod.ext rfl (funext fun m => ?_)
  have struck : Tbl.look {} (s.stk.map fun x => (x.1, x.2.strikeHeld line)) m = (s.stack m).strikeHeld line :=
    Tbl.look_map {} (Stack.strikeHeld line) rfl s.stk m
  simp only [State.pace, State.stack, struck]
  rfl

theorem strike_pace : (s.strike u).pace = s.pace := by
  unfold State.strike
  extract_lets cells stuck transfers combining
  have hcells : cells.pace = s.pace := foldl_leaves State.pace (fun _ _ => by rfl) u.cells s
  have hstuck : stuck.pace = s.pace := (foldl_leaves State.pace (fun _ _ => by exact fixCells_pace) u.stuck cells).trans hcells
  have htransfers : transfers.pace = s.pace := (foldl_leaves State.pace (fun _ _ => by rfl) u.transfers stuck).trans hstuck
  have hcombining : combining.pace = s.pace := by
    unfold combining
    split
    · exact htransfers
    · exact strikeCombining_pace.trans htransfers
  split
  · exact hcombining
  · exact strikeHeld_pace.trans hcombining

theorem refreshFirst_pace : (s.refreshFirst n ch).pace = s.pace := by
  unfold State.refreshFirst
  split
  · rfl
  · exact modChan_pace

/-! ### SLICE_BOUNDARY by what its unit owes and what its sequence does (R229, R236, R237) -/

/-- The state of a unit that goes on at a slice boundary, a refresh issued where eight were owed (R237). -/
def State.resumed (s : State) (n ch : Nat) (u : Upset) : State :=
  ((s.strike u).refreshFirst n ch).modChan n ch fun c => { c with paused := false }

theorem resumed_pace : (s.resumed n ch u).pace = s.pace := modChan_pace.trans (refreshFirst_pace.trans strike_pace)

theorem resumed_seq : (s.resumed n ch u).seq id = s.seq id := by
  have kept : (s.resumed n ch u).seqs = s.seqs := by
    rw [State.resumed, State.modChan_seqs, refreshFirst_onlyStacks]
    exact strike_seqs u
  rw [State.seq, kept, State.seq]

/-- A sequence with the refresh rate and the share of the stack of one of its units noted on it (R236). -/
def Seq.noting (q : Machine.Seq) (x : Stack) : Machine.Seq :=
  { q with doubled := q.doubled || x.refresh2, shareCut := q.shareCut || decide (min x.bTherm x.bPower < 16) }

theorem noting_resumed : q.noting ((s.resumed n ch u).stack n) = q.noting (s.stack n) := by
  have rates := congrFun (congrArg Prod.snd (resumed_pace (s := s) (n := n) (ch := ch) (u := u))) n
  obtain ⟨refresh, limits⟩ := Prod.ext_iff.1 rates
  obtain ⟨therm, power⟩ := Prod.ext_iff.1 limits
  dsimp only [State.pace] at refresh therm power
  unfold Seq.noting
  rw [refresh, therm, power]

/-- The state in which a unit reads its next slice: the slice and its cycles counted, on its sequence and on its partition's share
(R234, R236). -/
def State.sliceCounted (s : State) (n id cycles : Nat) (q : Machine.Seq) : State :=
  (({ s with fresh := s.fresh + 1 } : State).modSeq id fun _ =>
    { q with slices := q.slices + 1, cycles := q.cycles + cycles }).modStack n fun x =>
      { x with shareCycles := x.shareCycles.upd 0 q.pid fun v => (v + cycles) % 2 ^ 64 }

/-- What a unit does that goes on at a slice boundary: it stops where its sequence has failed, waits where vectors have not come, and
reads its next slice else (R229, R236). `noted` is the sequence with what is in force noted on it. -/
def State.sliceOn (s : State) (n ch lines id : Nat) (u : Upset) (noted : Machine.Seq) : State :=
  let g := 32 * n + ch
  if noted.failure.isSome then s.modSeq id fun _ => { noted with stopped := noted.stopped ++ [g] }
  else if !noted.vectorsHere then s.modSeq id fun _ => noted
  else
    let counted := s.sliceCounted n id (s.drawBelow 1501).1 noted
    if u.accumulator then
      (counted.modSeq id fun q => { q with failure := some Code.ueSram, stopped := q.stopped ++ [g] }).event Cls.clu Code.ueSram
        (Obs.ofStack n) noted.pid 0 0
    else State.runItems g id lines counted

section
variable {noted : Machine.Seq}

theorem sliceOn_stops (failed : noted.failure ≠ none) :
    s.sliceOn n ch lines id u noted = s.modSeq id fun _ => { noted with stopped := noted.stopped ++ [32 * n + ch] } :=
  if_pos (Option.isSome_iff_ne_none.2 failed)

variable (sound : noted.failure = none)
include sound

theorem sliceOn_waits (missing : noted.vectorsHere = false) : s.sliceOn n ch lines id u noted = s.modSeq id fun _ => noted := by
  simp [State.sliceOn, sound, missing]

theorem sliceOn_reads (here : noted.vectorsHere = true) (whole : u.accumulator = false) : s.sliceOn n ch lines id u noted
    = State.runItems (32 * n + ch) id lines (s.sliceCounted n id (s.drawBelow 1501).1 noted) := by
  simp [State.sliceOn, sound, here, whole]

end

theorem unitSlice_idle (idle : s.unitSeq (32 * n + ch) = none) :
    s.unitSlice n ch lines u = s.modChan n ch fun c => { c with paused := false } := by
  simp only [State.unitSlice, idle]

section
variable (works : s.unitSeq (32 * n + ch) = some id)
include works

theorem unitSlice_pauses (owes : 8 ≤ (s.chan n ch).owed) (running : (s.chan n ch).paused = false) : s.unitSlice n ch lines u
    = ((s.strike u).modChan n ch fun c => { c with pauses := (c.pauses + 1) % 2 ^ 32, paused := true }).modSeq id
        fun q => { q with pauses := q.pauses + 1 } := by
  simp [State.unitSlice, works, owes, running]

theorem unitSlice_resumes (goes : (s.chan n ch).owed < 8 ∨ (s.chan n ch).paused = true) :
    s.unitSlice n ch lines u = (s.resumed n ch u).sliceOn n ch lines id u ((s.seq id).noting (s.stack n)) := by
  have running : (decide (8 ≤ (s.chan n ch).owed) && !(s.chan n ch).paused) = false := by
    rcases goes with few | paused
    · simp [Nat.not_le.2 few]
    · simp [paused]
  rw [← noting_resumed (u := u) (ch := ch), ← resumed_seq (u := u) (n := n) (ch := ch) (s := s)]
  unfold State.unitSlice
  simp only [works]
  refine (if_neg (Bool.eq_false_iff.1 running)).trans ?_
  unfold State.resumed
  generalize (State.modChan _ n ch fun c => { c with paused := false }) = t
  generalize t.seq id = q
  rfl

end
end
end Sys2Proof.Machine
end

section
open Sys2Proof Sys2Proof.Machine

theorem Sys2Proof.Claims.sliceRuns : Sys2Proof.Claims.SliceRuns := by
  intro n ch lines id u s
  refine ⟨fun idle => ⟨_, rfl, unitSlice_idle idle⟩, fun works => ⟨fun owes running => ⟨_, rfl, unitSlice_pauses works owes running⟩,
    fun goes => ⟨fun failed => ⟨_, rfl, ?_⟩, fun sound missing => ⟨_, rfl, ?_⟩, fun sound here whole => ⟨_, rfl, ?_⟩⟩⟩⟩
  · exact (unitSlice_resumes works goes).trans (sliceOn_stops failed)
  · exact (unitSlice_resumes works goes).trans (sliceOn_waits sound missing)
  · have drawn : (s.resumed n ch u).fresh = s.fresh := congrArg Prod.fst resumed_pace
    refine ⟨((s.resumed n ch u).drawBelow 1501).1, Nat.mod_lt _ (by decide), ?_⟩
    rw [← drawn]
    exact (unitSlice_resumes works goes).trans (sliceOn_reads sound here whole)

theorem Sys2Proof.Claims.claimStalls : Sys2Proof.Claims.ClaimStalls := by
  intro id q s seek
  refine ⟨_, rfl, ?_⟩
  simp only [seek]
  refine if_congr ?_ rfl rfl
  have held : (s.stk.any fun (_, x) => x.held.any (·.1 == id) || x.heldWaiting.any (·.1 == id)) = true
      ↔ ∃ x ∈ s.stk, ∃ w ∈ x.2.held ++ x.2.heldWaiting, w.1 = id := by
    simp only [List.any_eq_true, ← List.any_append, beq_iff_eq]
  rw [← held]
  simp only [Bool.and_eq_true, Bool.or_eq_true, beq_iff_eq, Option.isNone_iff_eq_none]
  rw [and_assoc, and_comm (a := _ = true)]

/-- Settles O32: a slice boundary by what its unit owes and whether its sequence has failed or lacks vectors; a stall by its sequence's
phase and the writes its claim holds. -/
theorem sequencesRunInSlices : Obligations.SequencesRunInSlices :=
  ⟨Sys2Proof.Claims.sliceRuns, Sys2Proof.Claims.claimStalls⟩

end
